-- ==== Sys2Proof/Word.lean ====
section
/-!
DEFINITION. The word types of the OW-40 and their plainest arithmetic (R3: every multi-byte value is little-endian).
-/
namespace Sys2Proof

/-- A 64-bit word: a scalar register, an instruction word, a virtual address. -/
abbrev Word := BitVec 64

/-- One byte. -/
abbrev Byte := BitVec 8

/-- A scalar or vector register field (R44). -/
abbrev Reg := BitVec 5

/-- `n` bits of `w` starting at bit `lo`. -/
abbrev bits {k : Nat} (w : BitVec k) (lo n : Nat) : BitVec n := BitVec.extractLsb' lo n w

/-- `n` bits of a natural number starting at bit `lo`. -/
abbrev nbits (x lo n : Nat) : Nat := x / 2 ^ lo % 2 ^ n

/-- The `n` low bytes of `x`, least significant first (R3). -/
def toBytes : Nat → Nat → List Byte
  | 0, _ => []
  | n + 1, x => BitVec.ofNat 8 x :: toBytes n (x / 256)

/-- The value of a run of bytes, least significant first (R3). -/
def ofBytes : List Byte → Nat
  | [] => 0
  | b :: bs => b.toNat + 256 * ofBytes bs

/-- One as a bit vector when the condition holds. -/
abbrev bit (b : Bool) : BitVec 1 := BitVec.ofBool b

end Sys2Proof
end

