-- ==== Sys2Proof/Syntax.lean ====
section
/-!
DEFINITION. The instructions and events of the OW-40: one constructor of `Instr` for each row of the table of
operations. A constructor of an instruction word carries the fields of its body format (R46 to R49); IDLE is no part
of it, since it spaces the word and gives it no meaning (R33). A constructor of a front-end packet or a unit command
carries its bytes (R365, R327, R337, R338). A constructor of an event carries what names the unit it happens at.
-/
namespace Sys2Proof

/-- The four streams of a tile, in the order of R52. -/
inductive Strm where
  | c | v | x | s
  deriving DecidableEq, Repr

/-- A stream's number in the order of R52. -/
def Strm.num : Strm → Nat
  | .c => 0
  | .v => 1
  | .x => 2
  | .s => 3

/-- Format P (R47): SREP. -/
structure FP where
  src : BitVec 1
  sa : Reg
  cnt : BitVec 16
  len : BitVec 13
  deriving DecidableEq, Repr

/-- Format W (R46, R273): WAITC. -/
structure FW where
  nl : BitVec 8
  ns : BitVec 8
  nc : BitVec 8
  nt : BitVec 8
  deriving DecidableEq, Repr

/-- Format T (R46): TGO. -/
structure FT where
  l : BitVec 1
  jv : BitVec 1
  jx : BitVec 1
  js : BitVec 1
  ve : BitVec 13
  xe : BitVec 13
  se : BitVec 13
  deriving DecidableEq, Repr

/-- Format CR (R46): register to register operations. -/
structure FCR where
  sd : Reg
  sa : Reg
  sb : Reg
  sc : Reg
  q : BitVec 6
  deriving DecidableEq, Repr

/-- Format CI (R46): immediate operations, traps, system. -/
structure FCI where
  sd : Reg
  sa : Reg
  q : BitVec 4
  imm : BitVec 32
  deriving DecidableEq, Repr

/-- Format CM (R46): loads, stores, atomics. -/
structure FCM where
  sd : Reg
  sa : Reg
  w : BitVec 2
  q : BitVec 2
  off : BitVec 32
  deriving DecidableEq, Repr

/-- Format CB (R46): branches and context words. -/
structure FCB where
  sa : Reg
  sb : Reg
  q : BitVec 4
  disp : BitVec 32
  deriving DecidableEq, Repr

/-- Format CL (R46): LOOP and LPROT. -/
structure FCL where
  lvl : BitVec 2
  sa : Reg
  q : BitVec 3
  beg : BitVec 18
  len : BitVec 18
  deriving DecidableEq, Repr

/-- Format CS (R46): MFS, MTS and FENCE. -/
structure FCS where
  sd : Reg
  sa : Reg
  spr : BitVec 12
  q : BitVec 4
  imm : BitVec 20
  deriving DecidableEq, Repr

/-- Format VR (R47): vector register operations. -/
structure FVR where
  vd : Reg
  va : Reg
  vb : Reg
  vc : Reg
  m : BitVec 3
  me : BitVec 1
  fmt : BitVec 4
  rnd : BitVec 3
  pka : BitVec 1
  pkb : BitVec 1
  pkc : BitVec 1
  tr : BitVec 1
  sat : BitVec 1
  deriving DecidableEq, Repr

/-- Format VI (R47): vector immediate operations, VTOPK, VCONF. -/
structure FVI where
  vd : Reg
  va : Reg
  imm : BitVec 16
  m : BitVec 3
  me : BitVec 1
  fmt : BitVec 4
  rnd : BitVec 3
  pka : BitVec 1
  tr : BitVec 1
  sat : BitVec 1
  deriving DecidableEq, Repr

/-- Format VM (R47): tile-SRAM loads and stores of the V stream. -/
structure FVM where
  v : Reg
  gidx : BitVec 20
  m : BitVec 3
  me : BitVec 1
  fmt : BitVec 4
  fq : BitVec 2
  pk : BitVec 1
  step : BitVec 6
  deriving DecidableEq, Repr

/-- Format XT (R48): XLNT. -/
structure FXT where
  lvl : BitVec 3
  sel : BitVec 3
  val : BitVec 32
  deriving DecidableEq, Repr

/-- Format XS (R48): slot, buffer and status operations. -/
structure FXS where
  o : BitVec 4
  a : BitVec 2
  gidx : BitVec 20
  fmt : BitVec 4
  rnd : BitVec 3
  step : BitVec 6
  deriving DecidableEq, Repr

/-- Format XC (R48): XSCALE, XSPAR, XGO. -/
structure FXC where
  fa : BitVec 4
  fb : BitVec 4
  shape : BitVec 4
  spa : BitVec 2
  scl : BitVec 2
  a : BitVec 2
  oa : BitVec 4
  ob : BitVec 4
  deriving DecidableEq, Repr

/-- Format SP (R49): subtree passes. -/
structure FSP where
  bi : BitVec 4
  ii : BitVec 8
  bo : BitVec 4
  io : BitVec 8
  shape : BitVec 8
  bw : BitVec 4
  iw : BitVec 8
  deriving DecidableEq, Repr

/-- Format SM (R49): bank loads and stores. -/
structure FSM where
  b : BitVec 4
  i : BitVec 8
  gidx : BitVec 20
  step : BitVec 6
  n : BitVec 5
  deriving DecidableEq, Repr

/-- Format SB (R49): moves, rescaling, conversion, evidence. -/
structure FSB where
  bd : BitVec 4
  id : BitVec 8
  bs : BitVec 4
  is : BitVec 8
  fmt : BitVec 4
  rnd : BitVec 3
  imm : BitVec 15
  deriving DecidableEq, Repr

/-- A front-end packet after its CMD byte (R365): the header and the 48 operand bytes, byte 0x10 lowest. -/
structure Packet where
  flags : BitVec 8
  box : BitVec 16
  tag : BitVec 32
  compl : Word
  ops : BitVec 384
  deriving DecidableEq, Repr

/-- An SLU command after its OP byte (R327). -/
structure SluCmd where
  mode : BitVec 8
  nrow : BitVec 16
  vocab : BitVec 24
  topk : BitVec 8
  src : Word
  res : Word
  desc : Word
  stride : BitVec 32
  base : BitVec 32
  invt : BitVec 32
  topp : BitVec 32
  seed : Word
  aux : Word
  deriving DecidableEq, Repr

/-- A COMPACT command after its OP byte (R337). -/
structure CmeCmd where
  z1 : BitVec 8
  nlay : BitVec 16
  tb : BitVec 32
  siding : Word
  res : Word
  verd : Word
  nstr : BitVec 32
  lstrs : BitVec 32
  blkt : Word
  tpp : BitVec 32
  lstrc : BitVec 32
  z2 : Word
  deriving DecidableEq, Repr

/-- A BACKFILL command after its OP byte (R338). -/
structure BfeCmd where
  z1 : BitVec 8
  nent : BitVec 16
  z2 : BitVec 32
  list : Word
  res : Word
  box : BitVec 16
  z3 : BitVec 16
  lbh : BitVec 32
  z4 : BitVec 256
  deriving DecidableEq, Repr

/-- What a peer asks over UALink (R383, R387): a read, a write, or one of the atomics of R216. -/
inductive PeerOp where
  | read (n : Nat)
  | write (data : List Byte)
  | atomic (aop : BitVec 4) (n : Nat) (a b : Nat)
  deriving DecidableEq, Repr

/-- A request of peer `peer` on UALink port `link` at exported offset `off` (R387). -/
structure PeerReq where
  link : Nat
  peer : BitVec 10
  off : Nat
  op : PeerOp
  deriving DecidableEq, Repr

/-- A launch block as the loader registers it (R65, R70): the handle, the ASID, the 128 bytes reduced to their
fields, and each code section's base and word count. `withdraw` takes the block back (R70 step 4, unload). -/
structure BlockReg where
  handle : BitVec 32
  asid : BitVec 16
  withdraw : Bool
  centry : BitVec 32
  team : Nat
  clock : BitVec 16
  lease : BitVec 32
  save : BitVec 32
  args : List Word
  cbase : Word
  cwords : Nat
  vbase : Option Word
  vwords : Nat
  xbase : Option Word
  xwords : Nat
  sbase : Option Word
  swords : Nat
  deriving DecidableEq, Repr

/-- The instructions and events of the OW-40. An event with no argument happens at the tile or the die that the
state's `cur` names. -/
inductive Instr where
  /-- NOP (R40). -/
  | nop
  /-- TEND (R41). -/
  | tend
  /-- SREP (R43). -/
  | srep (f : FP)
  /-- WAITC (R274). -/
  | waitc (f : FW)
  /-- TGO (R42). -/
  | tgo (f : FT)
  /-- ADD (R111). -/
  | add (f : FCR)
  /-- SUB (R111). -/
  | sub (f : FCR)
  /-- AND (R111). -/
  | and (f : FCR)
  /-- OR (R111). -/
  | or (f : FCR)
  /-- XOR (R111). -/
  | xor (f : FCR)
  /-- SLL (R111). -/
  | sll (f : FCR)
  /-- SRL (R111). -/
  | srl (f : FCR)
  /-- SRA (R111). -/
  | sra (f : FCR)
  /-- MUL (R111). -/
  | mul (f : FCR)
  /-- MULH (R111). -/
  | mulh (f : FCR)
  /-- DIV (R111). -/
  | div (f : FCR)
  /-- REM (R111). -/
  | rem (f : FCR)
  /-- MIN (R111). -/
  | min (f : FCR)
  /-- MAX (R111). -/
  | max (f : FCR)
  /-- CMPEQ (R111). -/
  | cmpeq (f : FCR)
  /-- CMPLT (R111). -/
  | cmplt (f : FCR)
  /-- CMPLTU (R111). -/
  | cmpltu (f : FCR)
  /-- SEL (R111). -/
  | sel (f : FCR)
  /-- ADDI (R112). -/
  | addi (f : FCI)
  /-- ANDI (R112). -/
  | andi (f : FCI)
  /-- ORI (R112). -/
  | ori (f : FCI)
  /-- XORI (R112). -/
  | xori (f : FCI)
  /-- SLLI (R112). -/
  | slli (f : FCI)
  /-- SRLI (R112). -/
  | srli (f : FCI)
  /-- SRAI (R112). -/
  | srai (f : FCI)
  /-- LUI (R112). -/
  | lui (f : FCI)
  /-- MULI (R112). -/
  | muli (f : FCI)
  /-- CMPEQI (R112). -/
  | cmpeqi (f : FCI)
  /-- CMPLTI (R112). -/
  | cmplti (f : FCI)
  /-- LD (R228). -/
  | ld (f : FCM)
  /-- ST (R229). -/
  | st (f : FCM)
  /-- AMOADD (R230). -/
  | amoadd (f : FCM)
  /-- AMOSWAP (R230). -/
  | amoswap (f : FCM)
  /-- AMOCAS (R230). -/
  | amocas (f : FCM)
  /-- AMOMIN (R230). -/
  | amomin (f : FCM)
  /-- AMOMAX (R230). -/
  | amomax (f : FCM)
  /-- BEQ (R114). -/
  | beq (f : FCB)
  /-- BNE (R114). -/
  | bne (f : FCB)
  /-- BLT (R114). -/
  | blt (f : FCB)
  /-- BGE (R114). -/
  | bge (f : FCB)
  /-- BLTU (R114). -/
  | bltu (f : FCB)
  /-- BGEU (R114). -/
  | bgeu (f : FCB)
  /-- JAL (R115). -/
  | jal (f : FCB)
  /-- JALR (R115). -/
  | jalr (f : FCB)
  /-- KBR (R125). -/
  | kbr (f : FCB)
  /-- LOOP (R117). -/
  | loop (f : FCL)
  /-- LPROT (R122). -/
  | lprot (f : FCL)
  /-- MFS (R109). -/
  | mfs (f : FCS)
  /-- MTS (R109). -/
  | mts (f : FCS)
  /-- MTS_CLKRQ (R323). -/
  | mtsClkrq (f : FCS)
  /-- MTS_LPBEG_LPEND (R121). -/
  | mtsLpbegLpend (f : FCS)
  /-- MTS_LPCNT (R120). -/
  | mtsLpcnt (f : FCS)
  /-- MTS_EVPEND (R291). -/
  | mtsEvpend (f : FCS)
  /-- MTS_SFLAGS (R279). -/
  | mtsSflags (f : FCS)
  /-- FENCE (R242). -/
  | fence (f : FCS)
  /-- CEAPP (R263). -/
  | ceapp (f : FCR)
  /-- CETAIL (R263). -/
  | cetail (f : FCR)
  /-- BINIT (R277). -/
  | binit (f : FCR)
  /-- BARRIVE (R277). -/
  | barrive (f : FCR)
  /-- BWAIT (R277). -/
  | bwait (f : FCR)
  /-- BTEST (R277). -/
  | btest (f : FCR)
  /-- QSEND (R265). -/
  | qsend (f : FCR)
  /-- QRECV (R265). -/
  | qrecv (f : FCR)
  /-- QPOLL (R265). -/
  | qpoll (f : FCR)
  /-- KPOP (R124). -/
  | kpop (f : FCR)
  /-- CXSW (R299). -/
  | cxsw (f : FCB)
  /-- CXPARK (R300). -/
  | cxpark (f : FCB)
  /-- CXYIELD (R301). -/
  | cxyield (f : FCB)
  /-- SLSUB (R340). -/
  | slsub (f : FCR)
  /-- SLGET (R340). -/
  | slget (f : FCR)
  /-- SLCFG_DRAIN (R340). -/
  | slcfgDrain (f : FCR)
  /-- SLCFG_FLUSH (R340). -/
  | slcfgFlush (f : FCR)
  /-- TRAP (R354). -/
  | trap (f : FCI)
  /-- TRET (R355). -/
  | tret (f : FCI)
  /-- TRET_PASS (R355). -/
  | tretPass (f : FCI)
  /-- SYSC_EXIT (R356). -/
  | syscExit (f : FCI)
  /-- SYSC_NOTIFY (R356). -/
  | syscNotify (f : FCI)
  /-- VADD (R139). -/
  | vadd (f : FVR)
  /-- VSUB (R139). -/
  | vsub (f : FVR)
  /-- VMUL (R139). -/
  | vmul (f : FVR)
  /-- VFMA (R139). -/
  | vfma (f : FVR)
  /-- VFMS (R139). -/
  | vfms (f : FVR)
  /-- VNFMA (R139). -/
  | vnfma (f : FVR)
  /-- VMIN (R139). -/
  | vmin (f : FVR)
  /-- VMAX (R139). -/
  | vmax (f : FVR)
  /-- VABS (R139). -/
  | vabs (f : FVR)
  /-- VNEG (R139). -/
  | vneg (f : FVR)
  /-- VAND (R139). -/
  | vand (f : FVR)
  /-- VOR (R139). -/
  | vor (f : FVR)
  /-- VXOR (R139). -/
  | vxor (f : FVR)
  /-- VANDN (R139). -/
  | vandn (f : FVR)
  /-- VSLL (R139). -/
  | vsll (f : FVR)
  /-- VSRL (R139). -/
  | vsrl (f : FVR)
  /-- VSRA (R139). -/
  | vsra (f : FVR)
  /-- VFSL (R139). -/
  | vfsl (f : FVR)
  /-- VFSR (R139). -/
  | vfsr (f : FVR)
  /-- VMULH (R139). -/
  | vmulh (f : FVR)
  /-- VAVG (R139). -/
  | vavg (f : FVR)
  /-- VCLZ (R139). -/
  | vclz (f : FVR)
  /-- VPOPC (R139). -/
  | vpopc (f : FVR)
  /-- VSEL (R139). -/
  | vsel (f : FVR)
  /-- VMOV (R139). -/
  | vmov (f : FVR)
  /-- VEXP (R139). -/
  | vexp (f : FVR)
  /-- VRCP (R139). -/
  | vrcp (f : FVR)
  /-- VRSQ (R139). -/
  | vrsq (f : FVR)
  /-- VADDI (R141). -/
  | vaddi (f : FVI)
  /-- VMULI (R141). -/
  | vmuli (f : FVI)
  /-- VSLLI (R141). -/
  | vslli (f : FVI)
  /-- VSRLI (R141). -/
  | vsrli (f : FVI)
  /-- VSRAI (R141). -/
  | vsrai (f : FVI)
  /-- VFSLI (R141). -/
  | vfsli (f : FVI)
  /-- VFSRI (R141). -/
  | vfsri (f : FVI)
  /-- VSPLAT (R141). -/
  | vsplat (f : FVI)
  /-- VCVT (R142). -/
  | vcvt (f : FVR)
  /-- VPACK (R143). -/
  | vpack (f : FVR)
  /-- VUNPK (R143). -/
  | vunpk (f : FVR)
  /-- VRSUM (R144). -/
  | vrsum (f : FVR)
  /-- VRMAX (R144). -/
  | vrmax (f : FVR)
  /-- VRMIN (R144). -/
  | vrmin (f : FVR)
  /-- VGMAX (R144). -/
  | vgmax (f : FVR)
  /-- VGSUM (R144). -/
  | vgsum (f : FVR)
  /-- VRARG (R144). -/
  | vrarg (f : FVR)
  /-- VLD (R149). -/
  | vld (f : FVM)
  /-- VST (R150). -/
  | vst (f : FVM)
  /-- VSTU (R151). -/
  | vstu (f : FVM)
  /-- VLDM (R150). -/
  | vldm (f : FVM)
  /-- VSTM (R150). -/
  | vstm (f : FVM)
  /-- VCPUSH (R153). -/
  | vcpush (f : FVR)
  /-- VCPOP (R154). -/
  | vcpop (f : FVR)
  /-- VSWCFG (R155). -/
  | vswcfg (f : FVR)
  /-- VSWGET (R155). -/
  | vswget (f : FVR)
  /-- VTOPK (R156). -/
  | vtopk (f : FVI)
  /-- VCONF (R147). -/
  | vconf (f : FVI)
  /-- VCMPEQ (R145). -/
  | vcmpeq (f : FVR)
  /-- VCMPLT (R145). -/
  | vcmplt (f : FVR)
  /-- VCMPLE (R145). -/
  | vcmple (f : FVR)
  /-- VKSET (R146). -/
  | vkset (f : FVR)
  /-- VKCLR (R146). -/
  | vkclr (f : FVR)
  /-- XLNT (R193). -/
  | xlnt (f : FXT)
  /-- XCLAIM (R197). -/
  | xclaim (f : FXS)
  /-- XREL (R197). -/
  | xrel (f : FXS)
  /-- XFILL (R198). -/
  | xfill (f : FXS)
  /-- XZERO (R197). -/
  | xzero (f : FXS)
  /-- XDRAIN (R199). -/
  | xdrain (f : FXS)
  /-- XCVT (R199). -/
  | xcvt (f : FXS)
  /-- XSCLD (R198). -/
  | xscld (f : FXS)
  /-- XMETA (R198). -/
  | xmeta (f : FXS)
  /-- XSTAT (R200). -/
  | xstat (f : FXS)
  /-- XSCALE (R194). -/
  | xscale (f : FXC)
  /-- XSPAR (R194). -/
  | xspar (f : FXC)
  /-- XGO (R195). -/
  | xgo (f : FXC)
  /-- SUP (R165). -/
  | sup (f : FSP)
  /-- SDOWN (R166). -/
  | sdown (f : FSP)
  /-- SSUM (R165). -/
  | ssum (f : FSP)
  /-- SMUL (R165). -/
  | smul (f : FSP)
  /-- SLD (R168). -/
  | sld (f : FSM)
  /-- SST (R168). -/
  | sst (f : FSM)
  /-- SLDW (R168). -/
  | sldw (f : FSM)
  /-- SSTG (R168). -/
  | sstg (f : FSM)
  /-- SMOV (R169). -/
  | smov (f : FSB)
  /-- SRESC (R169). -/
  | sresc (f : FSB)
  /-- SCVTI (R169). -/
  | scvti (f : FSB)
  /-- SCVTO (R169). -/
  | scvto (f : FSB)
  /-- SEVID (R170). -/
  | sevid (f : FSB)
  /-- SZERO (R169). -/
  | szero (f : FSB)
  /-- SONE (R169). -/
  | sone (f : FSB)
  /-- SNORM (R169). -/
  | snorm (f : FSB)
  /-- SGEXP (R169). -/
  | sgexp (f : FSB)
  /-- SMARG (R169). -/
  | smarg (f : FSB)
  /-- LOAD_VALUE_LAND (R228). -/
  | loadValueLand (t : Nat) (n : Nat)
  /-- ATOMIC_OLD_VALUE_LAND (R230). -/
  | atomicOldValueLand (t : Nat) (n : Nat)
  /-- FETCH_PAGE_ABSENT (R224). -/
  | fetchPageAbsent (t : Nat) (e : Strm)
  /-- FETCH_DISCARD (R53). -/
  | fetchDiscard (t : Nat) (e : Strm)
  /-- WAIT_THRESHOLD_EXPIRY (R26). -/
  | waitThresholdExpiry (t : Nat) (e : Strm)
  /-- PREEMPT_REQUEST (R28). -/
  | preemptRequest (box : Nat)
  /-- PREEMPT_SAVE_COMPLETE (R28). -/
  | preemptSaveComplete (box : Nat)
  /-- CONTEXT_WAKE (R289). -/
  | contextWake (box : Nat)
  /-- LAUNCH_END (R288). -/
  | launchEnd (box : Nat)
  /-- LAUNCH_COMPLETE (R288). -/
  | launchComplete (box : Nat)
  /-- BUDGET_SPENT (R294). -/
  | budgetSpent (rcb : Word)
  /-- PERIOD_START (R294). -/
  | periodStart (rcb : Word)
  /-- START_TIMESTAMP_REACHED (R281). -/
  | startTimestampReached (box : Nat)
  /-- TIMER (R300). -/
  | timer (box : Nat)
  /-- RSE_MOVE (R213). -/
  | rseMove (die : Nat) (asid : Nat) (page : Word)
  /-- RSE_WAKE_PROMOTION (R214). -/
  | rseWakePromotion (box : Nat)
  /-- HBM_READ (R218). -/
  | hbmRead (die : Nat) (stack : Nat)
  /-- HBM_WRITE (R216). -/
  | hbmWrite (die : Nat) (stack : Nat)
  /-- HBM_ATOMIC (R219). -/
  | hbmAtomic (die : Nat) (stack : Nat)
  /-- HBM_REPLY (R219). -/
  | hbmReply (die : Nat) (stack : Nat)
  /-- THERMAL_SR (R380). -/
  | thermalSr (die : Nat) (stack : Nat) (enter : Bool)
  /-- CE_FETCH (R256). -/
  | ceFetch (box : Nat) (chain : Nat)
  /-- PIECE (R260). -/
  | piece (box : Nat) (chain : Nat) (k : Nat) (j : Nat)
  /-- MARK (R261). -/
  | mark (box : Nat) (chain : Nat) (k : Nat)
  /-- QUEUE_MESSAGE_ARRIVAL (R264). -/
  | queueMessageArrival (box : Nat) (pair : Nat)
  /-- FAULT_RECORD_POST (R266). -/
  | faultRecordPost (die : Nat) (core : Nat)
  /-- FRRET_RESUME (R267). -/
  | frretResume (die : Nat) (core : Nat) (idx : Nat)
  /-- FRRET_CANCEL (R267). -/
  | frretCancel (die : Nat) (core : Nat) (idx : Nat)
  /-- SAMPLE (R332). -/
  | sample (c : SluCmd)
  /-- SHORT (R334). -/
  | short (c : SluCmd)
  /-- MERGE (R334). -/
  | merge (c : SluCmd)
  /-- VERIFY (R335). -/
  | verify (c : SluCmd)
  /-- COMPACT (R337). -/
  | compact (c : CmeCmd)
  /-- BACKFILL (R338). -/
  | backfill (c : BfeCmd)
  /-- LAUNCH (R369). -/
  | launch (p : Packet)
  /-- WAIT (R367). -/
  | wait (p : Packet)
  /-- WAIT_SATISFIED (R367). -/
  | waitSatisfied (die : Nat) (q : Nat)
  /-- WAIT_TIMEOUT (R367). -/
  | waitTimeout (die : Nat) (q : Nat)
  /-- CANCEL (R366). -/
  | cancel (p : Packet)
  /-- CREATE (R366). -/
  | create (p : Packet)
  /-- DESTROY (R399). -/
  | destroy (p : Packet)
  /-- SWAP (R287). -/
  | swap (p : Packet)
  /-- HALT (R316). -/
  | halt (p : Packet)
  /-- SIGNAL (R290). -/
  | signal (p : Packet)
  /-- WAKEHINT (R366). -/
  | wakehint (p : Packet)
  /-- TRACK (R315). -/
  | track (p : Packet)
  /-- XINV (R209). -/
  | xinv (p : Packet)
  /-- ASPACE (R205). -/
  | aspace (p : Packet)
  /-- REGION (R293). -/
  | region (p : Packet)
  /-- RCLOCK (R320). -/
  | rclock (p : Packet)
  /-- CHBIND (R255). -/
  | chbind (p : Packet)
  /-- PRBIND (R264). -/
  | prbind (p : Packet)
  /-- MODEL (R324). -/
  | model (p : Packet)
  /-- ATTEST (R372). -/
  | attest (p : Packet)
  /-- KEYEXP (R372). -/
  | keyexp (p : Packet)
  /-- KEYIMP (R372). -/
  | keyimp (p : Packet)
  /-- DEBUG (R376). -/
  | debugCmd (p : Packet)
  /-- KEYWIPE (R375). -/
  | keywipe (p : Packet)
  /-- POWER (R377). -/
  | power (p : Packet)
  /-- FWLOAD (R373). -/
  | fwload (p : Packet)
  /-- FWCOMMIT (R373). -/
  | fwcommit (v : Word)
  /-- DOORBELL (R385). -/
  | doorbell (die : Nat) (q : Nat) (width : Nat) (v : Word)
  /-- EDGE_RELEASE (R245). -/
  | edgeRelease (box : Nat)
  /-- UALINK_REQUEST (R387). -/
  | ualinkRequest (r : PeerReq)
  /-- LINK_TRAINING (R387). -/
  | linkTraining (link : Nat) (accid : BitVec 10)
  /-- REGISTER_WRITE (R363). -/
  | registerWrite (die : Nat) (off : Nat) (width : Nat) (v : Word)
  /-- LAUNCH_BLOCK_REGISTRATION (R70). -/
  | launchBlockRegistration (b : BlockReg)
  /-- LINK_DOWN (R383). -/
  | linkDown (link : Nat)
  /-- XGO_STEP (R188). -/
  | xgoStep
  /-- X_WORD_COMPLETE (R191). -/
  | xWordComplete
  /-- S_WORD_COMPLETE (R161). -/
  | sWordComplete
  /-- PENDING_WRITE_LAND (R99). -/
  | pendingWriteLand
  /-- STORE_PERFORMED (R239). -/
  | storePerformed
  /-- CROSS_DIE_WRITE_PERFORM (R236). -/
  | crossDieWritePerform
  /-- ASYNC_CAUSE_DELIVERY (R352). -/
  | asyncCauseDelivery
  /-- SELECTION (R296). -/
  | selection
  /-- GRANT_CHANGE (R323). -/
  | grantChange
  /-- RSE_DEMOTION (R215). -/
  | rseDemotion
  /-- BACKFILL_DISPATCH (R339). -/
  | backfillDispatch
  /-- DEBUG_EXPIRY (R376). -/
  | debugExpiry
  /-- FW_REVERT (R373). -/
  | fwRevert
  /-- PACKAGE_RESET (R373). -/
  | packageReset
  /-- COMPLETION_WORD_WRITE (R368). -/
  | completionWordWrite
  /-- NOTIFICATION_POST (R386). -/
  | notificationPost
  /-- STEAL_OFFER (R370). -/
  | stealOffer
  /-- TILE_GATE (R377). -/
  | tileGate
  /-- DIE_WAKE (R377). -/
  | dieWake
  /-- PACKAGE_WAKE (R377). -/
  | packageWake
  /-- V_WORD_LAND (R134). -/
  | vWordLand
  deriving DecidableEq, Repr

end Sys2Proof
end

