-- ==== Sys2Proof/Decode.lean ====
section
/-!
DEFINITION. From bits to instructions and back: the body formats (R46 to R49), the opcode maps (R50), the checks 2 to 4
of R51, the front-end packets (R365, R366), the unit commands (R327, R337, R338), and after them the encoder.
-/
namespace Sys2Proof

/-- Why a word is no instruction: the checks 2, 3 and 4 of R51. -/
inductive Reject where
  | unassigned | field | value
  deriving DecidableEq, Repr

/-- The IDLE field (R31). -/
def wordIdle (w : Word) : Nat := (bits w 54 10).toNat

/-- The OPC field (R31). -/
def wordOpc (w : Word) : BitVec 8 := bits w 46 8

/-! ## Unpacking a body (R46 to R49) -/

/-- The fields of format P. -/
def unFP (w : Word) : FP :=
  ⟨bits w 45 1, bits w 40 5, bits w 24 16, bits w 11 13⟩

/-- The body of format P, its RSV bits zero. -/
def pkFP (f : FP) : BitVec 46 :=
  f.src ++ f.sa ++ f.cnt ++ f.len ++ (0 : BitVec 11)

/-- The fields of format W. -/
def unFW (w : Word) : FW :=
  ⟨bits w 38 8, bits w 30 8, bits w 22 8, bits w 14 8⟩

/-- The body of format W, its RSV bits zero. -/
def pkFW (f : FW) : BitVec 46 :=
  f.nl ++ f.ns ++ f.nc ++ f.nt ++ (0 : BitVec 14)

/-- The fields of format T. -/
def unFT (w : Word) : FT :=
  ⟨bits w 45 1, bits w 44 1, bits w 43 1, bits w 42 1, bits w 29 13, bits w 16 13, bits w 3 13⟩

/-- The body of format T, its RSV bits zero. -/
def pkFT (f : FT) : BitVec 46 :=
  f.l ++ f.jv ++ f.jx ++ f.js ++ f.ve ++ f.xe ++ f.se ++ (0 : BitVec 3)

/-- The fields of format CR. -/
def unFCR (w : Word) : FCR :=
  ⟨bits w 41 5, bits w 36 5, bits w 31 5, bits w 26 5, bits w 20 6⟩

/-- The body of format CR, its RSV bits zero. -/
def pkFCR (f : FCR) : BitVec 46 :=
  f.sd ++ f.sa ++ f.sb ++ f.sc ++ f.q ++ (0 : BitVec 20)

/-- The fields of format CI. -/
def unFCI (w : Word) : FCI :=
  ⟨bits w 41 5, bits w 36 5, bits w 32 4, bits w 0 32⟩

/-- The body of format CI, its RSV bits zero. -/
def pkFCI (f : FCI) : BitVec 46 :=
  f.sd ++ f.sa ++ f.q ++ f.imm

/-- The fields of format CM. -/
def unFCM (w : Word) : FCM :=
  ⟨bits w 41 5, bits w 36 5, bits w 34 2, bits w 32 2, bits w 0 32⟩

/-- The body of format CM, its RSV bits zero. -/
def pkFCM (f : FCM) : BitVec 46 :=
  f.sd ++ f.sa ++ f.w ++ f.q ++ f.off

/-- The fields of format CB. -/
def unFCB (w : Word) : FCB :=
  ⟨bits w 41 5, bits w 36 5, bits w 32 4, bits w 0 32⟩

/-- The body of format CB, its RSV bits zero. -/
def pkFCB (f : FCB) : BitVec 46 :=
  f.sa ++ f.sb ++ f.q ++ f.disp

/-- The fields of format CL. -/
def unFCL (w : Word) : FCL :=
  ⟨bits w 44 2, bits w 39 5, bits w 36 3, bits w 18 18, bits w 0 18⟩

/-- The body of format CL, its RSV bits zero. -/
def pkFCL (f : FCL) : BitVec 46 :=
  f.lvl ++ f.sa ++ f.q ++ f.beg ++ f.len

/-- The fields of format CS. -/
def unFCS (w : Word) : FCS :=
  ⟨bits w 41 5, bits w 36 5, bits w 24 12, bits w 20 4, bits w 0 20⟩

/-- The body of format CS, its RSV bits zero. -/
def pkFCS (f : FCS) : BitVec 46 :=
  f.sd ++ f.sa ++ f.spr ++ f.q ++ f.imm

/-- The fields of format VR. -/
def unFVR (w : Word) : FVR :=
  ⟨bits w 41 5, bits w 36 5, bits w 31 5, bits w 26 5, bits w 23 3, bits w 22 1, bits w 18 4, bits w 15 3, bits w 14 1, bits w 13 1, bits w 12 1, bits w 11 1, bits w 10 1⟩

/-- The body of format VR, its RSV bits zero. -/
def pkFVR (f : FVR) : BitVec 46 :=
  f.vd ++ f.va ++ f.vb ++ f.vc ++ f.m ++ f.me ++ f.fmt ++ f.rnd ++ f.pka ++ f.pkb ++ f.pkc ++ f.tr ++ f.sat ++ (0 : BitVec 10)

/-- The fields of format VI. -/
def unFVI (w : Word) : FVI :=
  ⟨bits w 41 5, bits w 36 5, bits w 20 16, bits w 17 3, bits w 16 1, bits w 12 4, bits w 9 3, bits w 8 1, bits w 7 1, bits w 6 1⟩

/-- The body of format VI, its RSV bits zero. -/
def pkFVI (f : FVI) : BitVec 46 :=
  f.vd ++ f.va ++ f.imm ++ f.m ++ f.me ++ f.fmt ++ f.rnd ++ f.pka ++ f.tr ++ f.sat ++ (0 : BitVec 6)

/-- The fields of format VM. -/
def unFVM (w : Word) : FVM :=
  ⟨bits w 41 5, bits w 21 20, bits w 18 3, bits w 17 1, bits w 13 4, bits w 11 2, bits w 10 1, bits w 4 6⟩

/-- The body of format VM, its RSV bits zero. -/
def pkFVM (f : FVM) : BitVec 46 :=
  f.v ++ f.gidx ++ f.m ++ f.me ++ f.fmt ++ f.fq ++ f.pk ++ f.step ++ (0 : BitVec 4)

/-- The fields of format XT. -/
def unFXT (w : Word) : FXT :=
  ⟨bits w 43 3, bits w 40 3, bits w 8 32⟩

/-- The body of format XT, its RSV bits zero. -/
def pkFXT (f : FXT) : BitVec 46 :=
  f.lvl ++ f.sel ++ f.val ++ (0 : BitVec 8)

/-- The fields of format XS. -/
def unFXS (w : Word) : FXS :=
  ⟨bits w 42 4, bits w 40 2, bits w 20 20, bits w 16 4, bits w 13 3, bits w 7 6⟩

/-- The body of format XS, its RSV bits zero. -/
def pkFXS (f : FXS) : BitVec 46 :=
  f.o ++ f.a ++ f.gidx ++ f.fmt ++ f.rnd ++ f.step ++ (0 : BitVec 7)

/-- The fields of format XC. -/
def unFXC (w : Word) : FXC :=
  ⟨bits w 42 4, bits w 38 4, bits w 34 4, bits w 32 2, bits w 30 2, bits w 28 2, bits w 24 4, bits w 20 4⟩

/-- The body of format XC, its RSV bits zero. -/
def pkFXC (f : FXC) : BitVec 46 :=
  f.fa ++ f.fb ++ f.shape ++ f.spa ++ f.scl ++ f.a ++ f.oa ++ f.ob ++ (0 : BitVec 20)

/-- The fields of format SP. -/
def unFSP (w : Word) : FSP :=
  ⟨bits w 42 4, bits w 34 8, bits w 30 4, bits w 22 8, bits w 14 8, bits w 10 4, bits w 2 8⟩

/-- The body of format SP, its RSV bits zero. -/
def pkFSP (f : FSP) : BitVec 46 :=
  f.bi ++ f.ii ++ f.bo ++ f.io ++ f.shape ++ f.bw ++ f.iw ++ (0 : BitVec 2)

/-- The fields of format SM. -/
def unFSM (w : Word) : FSM :=
  ⟨bits w 42 4, bits w 34 8, bits w 14 20, bits w 8 6, bits w 3 5⟩

/-- The body of format SM, its RSV bits zero. -/
def pkFSM (f : FSM) : BitVec 46 :=
  f.b ++ f.i ++ f.gidx ++ f.step ++ f.n ++ (0 : BitVec 3)

/-- The fields of format SB. -/
def unFSB (w : Word) : FSB :=
  ⟨bits w 42 4, bits w 34 8, bits w 30 4, bits w 22 8, bits w 18 4, bits w 15 3, bits w 0 15⟩

/-- The body of format SB, its RSV bits zero. -/
def pkFSB (f : FSB) : BitVec 46 :=
  f.bd ++ f.id ++ f.bs ++ f.is ++ f.fmt ++ f.rnd ++ f.imm

/-! ## Format sets and special registers -/

/-- F of R128: FP32, BF16, FP16, E4M3, E5M2, E2M1. -/
def fmtF (f : BitVec 4) : Bool := 1 ≤ f.toNat && f.toNat ≤ 6
/-- H of R128: FP32, BF16, FP16. -/
def fmtH (f : BitVec 4) : Bool := 1 ≤ f.toNat && f.toNat ≤ 3
/-- I of R128: INT8, UINT8, INT32, INT64. -/
def fmtI (f : BitVec 4) : Bool := 8 ≤ f.toNat && f.toNat ≤ 11
/-- A of R128: every assigned code. -/
def fmtA (f : BitVec 4) : Bool := f.toNat ≤ 12
/-- A without SPF32 (R138). -/
def fmtB (f : BitVec 4) : Bool := f.toNat ≤ 11
/-- The matrix formats (R189). -/
def fmtM (f : BitVec 4) : Bool := 2 ≤ f.toNat && f.toNat ≤ 6 || f.toNat == 8 || f.toNat == 9

/-- Element width in bits of each format code (R128). -/
def elemBits (f : BitVec 4) : Nat :=
  match f.toNat with
  | 1 => 32 | 2 => 16 | 3 => 16 | 6 => 4 | 10 => 32 | 11 => 64 | 12 => 32 | _ => 8

/-- Elements of an entry (R128). -/
def elemCount (f : BitVec 4) : Nat := 2048 / elemBits f

/-- log2 of the number of elements of an entry. -/
def elemLog (f : BitVec 4) : Nat :=
  match f.toNat with
  | 1 => 6 | 2 => 7 | 3 => 7 | 6 => 9 | 10 => 6 | 11 => 5 | 12 => 6 | _ => 8

/-- Access of a special register number (R108, R279, R291, R341, R347). -/
inductive SprAccess where
  | ro | rw | reserved
  deriving DecidableEq, Repr

/-- The special registers of R108 with the numbers that R271, R279, R291, R341 and R348 assign. -/
def sprAccess (n : BitVec 12) : SprAccess :=
  match n.toNat with
  | 0x000 => .ro | 0x001 => .ro | 0x002 => .rw
  | 0x010 => .rw | 0x011 => .rw | 0x012 => .rw
  | 0x014 => .rw | 0x015 => .rw | 0x016 => .rw
  | 0x018 => .rw | 0x019 => .rw | 0x01A => .rw
  | 0x01C => .ro | 0x01D => .ro | 0x01E => .ro | 0x01F => .ro
  | 0x020 => .rw | 0x021 => .ro | 0x030 => .ro | 0x031 => .rw
  | 0x038 => .ro | 0x039 => .ro | 0x03A => .ro | 0x03B => .ro
  | 0x040 => .ro | 0x041 => .ro
  | 0x048 => .ro | 0x049 => .ro | 0x04A => .ro | 0x04B => .ro
  | 0x04C => .rw | 0x04D => .ro | 0x04E => .rw | 0x04F => .rw
  | 0x050 => .rw | 0x051 => .rw | 0x052 => .rw
  | 0x060 => .ro | 0x061 => .ro | 0x062 => .ro | 0x063 => .ro | 0x064 => .rw
  | 0x070 => .rw | 0x071 => .ro | 0x072 => .ro | 0x073 => .ro
  | 0x078 => .ro | 0x079 => .ro | 0x07A => .ro
  | _ => .reserved

/-! ## The checks 3 and 4 of R51 -/

/-- Check 3 (`z`: every field that is not used is zero), then check 4 (`ok`: every used field holds an allowed value). -/
def chk (z ok : Bool) : Option Reject :=
  if z then (if ok then none else some .value) else some .field

/-- A mask enable that follows R45: with me = 0, m is zero. -/
def maskOk (m : BitVec 3) (me : BitVec 1) : Bool := me == 1 || m == 0

/-- An rnd code of R45. -/
def rndOk (r : BitVec 3) : Bool := r.toNat ≤ 4

/-- Whether a word of this format uses rnd: not where its result is an integer, which is not rounded (R138). A field that
the word does not use in the case that fmt selects is one of R51's check 3. -/
def rndUsed (fmt : BitVec 4) : Bool := !fmtI fmt

/-- The checks of a VR word (R138): which of va, vb, vc are vector sources, whether a mask enables lanes, and whether
the word uses rnd, sat and tr; `z` and `ok` are the word's own conditions on its other fields. -/
def chkVR (f : FVR) (va vb vc mask rnd sat tr z ok : Bool) : Option Reject :=
  chk (z && (va || f.va == 0) && (va || f.pka == 0) && (vb || f.vb == 0) && (vb || f.pkb == 0)
        && (vc || f.vc == 0) && (vc || f.pkc == 0)
        && (if mask then maskOk f.m f.me else f.m == 0 && f.me == 0)
        && (rnd || f.rnd == 0) && (sat || f.sat == 0) && (tr || f.tr == 0))
      (ok && rndOk f.rnd)

/-- The checks of a VI word (R138, R141). -/
def chkVI (f : FVI) (va rnd sat tr z ok : Bool) : Option Reject :=
  chk (z && (va || f.va == 0) && (va || f.pka == 0) && maskOk f.m f.me
        && (rnd || f.rnd == 0) && (sat || f.sat == 0) && (tr || f.tr == 0))
      (ok && rndOk f.rnd)

/-- A shift count below the element width (R141). -/
def viCount (f : FVI) : Bool := f.imm.toNat < elemBits f.fmt && (bits f.imm 6 10 == 0)

/-- The checks of an XS word: which of o, a, gidx with step, fmt and rnd it uses (R197). -/
def chkXS (f : FXS) (o a g fmt rnd : Bool) (ok : Bool) : Option Reject :=
  chk ((o || f.o == 0) && (a || f.a == 0) && (g || (f.gidx == 0 && f.step == 0)) && (fmt || f.fmt == 0)
        && (rnd || f.rnd == 0))
      (ok && rndOk f.rnd)

/-- The checks of an SB word (R169): which of the source run, fmt, rnd and imm it uses. -/
def chkSB (f : FSB) (src fmt rnd imm ok : Bool) : Option Reject :=
  chk ((src || (f.bs == 0 && f.is == 0)) && (fmt || f.fmt == 0) && (rnd || f.rnd == 0) && (imm || f.imm == 0))
      (ok && (!fmt || fmtH f.fmt) && rndOk f.rnd)

/-- The checks 3 and 4 of R51 for each instruction word; a packet, a unit command or an event has none. -/
def check (i : Instr) : Option Reject :=
  match i with
  | .nop | .tend => none
  | .srep f => chk (if f.src == 1 then f.cnt == 0 else f.sa == 0) (f.len != 0)
  | .waitc _ => none
  | .tgo f => chk ((f.jv == 1 || f.ve == 0) && (f.jx == 1 || f.xe == 0) && (f.js == 1 || f.se == 0))
      (f.jv == 1 || f.jx == 1 || f.js == 1)
  | .add f | .sub f | .and f | .or f | .xor f | .sll f | .srl f | .sra f | .mul f | .cmpeq f | .cmplt f | .cmpltu f => chk (f.sc == 0) (f.q == 0)
  | .mulh f => chk (f.sc == 0) (f.q.toNat ≤ 2)
  | .div f | .rem f | .min f | .max f => chk (f.sc == 0) (f.q.toNat ≤ 1)
  | .sel f => chk true (f.q == 0)
  | .addi f | .andi f | .ori f | .xori f | .lui f | .muli f | .cmpeqi f => chk true (f.q == 0)
  | .slli f | .srli f | .srai f => chk true (f.q == 0 && bits f.imm 6 26 == 0)
  | .cmplti f => chk true (f.q.toNat ≤ 1)
  | .ld _ => none
  | .st f => chk true (f.q.toNat ≤ 1)
  | .amoadd f | .amoswap f | .amocas f => chk true (f.q == 0 && 2 ≤ f.w.toNat)
  | .amomin f | .amomax f => chk true (f.q.toNat ≤ 1 && 2 ≤ f.w.toNat)
  | .beq f | .bne f | .blt f | .bge f | .bltu f | .bgeu f => chk true (f.q == 0)
  | .jal f => chk (f.sb == 0) (f.q == 0)
  | .jalr f => chk true (f.q == 0)
  | .kbr f => chk (f.sb == 0 && bits f.sa 2 3 == 0) (f.q.toNat ≤ 1)
  | .loop f =>
    if bits f.q 0 1 == 1 then chk (f.beg == 0 && f.len == 0) (bits f.q 1 2 == 0 && f.lvl != 3)
    else chk true (bits f.q 1 2 == 0 && f.lvl != 3 && f.len != 0)
  | .lprot f => chk (f.sa == 0 && f.beg == 0 && f.len == 0) (f.q == 0 && f.lvl != 3)
  | .mfs f => chk (f.sa == 0 && f.imm == 0) (f.q == 0 && sprAccess f.spr != .reserved)
  | .mts f | .mtsClkrq f | .mtsLpbegLpend f | .mtsLpcnt f | .mtsEvpend f | .mtsSflags f =>
    chk (f.sd == 0 && f.imm == 0) (f.q == 0 && sprAccess f.spr != .reserved)
  | .fence f => chk (f.sd == 0 && f.spr == 0)
      (bits f.q 2 2 == 0 && bits f.q 0 2 != 0 && bits f.imm 3 17 == 0 && (bits f.imm 0 3).toNat ≤ 4)
  | .ceapp f | .cetail f => chk (f.sb == 0 && f.sc == 0) (bits f.q 3 3 == 0)
  | .binit f => chk (f.sd == 0) (f.q == 0)
  | .barrive f => chk (f.sb == 0 && f.sc == 0) (f.q == 0)
  | .bwait f => chk (f.sd == 0 && f.sc == 0) (f.q == 0)
  | .btest f => chk (f.sc == 0) (f.q == 0)
  | .qsend f => chk (f.sc == 0) (bits f.q 3 3 == 0)
  | .qrecv f | .qpoll f => chk (f.sa == 0 && f.sb == 0 && f.sc == 0) (bits f.q 3 3 == 0)
  | .kpop f => chk (bits f.sa 2 3 == 0 && f.sb == 0 && f.sc == 0) true
  | .cxsw f => chk (f.sb == 0 && f.disp == 0) (f.q == 0)
  | .cxpark f => chk (f.disp == 0) (f.q.toNat ≤ 1)
  | .cxyield f => chk (f.sa == 0 && f.sb == 0 && f.disp == 0) (f.q == 0)
  | .slsub f => chk (f.sb == 0 && f.sc == 0) (f.q.toNat ≤ 5)
  | .slget f => chk (f.sb == 0 && f.sc == 0) (f.q.toNat ≤ 1)
  | .slcfgDrain f => chk (f.sb == 0 && f.sc == 0 && (f.q != 0 || f.sd == 0)) (f.q.toNat ≤ 1)
  | .slcfgFlush f => chk (f.sb == 0 && f.sc == 0) (f.q.toNat ≤ 1)
  | .trap f => chk (f.sd == 0 && (f.q != 0 || f.sa == 0)) (f.q.toNat ≤ 1)
  | .tret f | .tretPass f => chk (f.sd == 0 && f.sa == 0) (f.q == 0 && f.imm.toNat ≤ 1)
  | .syscExit f => chk (f.sd == 0 && f.sa == 0) (f.q == 0 && f.imm.toNat ≤ 1)
  | .syscNotify f => chk (f.sd == 0) (f.q == 0 && f.imm.toNat ≤ 1)
  | .vadd f | .vsub f | .vmul f => chkVR f true true false true (rndUsed f.fmt) true true true (fmtF f.fmt || fmtI f.fmt)
  | .vfma f | .vfms f | .vnfma f => chkVR f true true true true true true true true (fmtF f.fmt)
  | .vmin f | .vmax f => chkVR f true true false true false false true true (fmtF f.fmt || fmtI f.fmt)
  | .vabs f | .vneg f => chkVR f true false false true false (!fmtF f.fmt) true true (fmtF f.fmt || fmtI f.fmt)
  | .vand f | .vor f | .vxor f | .vandn f => chkVR f true true false true false false true true (fmtB f.fmt)
  | .vsll f | .vsrl f | .vsra f | .vmulh f | .vavg f => chkVR f true true false true false false true true (fmtI f.fmt)
  | .vfsl f | .vfsr f => chkVR f true true true true false false true true (fmtI f.fmt)
  | .vclz f | .vpopc f => chkVR f true false false true false false true true (fmtI f.fmt)
  | .vsel f => chkVR f true true false true false false true true (fmtB f.fmt && f.me == 1)
  | .vmov f => chkVR f true false false true false false true true (fmtA f.fmt)
  | .vexp f | .vrcp f | .vrsq f => chkVR f true false false true true true true true (fmtH f.fmt)
  | .vcvt f => chkVR f true false true true true true true (f.pkc == 0) (fmtF f.fmt || fmtI f.fmt || f.fmt == 7)
  | .vpack f | .vunpk f => chkVR f true true false false false false true true (fmtA f.fmt)
  | .vrsum f => chkVR f true false false true (rndUsed f.fmt) true true true (fmtF f.fmt || fmtI f.fmt)
  | .vrmax f | .vrmin f | .vrarg f => chkVR f true false false true false false true true (fmtF f.fmt || fmtI f.fmt)
  | .vgmax f => chkVR f true true false true false false true (f.pkb == 0)
      ((fmtF f.fmt || fmtI f.fmt) && 1 ≤ f.vb.toNat && f.vb.toNat ≤ elemLog f.fmt)
  | .vgsum f => chkVR f true true false true (rndUsed f.fmt) true true (f.pkb == 0)
      ((fmtF f.fmt || fmtI f.fmt) && 1 ≤ f.vb.toNat && f.vb.toNat ≤ elemLog f.fmt)
  | .vcpush f => chkVR f true false false true false false false (bits f.vd 2 3 == 0) (fmtA f.fmt && f.fmt != 6)
  | .vcpop f => chkVR f true false false true false false true (bits f.va 1 4 == 0 && f.pka == 0) (fmtA f.fmt && f.fmt != 6)
  | .vswcfg f => chkVR f true false false false false false false (f.vd == 0 && f.pka == 0) (f.fmt == 10)
  | .vswget f => chkVR f false false false false false false false true (f.fmt == 10)
  | .vcmpeq f | .vcmplt f | .vcmple f => chkVR f true true false true false false false (bits f.vd 3 2 == 0)
      ((fmtF f.fmt && f.fmt != 6) || fmtI f.fmt || f.fmt == 7)
  | .vkset f => chkVR f false false false true false false false (bits f.vd 2 3 == 0) (fmtB f.fmt)
  | .vkclr f => chkVR f false false false false false false false (bits f.vd 2 3 == 0 && f.fmt == 0) true
  | .vaddi f | .vmuli f => chkVI f true (rndUsed f.fmt) true true true (fmtF f.fmt || fmtI f.fmt)
  | .vslli f | .vsrli f | .vsrai f | .vfsli f | .vfsri f => chkVI f true false false true true (fmtI f.fmt && viCount f)
  | .vsplat f => chkVI f false (rndUsed f.fmt) true true true (fmtF f.fmt || fmtI f.fmt)
  | .vtopk f => chkVI f true false false false true
      ((fmtF f.fmt || fmtI f.fmt) && 1 ≤ (bits f.imm 0 7).toNat && (bits f.imm 0 7).toNat ≤ 64 && bits f.imm 15 1 == 0)
  | .vconf f => chkVI f true false false false (bits f.vd 3 2 == 0) (f.fmt == 1)
  | .vld f => chk (f.pk == 0 && maskOk f.m f.me) (fmtA f.fmt && (f.fq != 3 || f.me == 1))
  | .vst f | .vstu f => chk (maskOk f.m f.me) (fmtA f.fmt && f.fq.toNat ≤ 1)
  | .vldm f => chk (bits f.v 3 2 == 0 && f.fmt == 0 && f.m == 0 && f.me == 0 && f.pk == 0) (f.fq.toNat ≤ 2)
  | .vstm f => chk (bits f.v 3 2 == 0 && f.fmt == 0 && f.m == 0 && f.me == 0 && f.pk == 0) (f.fq.toNat ≤ 1)
  | .xlnt f => chk true (f.lvl.toNat ≤ 5 && f.sel != 7
      && (f.sel != 0 || (1 ≤ f.val.toNat && f.val.toNat ≤ 65536)) && (f.sel != 6 || f.lvl != 5))
  | .xclaim f | .xrel f => chkXS f true false false false false true
  | .xfill f => chkXS f true true true true false (fmtM f.fmt)
  | .xzero f => chkXS f false true false true false (f.fmt == 1 || f.fmt == 10)
  | .xdrain f => chkXS f true true true true false (f.fmt == 1 || f.fmt == 10)
  | .xcvt f => chkXS f true true true true true (1 ≤ f.fmt.toNat && f.fmt.toNat ≤ 6 || f.fmt == 8 || f.fmt == 9)
  | .xscld f => chkXS f true true true true false (f.fmt == 1 || f.fmt == 7)
  | .xmeta f => chkXS f true true true true false (f.fmt == 0)
  | .xstat f => chkXS f false false true false false true
  | .xscale f => chk (f.fa == 0 && f.fb == 0 && f.shape == 0 && f.spa == 0 && f.a == 0
        && (f.scl != 0 || (f.oa == 0 && f.ob == 0))) (f.scl != 3)
  | .xspar f => chk (f.fa == 0 && f.fb == 0 && f.shape == 0 && f.scl == 0 && f.a == 0 && f.oa == 0
        && (f.spa != 0 || f.ob == 0)) (f.spa != 3)
  | .xgo f => chk true (fmtM f.fa && fmtM f.fb && f.scl != 3 && f.spa != 3 && f.shape.toNat ≤ 3)
  | .sup _ | .sdown _ => none
  | .ssum f => chk (f.bw == 0 && f.iw == 0) (bits f.shape 6 2 == 0)
  | .smul f => chk (f.bw == 0 && f.iw == 0) (bits f.shape 3 3 == 0)
  | .sld _ | .sst _ | .sldw _ | .sstg _ => none
  | .smov f => chkSB f true false false true (bits f.imm 8 7 == 0)
  | .sresc f => chkSB f true false false true true
  | .scvti f => chkSB f true true true false true
  | .scvto f => chkSB f true true true true (bits f.imm 1 14 == 0)
  | .sevid f => chkSB f true false false true (bits f.imm 8 7 == 0)
  | .szero f | .sone f => chkSB f false false false true (bits f.imm 8 7 == 0)
  | .snorm f => chkSB f true false true true (bits f.imm 0 3 == 0)
  | .sgexp f => chkSB f true false false true true
  | .smarg f => chkSB f true false true true (bits f.imm 8 7 == 0)
  | .loadValueLand _ _ => none
  | .atomicOldValueLand _ _ => none
  | .fetchPageAbsent _ _ => none
  | .fetchDiscard _ _ => none
  | .waitThresholdExpiry _ _ => none
  | .preemptRequest _ => none
  | .preemptSaveComplete _ => none
  | .contextWake _ => none
  | .launchEnd _ => none
  | .launchComplete _ => none
  | .budgetSpent _ => none
  | .periodStart _ => none
  | .startTimestampReached _ => none
  | .timer _ => none
  | .rseMove _ _ _ => none
  | .rseWakePromotion _ => none
  | .hbmRead _ _ => none
  | .hbmWrite _ _ => none
  | .hbmAtomic _ _ => none
  | .hbmReply _ _ => none
  | .thermalSr _ _ _ => none
  | .ceFetch _ _ => none
  | .piece _ _ _ _ => none
  | .mark _ _ _ => none
  | .queueMessageArrival _ _ => none
  | .faultRecordPost _ _ => none
  | .frretResume _ _ _ => none
  | .frretCancel _ _ _ => none
  | .sample _ => none
  | .short _ => none
  | .merge _ => none
  | .verify _ => none
  | .compact _ => none
  | .backfill _ => none
  | .launch _ => none
  | .wait _ => none
  | .waitSatisfied _ _ => none
  | .waitTimeout _ _ => none
  | .cancel _ => none
  | .create _ => none
  | .destroy _ => none
  | .swap _ => none
  | .halt _ => none
  | .signal _ => none
  | .wakehint _ => none
  | .track _ => none
  | .xinv _ => none
  | .aspace _ => none
  | .region _ => none
  | .rclock _ => none
  | .chbind _ => none
  | .prbind _ => none
  | .model _ => none
  | .attest _ => none
  | .keyexp _ => none
  | .keyimp _ => none
  | .debugCmd _ => none
  | .keywipe _ => none
  | .power _ => none
  | .fwload _ => none
  | .fwcommit _ => none
  | .doorbell _ _ _ _ => none
  | .edgeRelease _ => none
  | .ualinkRequest _ => none
  | .linkTraining _ _ => none
  | .registerWrite _ _ _ _ => none
  | .launchBlockRegistration _ => none
  | .linkDown _ => none
  | .xgoStep => none
  | .xWordComplete => none
  | .sWordComplete => none
  | .pendingWriteLand => none
  | .storePerformed => none
  | .crossDieWritePerform => none
  | .asyncCauseDelivery => none
  | .selection => none
  | .grantChange => none
  | .rseDemotion => none
  | .backfillDispatch => none
  | .debugExpiry => none
  | .fwRevert => none
  | .packageReset => none
  | .completionWordWrite => none
  | .notificationPost => none
  | .stealOffer => none
  | .tileGate => none
  | .dieWake => none
  | .packageWake => none
  | .vWordLand => none

/-! ## The opcode maps (R50) -/

/-- The row of the table that an MTS word is, by its special register. -/
def mtsRow (f : FCS) : Instr :=
  match f.spr.toNat with
  | 0x020 => .mtsClkrq f
  | 0x014 => .mtsLpbegLpend f | 0x015 => .mtsLpbegLpend f | 0x016 => .mtsLpbegLpend f
  | 0x018 => .mtsLpbegLpend f | 0x019 => .mtsLpbegLpend f | 0x01A => .mtsLpbegLpend f
  | 0x010 => .mtsLpcnt f | 0x011 => .mtsLpcnt f | 0x012 => .mtsLpcnt f
  | 0x070 => .mtsEvpend f
  | 0x064 => .mtsSflags f
  | _ => .mts f

/-- The opcode map of stream C: whether an RSV bit of the format is set, and the instruction (R50). -/
def mapC (w : Word) : Option (Bool × Instr) :=
  match (wordOpc w).toNat with
  | 0x00 => some (bits w 0 46 != 0, .nop)
  | 0x01 => some (bits w 0 46 != 0, .tend)
  | 0x03 => some (bits w 0 14 != 0, .waitc (unFW w))
  | 0x08 => some (bits w 0 3 != 0, .tgo (unFT w))
  | 0x10 => some (bits w 0 20 != 0, .add (unFCR w))
  | 0x11 => some (bits w 0 20 != 0, .sub (unFCR w))
  | 0x12 => some (bits w 0 20 != 0, .and (unFCR w))
  | 0x13 => some (bits w 0 20 != 0, .or (unFCR w))
  | 0x14 => some (bits w 0 20 != 0, .xor (unFCR w))
  | 0x15 => some (bits w 0 20 != 0, .sll (unFCR w))
  | 0x16 => some (bits w 0 20 != 0, .srl (unFCR w))
  | 0x17 => some (bits w 0 20 != 0, .sra (unFCR w))
  | 0x18 => some (bits w 0 20 != 0, .mul (unFCR w))
  | 0x19 => some (bits w 0 20 != 0, .mulh (unFCR w))
  | 0x1a => some (bits w 0 20 != 0, .div (unFCR w))
  | 0x1b => some (bits w 0 20 != 0, .rem (unFCR w))
  | 0x1c => some (bits w 0 20 != 0, .min (unFCR w))
  | 0x1d => some (bits w 0 20 != 0, .max (unFCR w))
  | 0x1e => some (bits w 0 20 != 0, .cmpeq (unFCR w))
  | 0x1f => some (bits w 0 20 != 0, .cmplt (unFCR w))
  | 0x20 => some (bits w 0 20 != 0, .cmpltu (unFCR w))
  | 0x21 => some (bits w 0 20 != 0, .sel (unFCR w))
  | 0x28 => some (false, .addi (unFCI w))
  | 0x29 => some (false, .andi (unFCI w))
  | 0x2a => some (false, .ori (unFCI w))
  | 0x2b => some (false, .xori (unFCI w))
  | 0x2c => some (false, .slli (unFCI w))
  | 0x2d => some (false, .srli (unFCI w))
  | 0x2e => some (false, .srai (unFCI w))
  | 0x2f => some (false, .lui (unFCI w))
  | 0x30 => some (false, .muli (unFCI w))
  | 0x31 => some (false, .cmpeqi (unFCI w))
  | 0x32 => some (false, .cmplti (unFCI w))
  | 0x38 => some (false, .ld (unFCM w))
  | 0x39 => some (false, .st (unFCM w))
  | 0x3a => some (false, .amoadd (unFCM w))
  | 0x3b => some (false, .amoswap (unFCM w))
  | 0x3c => some (false, .amocas (unFCM w))
  | 0x3d => some (false, .amomin (unFCM w))
  | 0x3e => some (false, .amomax (unFCM w))
  | 0x40 => some (false, .beq (unFCB w))
  | 0x41 => some (false, .bne (unFCB w))
  | 0x42 => some (false, .blt (unFCB w))
  | 0x43 => some (false, .bge (unFCB w))
  | 0x44 => some (false, .bltu (unFCB w))
  | 0x45 => some (false, .bgeu (unFCB w))
  | 0x46 => some (false, .jal (unFCB w))
  | 0x47 => some (false, .jalr (unFCB w))
  | 0x48 => some (false, .kbr (unFCB w))
  | 0x50 => some (false, .loop (unFCL w))
  | 0x51 => some (false, .lprot (unFCL w))
  | 0x58 => some (false, .mfs (unFCS w))
  | 0x59 => some (false, mtsRow (unFCS w))
  | 0x5a => some (false, .fence (unFCS w))
  | 0x60 => some (bits w 0 20 != 0, .ceapp (unFCR w))
  | 0x61 => some (bits w 0 20 != 0, .cetail (unFCR w))
  | 0x68 => some (bits w 0 20 != 0, .binit (unFCR w))
  | 0x69 => some (bits w 0 20 != 0, .barrive (unFCR w))
  | 0x6a => some (bits w 0 20 != 0, .bwait (unFCR w))
  | 0x6b => some (bits w 0 20 != 0, .btest (unFCR w))
  | 0x70 => some (bits w 0 20 != 0, .qsend (unFCR w))
  | 0x71 => some (bits w 0 20 != 0, .qrecv (unFCR w))
  | 0x72 => some (bits w 0 20 != 0, .qpoll (unFCR w))
  | 0x78 => some (bits w 0 20 != 0, .kpop (unFCR w))
  | 0x80 => some (false, .cxsw (unFCB w))
  | 0x81 => some (false, .cxpark (unFCB w))
  | 0x82 => some (false, .cxyield (unFCB w))
  | 0x88 => some (bits w 0 20 != 0, .slsub (unFCR w))
  | 0x89 => some (bits w 0 20 != 0, .slget (unFCR w))
  | 0x8a => some (bits w 0 20 != 0, if bits w 20 6 == 1 then .slcfgFlush (unFCR w) else .slcfgDrain (unFCR w))
  | 0x90 => some (false, .trap (unFCI w))
  | 0x91 => some (false, if bits w 0 32 == (1 : BitVec 32) then .tretPass (unFCI w) else .tret (unFCI w))
  | 0x92 => some (false, if bits w 0 32 == (0 : BitVec 32) then .syscExit (unFCI w) else .syscNotify (unFCI w))
  | _ => none

/-- The opcode map of stream V: whether an RSV bit of the format is set, and the instruction (R50). -/
def mapV (w : Word) : Option (Bool × Instr) :=
  match (wordOpc w).toNat with
  | 0x00 => some (bits w 0 46 != 0, .nop)
  | 0x01 => some (bits w 0 46 != 0, .tend)
  | 0x02 => some (bits w 0 11 != 0, .srep (unFP w))
  | 0x03 => some (bits w 0 14 != 0, .waitc (unFW w))
  | 0x10 => some (bits w 0 10 != 0, .vadd (unFVR w))
  | 0x11 => some (bits w 0 10 != 0, .vsub (unFVR w))
  | 0x12 => some (bits w 0 10 != 0, .vmul (unFVR w))
  | 0x13 => some (bits w 0 10 != 0, .vfma (unFVR w))
  | 0x14 => some (bits w 0 10 != 0, .vfms (unFVR w))
  | 0x15 => some (bits w 0 10 != 0, .vnfma (unFVR w))
  | 0x16 => some (bits w 0 10 != 0, .vmin (unFVR w))
  | 0x17 => some (bits w 0 10 != 0, .vmax (unFVR w))
  | 0x18 => some (bits w 0 10 != 0, .vabs (unFVR w))
  | 0x19 => some (bits w 0 10 != 0, .vneg (unFVR w))
  | 0x1a => some (bits w 0 10 != 0, .vand (unFVR w))
  | 0x1b => some (bits w 0 10 != 0, .vor (unFVR w))
  | 0x1c => some (bits w 0 10 != 0, .vxor (unFVR w))
  | 0x1d => some (bits w 0 10 != 0, .vandn (unFVR w))
  | 0x1e => some (bits w 0 10 != 0, .vsll (unFVR w))
  | 0x1f => some (bits w 0 10 != 0, .vsrl (unFVR w))
  | 0x20 => some (bits w 0 10 != 0, .vsra (unFVR w))
  | 0x21 => some (bits w 0 10 != 0, .vfsl (unFVR w))
  | 0x22 => some (bits w 0 10 != 0, .vfsr (unFVR w))
  | 0x23 => some (bits w 0 10 != 0, .vmulh (unFVR w))
  | 0x24 => some (bits w 0 10 != 0, .vavg (unFVR w))
  | 0x25 => some (bits w 0 10 != 0, .vclz (unFVR w))
  | 0x26 => some (bits w 0 10 != 0, .vpopc (unFVR w))
  | 0x27 => some (bits w 0 10 != 0, .vsel (unFVR w))
  | 0x28 => some (bits w 0 10 != 0, .vmov (unFVR w))
  | 0x29 => some (bits w 0 10 != 0, .vexp (unFVR w))
  | 0x2a => some (bits w 0 10 != 0, .vrcp (unFVR w))
  | 0x2b => some (bits w 0 10 != 0, .vrsq (unFVR w))
  | 0x30 => some (bits w 0 6 != 0, .vaddi (unFVI w))
  | 0x31 => some (bits w 0 6 != 0, .vmuli (unFVI w))
  | 0x32 => some (bits w 0 6 != 0, .vslli (unFVI w))
  | 0x33 => some (bits w 0 6 != 0, .vsrli (unFVI w))
  | 0x34 => some (bits w 0 6 != 0, .vsrai (unFVI w))
  | 0x35 => some (bits w 0 6 != 0, .vfsli (unFVI w))
  | 0x36 => some (bits w 0 6 != 0, .vfsri (unFVI w))
  | 0x37 => some (bits w 0 6 != 0, .vsplat (unFVI w))
  | 0x38 => some (bits w 0 10 != 0, .vcvt (unFVR w))
  | 0x39 => some (bits w 0 10 != 0, .vpack (unFVR w))
  | 0x3a => some (bits w 0 10 != 0, .vunpk (unFVR w))
  | 0x40 => some (bits w 0 10 != 0, .vrsum (unFVR w))
  | 0x41 => some (bits w 0 10 != 0, .vrmax (unFVR w))
  | 0x42 => some (bits w 0 10 != 0, .vrmin (unFVR w))
  | 0x43 => some (bits w 0 10 != 0, .vgmax (unFVR w))
  | 0x44 => some (bits w 0 10 != 0, .vgsum (unFVR w))
  | 0x45 => some (bits w 0 10 != 0, .vrarg (unFVR w))
  | 0x48 => some (bits w 0 4 != 0, .vld (unFVM w))
  | 0x49 => some (bits w 0 4 != 0, .vst (unFVM w))
  | 0x4a => some (bits w 0 4 != 0, .vstu (unFVM w))
  | 0x4b => some (bits w 0 4 != 0, .vldm (unFVM w))
  | 0x4c => some (bits w 0 4 != 0, .vstm (unFVM w))
  | 0x50 => some (bits w 0 10 != 0, .vcpush (unFVR w))
  | 0x51 => some (bits w 0 10 != 0, .vcpop (unFVR w))
  | 0x52 => some (bits w 0 10 != 0, .vswcfg (unFVR w))
  | 0x53 => some (bits w 0 10 != 0, .vswget (unFVR w))
  | 0x58 => some (bits w 0 6 != 0, .vtopk (unFVI w))
  | 0x59 => some (bits w 0 6 != 0, .vconf (unFVI w))
  | 0x60 => some (bits w 0 10 != 0, .vcmpeq (unFVR w))
  | 0x61 => some (bits w 0 10 != 0, .vcmplt (unFVR w))
  | 0x62 => some (bits w 0 10 != 0, .vcmple (unFVR w))
  | 0x63 => some (bits w 0 10 != 0, .vkset (unFVR w))
  | 0x64 => some (bits w 0 10 != 0, .vkclr (unFVR w))
  | _ => none

/-- The opcode map of stream X: whether an RSV bit of the format is set, and the instruction (R50). -/
def mapX (w : Word) : Option (Bool × Instr) :=
  match (wordOpc w).toNat with
  | 0x00 => some (bits w 0 46 != 0, .nop)
  | 0x01 => some (bits w 0 46 != 0, .tend)
  | 0x02 => some (bits w 0 11 != 0, .srep (unFP w))
  | 0x03 => some (bits w 0 14 != 0, .waitc (unFW w))
  | 0x10 => some (bits w 0 8 != 0, .xlnt (unFXT w))
  | 0x18 => some (bits w 0 7 != 0, .xclaim (unFXS w))
  | 0x19 => some (bits w 0 7 != 0, .xrel (unFXS w))
  | 0x1a => some (bits w 0 7 != 0, .xfill (unFXS w))
  | 0x1b => some (bits w 0 7 != 0, .xzero (unFXS w))
  | 0x1c => some (bits w 0 7 != 0, .xdrain (unFXS w))
  | 0x1d => some (bits w 0 7 != 0, .xcvt (unFXS w))
  | 0x1e => some (bits w 0 7 != 0, .xscld (unFXS w))
  | 0x1f => some (bits w 0 7 != 0, .xmeta (unFXS w))
  | 0x20 => some (bits w 0 7 != 0, .xstat (unFXS w))
  | 0x28 => some (bits w 0 20 != 0, .xscale (unFXC w))
  | 0x29 => some (bits w 0 20 != 0, .xspar (unFXC w))
  | 0x2a => some (bits w 0 20 != 0, .xgo (unFXC w))
  | _ => none

/-- The opcode map of stream S: whether an RSV bit of the format is set, and the instruction (R50). -/
def mapS (w : Word) : Option (Bool × Instr) :=
  match (wordOpc w).toNat with
  | 0x00 => some (bits w 0 46 != 0, .nop)
  | 0x01 => some (bits w 0 46 != 0, .tend)
  | 0x02 => some (bits w 0 11 != 0, .srep (unFP w))
  | 0x03 => some (bits w 0 14 != 0, .waitc (unFW w))
  | 0x10 => some (bits w 0 2 != 0, .sup (unFSP w))
  | 0x11 => some (bits w 0 2 != 0, .sdown (unFSP w))
  | 0x12 => some (bits w 0 2 != 0, .ssum (unFSP w))
  | 0x13 => some (bits w 0 2 != 0, .smul (unFSP w))
  | 0x18 => some (bits w 0 3 != 0, .sld (unFSM w))
  | 0x19 => some (bits w 0 3 != 0, .sst (unFSM w))
  | 0x1a => some (bits w 0 3 != 0, .sldw (unFSM w))
  | 0x1b => some (bits w 0 3 != 0, .sstg (unFSM w))
  | 0x20 => some (false, .smov (unFSB w))
  | 0x21 => some (false, .sresc (unFSB w))
  | 0x22 => some (false, .scvti (unFSB w))
  | 0x23 => some (false, .scvto (unFSB w))
  | 0x24 => some (false, .sevid (unFSB w))
  | 0x25 => some (false, .szero (unFSB w))
  | 0x26 => some (false, .sone (unFSB w))
  | 0x27 => some (false, .snorm (unFSB w))
  | 0x28 => some (false, .sgexp (unFSB w))
  | 0x29 => some (false, .smarg (unFSB w))
  | _ => none

/-- The opcode map of each stream. -/
def opMap (e : Strm) (w : Word) : Option (Bool × Instr) :=
  match e with
  | .c => mapC w
  | .v => mapV w
  | .x => mapX w
  | .s => mapS w

/-- A word as its stream reads it: the checks 2, 3 and 4 of R51 in that order, or the instruction. -/
def decode (e : Strm) (w : Word) : Except Reject Instr :=
  match opMap e w with
  | none => .error .unassigned
  | some (rsv, i) =>
    if rsv then .error .field
    else match check i with
      | none => .ok i
      | some r => .error r

/-! ## Front-end packets (R365, R366) -/

/-- Bytes `lo` to `lo + n - 1` of a packet's operands as ones, counted from offset 0x10. -/
def opMask (l : List (Nat × Nat)) : BitVec 384 :=
  l.foldl (fun m p => m ||| BitVec.ofNat 384 ((2 ^ (8 * p.2) - 1) * 2 ^ (8 * p.1))) 0

/-- Operand bytes `lo` to `lo + n - 1` of a packet, as an unsigned value. -/
def Packet.opn (p : Packet) (lo n : Nat) : Nat := p.ops.toNat / 2 ^ (8 * lo) % 2 ^ (8 * n)

/-- The operand word at offset 0x10 + `lo`. -/
def Packet.opw (p : Packet) (lo : Nat) : Word := BitVec.ofNat 64 (p.opn lo 8)

/-- Bytes that a command does not use are zero: the operand bytes outside `l`, BOX where no box is named, and the
flags beyond NOTIFY and FAB, of which ANY and STEP belong to LAUNCH (R365). -/
def packetZero (p : Packet) (l : List (Nat × Nat)) (box : Bool) (flags : Nat) : Bool :=
  (p.ops &&& ~~~ opMask l) == 0 && (box || p.box == 0) && p.flags.toNat < flags

/-- The fields of a packet as read from its 64 bytes. -/
def unPacket (w : BitVec 512) : Packet :=
  ⟨bits w 8 8, bits w 16 16, bits w 32 32, bits w 64 64, bits w 128 384⟩

/-- The 64 bytes of a packet with command code `cmd`. -/
def pkPacket (cmd : BitVec 8) (p : Packet) : BitVec 512 :=
  p.ops ++ p.compl ++ p.tag ++ p.box ++ p.flags ++ cmd

/-- A packet's command, or none for an unknown CMD or a nonzero byte that must be zero (BADPKT). -/
def decodePacket (w : BitVec 512) : Option Instr :=
  let p := unPacket w
  let any := p.flags.getLsbD 2
  match (bits w 0 8).toNat with
  | 0x01 => if packetZero p ([(0, 4), (8, 8), (16, 8), (24, 8)] ++ (if any then [(32, 8)] else [])) (!any) 16 then some (.launch p) else none
  | 0x02 => if packetZero p ([(0, 8), (8, 8), (16, 8), (24, 1), (32, 8)]) false 4 then some (.wait p) else none
  | 0x03 => if packetZero p ([(0, 4)]) false 4 then some (.cancel p) else none
  | 0x04 => if packetZero p ([(0, 32)]) false 4 then some (.create p) else none
  | 0x05 => if packetZero p ([]) true 4 then some (.destroy p) else none
  | 0x06 => if packetZero p ([]) true 4 then some (.swap p) else none
  | 0x07 => if packetZero p ([]) true 4 then some (.halt p) else none
  | 0x08 => if packetZero p ([]) true 4 then some (.signal p) else none
  | 0x09 => if packetZero p ([(0, 8)]) true 4 then some (.wakehint p) else none
  | 0x0a => if packetZero p ([(0, 4), (8, 8)]) false 4 then some (.track p) else none
  | 0x0b => if packetZero p ([(0, 2), (8, 8), (16, 4)]) false 4 then some (.xinv p) else none
  | 0x0c => if packetZero p ([(0, 3), (8, 8)]) false 4 then some (.aspace p) else none
  | 0x0d => if packetZero p ([(0, 8)]) false 4 then some (.region p) else none
  | 0x0e => if packetZero p ([(0, 8), (8, 2)]) false 4 then some (.rclock p) else none
  | 0x0f => if packetZero p ([(0, 2), (8, 8), (16, 8), (24, 4)]) true 4 then some (.chbind p) else none
  | 0x10 => if packetZero p ([(0, 3), (4, 6)]) true 4 then some (.prbind p) else none
  | 0x11 => if packetZero p ([(0, 8), (8, 8), (16, 4)]) false 4 then some (.model p) else none
  | 0x12 => if packetZero p ([(0, 40)]) false 4 then some (.attest p) else none
  | 0x13 => if packetZero p ([(0, 2), (8, 8), (16, 8)]) false 4 then some (.keyexp p) else none
  | 0x14 => if packetZero p ([(0, 2), (8, 8), (16, 8)]) false 4 then some (.keyimp p) else none
  | 0x15 => if packetZero p ([(8, 8)]) false 4 then some (.debugCmd p) else none
  | 0x16 => if packetZero p ([]) false 4 then some (.keywipe p) else none
  | 0x17 => if packetZero p ([(0, 1)]) false 4 then some (.power p) else none
  | 0x18 => if packetZero p ([(8, 8), (16, 4)]) false 4 then some (.fwload p) else none
  | _ => none

/-! ## Unit commands (R327, R337, R338) -/

/-- The fields of an SLU command. -/
def unSlu (w : BitVec 512) : SluCmd :=
  ⟨bits w 8 8, bits w 16 16, bits w 32 24, bits w 56 8, bits w 64 64, bits w 128 64, bits w 192 64, bits w 256 32,
   bits w 288 32, bits w 320 32, bits w 352 32, bits w 384 64, bits w 448 64⟩

/-- The 64 bytes of an SLU command. -/
def pkSlu (op : BitVec 8) (c : SluCmd) : BitVec 512 :=
  c.aux ++ c.seed ++ c.topp ++ c.invt ++ c.base ++ c.stride ++ c.desc ++ c.res ++ c.src ++ c.topk ++ c.vocab ++ c.nrow
    ++ c.mode ++ op

/-- The fields of a COMPACT command. -/
def unCme (w : BitVec 512) : CmeCmd :=
  ⟨bits w 8 8, bits w 16 16, bits w 32 32, bits w 64 64, bits w 128 64, bits w 192 64, bits w 256 32, bits w 288 32,
   bits w 320 64, bits w 384 32, bits w 416 32, bits w 448 64⟩

/-- The 64 bytes of a COMPACT command. -/
def pkCme (op : BitVec 8) (c : CmeCmd) : BitVec 512 :=
  c.z2 ++ c.lstrc ++ c.tpp ++ c.blkt ++ c.lstrs ++ c.nstr ++ c.verd ++ c.res ++ c.siding ++ c.tb ++ c.nlay ++ c.z1 ++ op

/-- The fields of a BACKFILL command. -/
def unBfe (w : BitVec 512) : BfeCmd :=
  ⟨bits w 8 8, bits w 16 16, bits w 32 32, bits w 64 64, bits w 128 64, bits w 192 16, bits w 208 16, bits w 224 32,
   bits w 256 256⟩

/-- The 64 bytes of a BACKFILL command. -/
def pkBfe (op : BitVec 8) (c : BfeCmd) : BitVec 512 :=
  c.z4 ++ c.lbh ++ c.z3 ++ c.box ++ c.res ++ c.list ++ c.z2 ++ c.nent ++ c.z1 ++ op

/-- The command that unit `u` (0 to 3 SLU, 4 CME, 5 BFE) reads from 64 bytes; none for an OP that is not the unit's
(R327, R340). -/
def decodeUnit (u : Nat) (w : BitVec 512) : Option Instr :=
  match (bits w 0 8).toNat with
  | 1 => if u < 4 then some (.sample (unSlu w)) else none
  | 2 => if u < 4 then some (.short (unSlu w)) else none
  | 3 => if u < 4 then some (.merge (unSlu w)) else none
  | 4 => if u < 4 then some (.verify (unSlu w)) else none
  | 5 => if u = 4 then some (.compact (unCme w)) else none
  | 6 => if u = 5 then some (.backfill (unBfe w)) else none
  | _ => none

/-! ## The table's words -/

/-- The instruction the decoder reads from a table word. The table gives no row bits, so the numbering is the model's
(DESIGN CHOICE, notes/assumptions/7.md): a word of at most 64 bits is a C word, one of up to 72 bits carries its
stream in bits 65 and 64 (0 C, 1 V, 2 X, 3 S), and a longer one is a packet of 512 bits. -/
def decodeTableWord (nbits w : Nat) : Option Instr :=
  if nbits ≤ 64 then (decode .c (BitVec.ofNat 64 w)).toOption
  else if nbits ≤ 72 then
    let e : Strm := match w / 2 ^ 64 % 4 with
      | 0 => .c
      | 1 => .v
      | 2 => .x
      | _ => .s
    (decode e (BitVec.ofNat 64 w)).toOption
  else decodePacket (BitVec.ofNat 512 w)

/-! ## The encoder -/

/-- The OPC value and the body of an instruction word (R46 to R50); none for what is no word. -/
def opcBody (i : Instr) : Option (BitVec 8 × BitVec 46) :=
  match i with
  | .nop => some (0x00, 0)
  | .tend => some (0x01, 0)
  | .srep f => some (0x02, pkFP f)
  | .waitc f => some (0x03, pkFW f)
  | .tgo f => some (0x08, pkFT f)
  | .add f => some (0x10, pkFCR f)
  | .sub f => some (0x11, pkFCR f)
  | .and f => some (0x12, pkFCR f)
  | .or f => some (0x13, pkFCR f)
  | .xor f => some (0x14, pkFCR f)
  | .sll f => some (0x15, pkFCR f)
  | .srl f => some (0x16, pkFCR f)
  | .sra f => some (0x17, pkFCR f)
  | .mul f => some (0x18, pkFCR f)
  | .mulh f => some (0x19, pkFCR f)
  | .div f => some (0x1a, pkFCR f)
  | .rem f => some (0x1b, pkFCR f)
  | .min f => some (0x1c, pkFCR f)
  | .max f => some (0x1d, pkFCR f)
  | .cmpeq f => some (0x1e, pkFCR f)
  | .cmplt f => some (0x1f, pkFCR f)
  | .cmpltu f => some (0x20, pkFCR f)
  | .sel f => some (0x21, pkFCR f)
  | .addi f => some (0x28, pkFCI f)
  | .andi f => some (0x29, pkFCI f)
  | .ori f => some (0x2a, pkFCI f)
  | .xori f => some (0x2b, pkFCI f)
  | .slli f => some (0x2c, pkFCI f)
  | .srli f => some (0x2d, pkFCI f)
  | .srai f => some (0x2e, pkFCI f)
  | .lui f => some (0x2f, pkFCI f)
  | .muli f => some (0x30, pkFCI f)
  | .cmpeqi f => some (0x31, pkFCI f)
  | .cmplti f => some (0x32, pkFCI f)
  | .ld f => some (0x38, pkFCM f)
  | .st f => some (0x39, pkFCM f)
  | .amoadd f => some (0x3a, pkFCM f)
  | .amoswap f => some (0x3b, pkFCM f)
  | .amocas f => some (0x3c, pkFCM f)
  | .amomin f => some (0x3d, pkFCM f)
  | .amomax f => some (0x3e, pkFCM f)
  | .beq f => some (0x40, pkFCB f)
  | .bne f => some (0x41, pkFCB f)
  | .blt f => some (0x42, pkFCB f)
  | .bge f => some (0x43, pkFCB f)
  | .bltu f => some (0x44, pkFCB f)
  | .bgeu f => some (0x45, pkFCB f)
  | .jal f => some (0x46, pkFCB f)
  | .jalr f => some (0x47, pkFCB f)
  | .kbr f => some (0x48, pkFCB f)
  | .loop f => some (0x50, pkFCL f)
  | .lprot f => some (0x51, pkFCL f)
  | .mfs f => some (0x58, pkFCS f)
  | .mts f => some (0x59, pkFCS f)
  | .mtsClkrq f => some (0x59, pkFCS f)
  | .mtsLpbegLpend f => some (0x59, pkFCS f)
  | .mtsLpcnt f => some (0x59, pkFCS f)
  | .mtsEvpend f => some (0x59, pkFCS f)
  | .mtsSflags f => some (0x59, pkFCS f)
  | .fence f => some (0x5a, pkFCS f)
  | .ceapp f => some (0x60, pkFCR f)
  | .cetail f => some (0x61, pkFCR f)
  | .binit f => some (0x68, pkFCR f)
  | .barrive f => some (0x69, pkFCR f)
  | .bwait f => some (0x6a, pkFCR f)
  | .btest f => some (0x6b, pkFCR f)
  | .qsend f => some (0x70, pkFCR f)
  | .qrecv f => some (0x71, pkFCR f)
  | .qpoll f => some (0x72, pkFCR f)
  | .kpop f => some (0x78, pkFCR f)
  | .cxsw f => some (0x80, pkFCB f)
  | .cxpark f => some (0x81, pkFCB f)
  | .cxyield f => some (0x82, pkFCB f)
  | .slsub f => some (0x88, pkFCR f)
  | .slget f => some (0x89, pkFCR f)
  | .slcfgDrain f => some (0x8a, pkFCR f)
  | .slcfgFlush f => some (0x8a, pkFCR f)
  | .trap f => some (0x90, pkFCI f)
  | .tret f => some (0x91, pkFCI f)
  | .tretPass f => some (0x91, pkFCI f)
  | .syscExit f => some (0x92, pkFCI f)
  | .syscNotify f => some (0x92, pkFCI f)
  | .vadd f => some (0x10, pkFVR f)
  | .vsub f => some (0x11, pkFVR f)
  | .vmul f => some (0x12, pkFVR f)
  | .vfma f => some (0x13, pkFVR f)
  | .vfms f => some (0x14, pkFVR f)
  | .vnfma f => some (0x15, pkFVR f)
  | .vmin f => some (0x16, pkFVR f)
  | .vmax f => some (0x17, pkFVR f)
  | .vabs f => some (0x18, pkFVR f)
  | .vneg f => some (0x19, pkFVR f)
  | .vand f => some (0x1a, pkFVR f)
  | .vor f => some (0x1b, pkFVR f)
  | .vxor f => some (0x1c, pkFVR f)
  | .vandn f => some (0x1d, pkFVR f)
  | .vsll f => some (0x1e, pkFVR f)
  | .vsrl f => some (0x1f, pkFVR f)
  | .vsra f => some (0x20, pkFVR f)
  | .vfsl f => some (0x21, pkFVR f)
  | .vfsr f => some (0x22, pkFVR f)
  | .vmulh f => some (0x23, pkFVR f)
  | .vavg f => some (0x24, pkFVR f)
  | .vclz f => some (0x25, pkFVR f)
  | .vpopc f => some (0x26, pkFVR f)
  | .vsel f => some (0x27, pkFVR f)
  | .vmov f => some (0x28, pkFVR f)
  | .vexp f => some (0x29, pkFVR f)
  | .vrcp f => some (0x2a, pkFVR f)
  | .vrsq f => some (0x2b, pkFVR f)
  | .vaddi f => some (0x30, pkFVI f)
  | .vmuli f => some (0x31, pkFVI f)
  | .vslli f => some (0x32, pkFVI f)
  | .vsrli f => some (0x33, pkFVI f)
  | .vsrai f => some (0x34, pkFVI f)
  | .vfsli f => some (0x35, pkFVI f)
  | .vfsri f => some (0x36, pkFVI f)
  | .vsplat f => some (0x37, pkFVI f)
  | .vcvt f => some (0x38, pkFVR f)
  | .vpack f => some (0x39, pkFVR f)
  | .vunpk f => some (0x3a, pkFVR f)
  | .vrsum f => some (0x40, pkFVR f)
  | .vrmax f => some (0x41, pkFVR f)
  | .vrmin f => some (0x42, pkFVR f)
  | .vgmax f => some (0x43, pkFVR f)
  | .vgsum f => some (0x44, pkFVR f)
  | .vrarg f => some (0x45, pkFVR f)
  | .vld f => some (0x48, pkFVM f)
  | .vst f => some (0x49, pkFVM f)
  | .vstu f => some (0x4a, pkFVM f)
  | .vldm f => some (0x4b, pkFVM f)
  | .vstm f => some (0x4c, pkFVM f)
  | .vcpush f => some (0x50, pkFVR f)
  | .vcpop f => some (0x51, pkFVR f)
  | .vswcfg f => some (0x52, pkFVR f)
  | .vswget f => some (0x53, pkFVR f)
  | .vtopk f => some (0x58, pkFVI f)
  | .vconf f => some (0x59, pkFVI f)
  | .vcmpeq f => some (0x60, pkFVR f)
  | .vcmplt f => some (0x61, pkFVR f)
  | .vcmple f => some (0x62, pkFVR f)
  | .vkset f => some (0x63, pkFVR f)
  | .vkclr f => some (0x64, pkFVR f)
  | .xlnt f => some (0x10, pkFXT f)
  | .xclaim f => some (0x18, pkFXS f)
  | .xrel f => some (0x19, pkFXS f)
  | .xfill f => some (0x1a, pkFXS f)
  | .xzero f => some (0x1b, pkFXS f)
  | .xdrain f => some (0x1c, pkFXS f)
  | .xcvt f => some (0x1d, pkFXS f)
  | .xscld f => some (0x1e, pkFXS f)
  | .xmeta f => some (0x1f, pkFXS f)
  | .xstat f => some (0x20, pkFXS f)
  | .xscale f => some (0x28, pkFXC f)
  | .xspar f => some (0x29, pkFXC f)
  | .xgo f => some (0x2a, pkFXC f)
  | .sup f => some (0x10, pkFSP f)
  | .sdown f => some (0x11, pkFSP f)
  | .ssum f => some (0x12, pkFSP f)
  | .smul f => some (0x13, pkFSP f)
  | .sld f => some (0x18, pkFSM f)
  | .sst f => some (0x19, pkFSM f)
  | .sldw f => some (0x1a, pkFSM f)
  | .sstg f => some (0x1b, pkFSM f)
  | .smov f => some (0x20, pkFSB f)
  | .sresc f => some (0x21, pkFSB f)
  | .scvti f => some (0x22, pkFSB f)
  | .scvto f => some (0x23, pkFSB f)
  | .sevid f => some (0x24, pkFSB f)
  | .szero f => some (0x25, pkFSB f)
  | .sone f => some (0x26, pkFSB f)
  | .snorm f => some (0x27, pkFSB f)
  | .sgexp f => some (0x28, pkFSB f)
  | .smarg f => some (0x29, pkFSB f)
  | .loadValueLand _ _ => none
  | .atomicOldValueLand _ _ => none
  | .fetchPageAbsent _ _ => none
  | .fetchDiscard _ _ => none
  | .waitThresholdExpiry _ _ => none
  | .preemptRequest _ => none
  | .preemptSaveComplete _ => none
  | .contextWake _ => none
  | .launchEnd _ => none
  | .launchComplete _ => none
  | .budgetSpent _ => none
  | .periodStart _ => none
  | .startTimestampReached _ => none
  | .timer _ => none
  | .rseMove _ _ _ => none
  | .rseWakePromotion _ => none
  | .hbmRead _ _ => none
  | .hbmWrite _ _ => none
  | .hbmAtomic _ _ => none
  | .hbmReply _ _ => none
  | .thermalSr _ _ _ => none
  | .ceFetch _ _ => none
  | .piece _ _ _ _ => none
  | .mark _ _ _ => none
  | .queueMessageArrival _ _ => none
  | .faultRecordPost _ _ => none
  | .frretResume _ _ _ => none
  | .frretCancel _ _ _ => none
  | .sample _ => none
  | .short _ => none
  | .merge _ => none
  | .verify _ => none
  | .compact _ => none
  | .backfill _ => none
  | .launch _ => none
  | .wait _ => none
  | .waitSatisfied _ _ => none
  | .waitTimeout _ _ => none
  | .cancel _ => none
  | .create _ => none
  | .destroy _ => none
  | .swap _ => none
  | .halt _ => none
  | .signal _ => none
  | .wakehint _ => none
  | .track _ => none
  | .xinv _ => none
  | .aspace _ => none
  | .region _ => none
  | .rclock _ => none
  | .chbind _ => none
  | .prbind _ => none
  | .model _ => none
  | .attest _ => none
  | .keyexp _ => none
  | .keyimp _ => none
  | .debugCmd _ => none
  | .keywipe _ => none
  | .power _ => none
  | .fwload _ => none
  | .fwcommit _ => none
  | .doorbell _ _ _ _ => none
  | .edgeRelease _ => none
  | .ualinkRequest _ => none
  | .linkTraining _ _ => none
  | .registerWrite _ _ _ _ => none
  | .launchBlockRegistration _ => none
  | .linkDown _ => none
  | .xgoStep => none
  | .xWordComplete => none
  | .sWordComplete => none
  | .pendingWriteLand => none
  | .storePerformed => none
  | .crossDieWritePerform => none
  | .asyncCauseDelivery => none
  | .selection => none
  | .grantChange => none
  | .rseDemotion => none
  | .backfillDispatch => none
  | .debugExpiry => none
  | .fwRevert => none
  | .packageReset => none
  | .completionWordWrite => none
  | .notificationPost => none
  | .stealOffer => none
  | .tileGate => none
  | .dieWake => none
  | .packageWake => none
  | .vWordLand => none

/-- The word of an instruction with IDLE = `idle` (R31). -/
def encode (idle : BitVec 10) (i : Instr) : Option Word :=
  (opcBody i).map fun p => idle ++ p.1 ++ p.2

/-- The 64 bytes of a front-end packet (R365, R366). -/
def encodePacket (i : Instr) : Option (BitVec 512) :=
  match i with
  | .launch p => some (pkPacket 0x01 p)
  | .wait p => some (pkPacket 0x02 p)
  | .cancel p => some (pkPacket 0x03 p)
  | .create p => some (pkPacket 0x04 p)
  | .destroy p => some (pkPacket 0x05 p)
  | .swap p => some (pkPacket 0x06 p)
  | .halt p => some (pkPacket 0x07 p)
  | .signal p => some (pkPacket 0x08 p)
  | .wakehint p => some (pkPacket 0x09 p)
  | .track p => some (pkPacket 0x0a p)
  | .xinv p => some (pkPacket 0x0b p)
  | .aspace p => some (pkPacket 0x0c p)
  | .region p => some (pkPacket 0x0d p)
  | .rclock p => some (pkPacket 0x0e p)
  | .chbind p => some (pkPacket 0x0f p)
  | .prbind p => some (pkPacket 0x10 p)
  | .model p => some (pkPacket 0x11 p)
  | .attest p => some (pkPacket 0x12 p)
  | .keyexp p => some (pkPacket 0x13 p)
  | .keyimp p => some (pkPacket 0x14 p)
  | .debugCmd p => some (pkPacket 0x15 p)
  | .keywipe p => some (pkPacket 0x16 p)
  | .power p => some (pkPacket 0x17 p)
  | .fwload p => some (pkPacket 0x18 p)
  | _ => none

/-- The 64 bytes of a unit command (R327, R337, R338). -/
def encodeUnit (i : Instr) : Option (BitVec 512) :=
  match i with
  | .sample c => some (pkSlu 1 c)
  | .short c => some (pkSlu 2 c)
  | .merge c => some (pkSlu 3 c)
  | .verify c => some (pkSlu 4 c)
  | .compact c => some (pkCme 5 c)
  | .backfill c => some (pkBfe 6 c)
  | _ => none

/-- The streams whose opcode map holds an instruction (R50). -/
def streamsOf (i : Instr) : List Strm :=
  match i with
  | .nop => [.c, .v, .x, .s]
  | .tend => [.c, .v, .x, .s]
  | .srep _ => [.v, .x, .s]
  | .waitc _ => [.c, .v, .x, .s]
  | .tgo _ => [.c]
  | .add _ => [.c]
  | .sub _ => [.c]
  | .and _ => [.c]
  | .or _ => [.c]
  | .xor _ => [.c]
  | .sll _ => [.c]
  | .srl _ => [.c]
  | .sra _ => [.c]
  | .mul _ => [.c]
  | .mulh _ => [.c]
  | .div _ => [.c]
  | .rem _ => [.c]
  | .min _ => [.c]
  | .max _ => [.c]
  | .cmpeq _ => [.c]
  | .cmplt _ => [.c]
  | .cmpltu _ => [.c]
  | .sel _ => [.c]
  | .addi _ => [.c]
  | .andi _ => [.c]
  | .ori _ => [.c]
  | .xori _ => [.c]
  | .slli _ => [.c]
  | .srli _ => [.c]
  | .srai _ => [.c]
  | .lui _ => [.c]
  | .muli _ => [.c]
  | .cmpeqi _ => [.c]
  | .cmplti _ => [.c]
  | .ld _ => [.c]
  | .st _ => [.c]
  | .amoadd _ => [.c]
  | .amoswap _ => [.c]
  | .amocas _ => [.c]
  | .amomin _ => [.c]
  | .amomax _ => [.c]
  | .beq _ => [.c]
  | .bne _ => [.c]
  | .blt _ => [.c]
  | .bge _ => [.c]
  | .bltu _ => [.c]
  | .bgeu _ => [.c]
  | .jal _ => [.c]
  | .jalr _ => [.c]
  | .kbr _ => [.c]
  | .loop _ => [.c]
  | .lprot _ => [.c]
  | .mfs _ => [.c]
  | .mts _ => [.c]
  | .mtsClkrq _ => [.c]
  | .mtsLpbegLpend _ => [.c]
  | .mtsLpcnt _ => [.c]
  | .mtsEvpend _ => [.c]
  | .mtsSflags _ => [.c]
  | .fence _ => [.c]
  | .ceapp _ => [.c]
  | .cetail _ => [.c]
  | .binit _ => [.c]
  | .barrive _ => [.c]
  | .bwait _ => [.c]
  | .btest _ => [.c]
  | .qsend _ => [.c]
  | .qrecv _ => [.c]
  | .qpoll _ => [.c]
  | .kpop _ => [.c]
  | .cxsw _ => [.c]
  | .cxpark _ => [.c]
  | .cxyield _ => [.c]
  | .slsub _ => [.c]
  | .slget _ => [.c]
  | .slcfgDrain _ => [.c]
  | .slcfgFlush _ => [.c]
  | .trap _ => [.c]
  | .tret _ => [.c]
  | .tretPass _ => [.c]
  | .syscExit _ => [.c]
  | .syscNotify _ => [.c]
  | .vadd _ => [.v]
  | .vsub _ => [.v]
  | .vmul _ => [.v]
  | .vfma _ => [.v]
  | .vfms _ => [.v]
  | .vnfma _ => [.v]
  | .vmin _ => [.v]
  | .vmax _ => [.v]
  | .vabs _ => [.v]
  | .vneg _ => [.v]
  | .vand _ => [.v]
  | .vor _ => [.v]
  | .vxor _ => [.v]
  | .vandn _ => [.v]
  | .vsll _ => [.v]
  | .vsrl _ => [.v]
  | .vsra _ => [.v]
  | .vfsl _ => [.v]
  | .vfsr _ => [.v]
  | .vmulh _ => [.v]
  | .vavg _ => [.v]
  | .vclz _ => [.v]
  | .vpopc _ => [.v]
  | .vsel _ => [.v]
  | .vmov _ => [.v]
  | .vexp _ => [.v]
  | .vrcp _ => [.v]
  | .vrsq _ => [.v]
  | .vaddi _ => [.v]
  | .vmuli _ => [.v]
  | .vslli _ => [.v]
  | .vsrli _ => [.v]
  | .vsrai _ => [.v]
  | .vfsli _ => [.v]
  | .vfsri _ => [.v]
  | .vsplat _ => [.v]
  | .vcvt _ => [.v]
  | .vpack _ => [.v]
  | .vunpk _ => [.v]
  | .vrsum _ => [.v]
  | .vrmax _ => [.v]
  | .vrmin _ => [.v]
  | .vgmax _ => [.v]
  | .vgsum _ => [.v]
  | .vrarg _ => [.v]
  | .vld _ => [.v]
  | .vst _ => [.v]
  | .vstu _ => [.v]
  | .vldm _ => [.v]
  | .vstm _ => [.v]
  | .vcpush _ => [.v]
  | .vcpop _ => [.v]
  | .vswcfg _ => [.v]
  | .vswget _ => [.v]
  | .vtopk _ => [.v]
  | .vconf _ => [.v]
  | .vcmpeq _ => [.v]
  | .vcmplt _ => [.v]
  | .vcmple _ => [.v]
  | .vkset _ => [.v]
  | .vkclr _ => [.v]
  | .xlnt _ => [.x]
  | .xclaim _ => [.x]
  | .xrel _ => [.x]
  | .xfill _ => [.x]
  | .xzero _ => [.x]
  | .xdrain _ => [.x]
  | .xcvt _ => [.x]
  | .xscld _ => [.x]
  | .xmeta _ => [.x]
  | .xstat _ => [.x]
  | .xscale _ => [.x]
  | .xspar _ => [.x]
  | .xgo _ => [.x]
  | .sup _ => [.s]
  | .sdown _ => [.s]
  | .ssum _ => [.s]
  | .smul _ => [.s]
  | .sld _ => [.s]
  | .sst _ => [.s]
  | .sldw _ => [.s]
  | .sstg _ => [.s]
  | .smov _ => [.s]
  | .sresc _ => [.s]
  | .scvti _ => [.s]
  | .scvto _ => [.s]
  | .sevid _ => [.s]
  | .szero _ => [.s]
  | .sone _ => [.s]
  | .snorm _ => [.s]
  | .sgexp _ => [.s]
  | .smarg _ => [.s]
  | .loadValueLand _ _ => []
  | .atomicOldValueLand _ _ => []
  | .fetchPageAbsent _ _ => []
  | .fetchDiscard _ _ => []
  | .waitThresholdExpiry _ _ => []
  | .preemptRequest _ => []
  | .preemptSaveComplete _ => []
  | .contextWake _ => []
  | .launchEnd _ => []
  | .launchComplete _ => []
  | .budgetSpent _ => []
  | .periodStart _ => []
  | .startTimestampReached _ => []
  | .timer _ => []
  | .rseMove _ _ _ => []
  | .rseWakePromotion _ => []
  | .hbmRead _ _ => []
  | .hbmWrite _ _ => []
  | .hbmAtomic _ _ => []
  | .hbmReply _ _ => []
  | .thermalSr _ _ _ => []
  | .ceFetch _ _ => []
  | .piece _ _ _ _ => []
  | .mark _ _ _ => []
  | .queueMessageArrival _ _ => []
  | .faultRecordPost _ _ => []
  | .frretResume _ _ _ => []
  | .frretCancel _ _ _ => []
  | .sample _ => []
  | .short _ => []
  | .merge _ => []
  | .verify _ => []
  | .compact _ => []
  | .backfill _ => []
  | .launch _ => []
  | .wait _ => []
  | .waitSatisfied _ _ => []
  | .waitTimeout _ _ => []
  | .cancel _ => []
  | .create _ => []
  | .destroy _ => []
  | .swap _ => []
  | .halt _ => []
  | .signal _ => []
  | .wakehint _ => []
  | .track _ => []
  | .xinv _ => []
  | .aspace _ => []
  | .region _ => []
  | .rclock _ => []
  | .chbind _ => []
  | .prbind _ => []
  | .model _ => []
  | .attest _ => []
  | .keyexp _ => []
  | .keyimp _ => []
  | .debugCmd _ => []
  | .keywipe _ => []
  | .power _ => []
  | .fwload _ => []
  | .fwcommit _ => []
  | .doorbell _ _ _ _ => []
  | .edgeRelease _ => []
  | .ualinkRequest _ => []
  | .linkTraining _ _ => []
  | .registerWrite _ _ _ _ => []
  | .launchBlockRegistration _ => []
  | .linkDown _ => []
  | .xgoStep => []
  | .xWordComplete => []
  | .sWordComplete => []
  | .pendingWriteLand => []
  | .storePerformed => []
  | .crossDieWritePerform => []
  | .asyncCauseDelivery => []
  | .selection => []
  | .grantChange => []
  | .rseDemotion => []
  | .backfillDispatch => []
  | .debugExpiry => []
  | .fwRevert => []
  | .packageReset => []
  | .completionWordWrite => []
  | .notificationPost => []
  | .stealOffer => []
  | .tileGate => []
  | .dieWake => []
  | .packageWake => []
  | .vWordLand => []

end Sys2Proof
end

