-- ==== Sys2Proof/Config.lean ====
section
/-!
DEFINITION. What an implementation of the OW-40 fixes and the spec leaves open: the free values (constants with no body,
so that no proof can see one) and the actions that the agents of the machine take.
-/
namespace Sys2Proof

/-- One action of an agent: what a step of the machine is (R232: streams, engines, units, cores, host, peers). -/
inductive Action where
  /-- The stream's next word is at issue on tile `t` at its current beat (R33). -/
  | issue (t : Nat) (e : Strm)
  /-- The tile's beat ends (R4, R16). -/
  | tick (t : Nat)
  /-- `n` nanoseconds of TIMEB pass (R280). -/
  | time (n : Nat)
  /-- The thread of mapped queue `q` takes its next packet (R364). -/
  | queue (die q : Nat)
  /-- Unit `u` of the die (0 to 3 SLU, 4 CME, 5 BFE) takes its oldest command (R326). -/
  | unit (die u : Nat)
  /-- An event of the table happens; one without an operand happens at tile or die `u`. -/
  | event (i : Instr) (u : Nat)
  /-- A store of the host, of system software or of a device, outside the streams, at a physical address. -/
  | store (pa : Nat) (data : List Byte)
  /-- The tool loader, firmware or a peer puts a packet at an HBM stack's controller (R216). -/
  | packet (die stack : Nat) (hdr : BitVec 128) (data : List Byte) (box rank : Nat)
  /-- A soft error at a physical address: 0 corrected or rebuilt, 1 uncorrectable (R176, R217); 2 a completer behind an
  attachment window that gives aborts from now on (R383). -/
  | softError (pa : Nat) (kind : Nat)
  /-- The error at an address is gone (rewritten or retired). -/
  | scrub (pa : Nat)
  /-- A link comes up again: 0 and 1 the CXL ports, 2 to 9 the UALink ports (R383, R387). -/
  | linkUp (link : Nat)
  /-- A context misses in an LLC set (R221). -/
  | llcMiss (box set : Nat)
  /-- A die's LLC meets more lines of pages pinned in it than it may hold, at an access of a context (R211). -/
  | pinExcess (die box : Nat)
  /-- Host software writes an entry of the MSI-X table: message address and data (R381). -/
  | msixEntry (vec : Nat) (addr : Word) (data : BitVec 32)
  /-- Host software masks or unmasks an MSI-X vector (R386). -/
  | msix (vec : Nat) (mask : Bool)
  /-- Firmware gives a free 64 KiB frame to a die's pool, or to its pool of loft frames (R215). -/
  | frame (die : Nat) (loft : Bool) (pfn : Nat)
  /-- Host software writes NRCONS of a die through BAR0 (R385). -/
  | nrcons (die : Nat) (v : BitVec 32)
  /-- The oldest RAS record that waits on a die is written to its log (R379). -/
  | record (die : Nat)
  /-- A core of the package loads from a die control page (R363). -/
  | loadReg (die off width : Nat)
  /-- The host reads BAR0 of port 0 (R385). -/
  | barRead (off width : Nat)
  /-- Firmware sets TIMEB, before the first context of a boot runs (R280). -/
  | setTime (v : Word)
  /-- The tiles that a CXSW handed over start the context that it named (R299, R318). -/
  | handOver (box : Nat)
  /-- Boot firmware gives ASID 0 its root table, once after a reset (R205, R371). -/
  | boot (root : BitVec 52)
  /-- The translation caches drop the entry of a page of their own accord (R209). -/
  | evict (asid : Nat) (page : Nat)
  deriving DecidableEq, Repr, Inhabited

namespace Config

/-- The order of the agents: the action taken when the agenda is empty. No rule fixes it (R235, R38), so it is free. -/
opaque schedule : Nat → Action

/-- A free value of any width, by index: the device's random source (R303, R372) and every other value that the spec
leaves open (notes/assumptions/3.md). -/
opaque freeBits : Nat → Nat

/-- The die that the page directory assigns to a line of package memory (R14, R233). -/
opaque pdirHome : Nat → Fin 4

/-- The second key of AES-256-XTS for a region key: the spec gives the mode one key of 256 bits (R310). -/
opaque xtsSecondKey : Nat → Nat

/-- How many of the pending writes that a C section of a context inside its handler holds are the frozen ones: the section
does not say (R101, R306, R360; notes/assumptions/62.md). -/
opaque frozenCount : List (BitVec 8) → Nat

/-- The device's serial number (R372). -/
opaque serial : Word

/-- The private scalar of the device identity key, fused at manufacture (R372). -/
opaque identityKey : Nat

/-- The private scalar of the device's key-agreement key (R372). -/
opaque agreementKey : Nat

/-- The fused vendor public key, x and y (R373, R376). -/
opaque vendorKeyX : Nat
/-- The y coordinate of the fused vendor public key. -/
opaque vendorKeyY : Nat

/-- What FWLOAD finds in a firmware image whose layout no rule gives (R373): the version, the bytes signed, and the
signature r, s. -/
opaque fwVersion : List Byte → Nat
/-- The bytes of a firmware image that its signature covers. -/
opaque fwBody : List Byte → List Byte
/-- The signature of a firmware image. -/
opaque fwSignature : List Byte → Nat × Nat

/-- The serial number of the peer whose key-agreement key has these coordinates (R372). -/
opaque peerSerial : Nat → Nat → Word

end Config
end Sys2Proof
end

