-- ==== Sys2Proof/Machine/State.lean ====
section
/-!
DEFINITION. The state of the OW-40: every item that the spec gives the machine (R96, R127, R158, R174, R202, R253, R270,
R282, R319, R347, R362, R381 and the rules beside them), the model's own fields (notes/assumptions/2.md and 3.md), the
reasons a step can stop, and the state after reset. INVENTORY.md names the rule and the reset value of every field.
-/
namespace Sys2Proof.Machine

/-- A sparse map from numbers, keys strictly rising; what it does not list is at its default. -/
abbrev Sparse (α : Type) := List (Nat × α)

/-- Byte memory: address and byte pairs, addresses strictly rising, no byte listed that equals what an unlisted address
reads as, which is 0 (DESIGN CHOICE, notes/assumptions/4.md). -/
abbrev Mem := List Host.Cell

/-! ## One context on one tile: the control core (R96, R347) -/

/-- When a stream's next word may issue: after an issue at beat `p` (R33), at a beat, or after remaining idle beats that
do not run while the stream is stopped (R36). -/
inductive Due where
  | after (p : Nat)
  | atBeat (b : Nat)
  | left (r : Nat)
  deriving DecidableEq, Repr

/-- A C write that is not yet visible: register after rotation (1 to 31), value, poison, first beat at which a word
sees it (R99). -/
structure PendWrite where
  reg : Nat
  value : Word
  psn : Bool
  vis : Nat
  deriving DecidableEq, Repr

/-- A frozen write with its remaining latency (R101, R102). -/
structure FrozenWrite where
  reg : Nat
  value : Word
  psn : Bool
  rem : Nat
  deriving DecidableEq, Repr

/-- LPSTGn (R110). -/
structure Staged where
  v : Bool
  fin : BitVec 24
  beg : BitVec 24
  deriving DecidableEq, Repr

/-- The part of the C state that the poison checkpoint copies (R105). -/
structure CRegs where
  /-- s1 to s15 at 1 to 15 and p16 to p31 at 16 to 31; entry 0 is s0 and stays 0 (R96, R97). -/
  s : Vector Word 32
  /-- POISON (R103). -/
  poison : BitVec 32
  rrb : BitVec 4
  lpcnt : Vector (BitVec 32) 3
  lpbeg : Vector (BitVec 24) 3
  lpend : Vector (BitVec 24) 3
  lpstg : Vector Staged 3
  lpact : BitVec 3
  kr : Vector (BitVec 1024) 4
  kcur : Vector (BitVec 11) 4
  kvalid : BitVec 4
  /-- The pending-write table while the stream runs, in issue order (R99). -/
  pend : List PendWrite
  deriving DecidableEq, Repr

/-- The poison checkpoint: the C state before the first poisoning load, its word index and remaining idle (R105). -/
structure Checkpoint where
  regs : CRegs
  pend : List FrozenWrite
  idx : Nat
  idle : Nat
  deriving DecidableEq, Repr

/-- What an interlocked operation in flight is (R99). -/
inductive FlyKind where
  | load | atomic | word
  deriving DecidableEq, Repr

/-- An LD, an atomic, or a queue, barrier or SL word whose value has not landed: the registers it writes, whether it is
counted as a load, the negative reply to its packet as reason and address, whether that reply has raised its cause
(R219, R228, R230, R265), whether it issued before the load that took the held checkpoint (R105), and the locations it
accesses, whose stack holds its reply while in forced self-refresh (R219). -/
structure Fly where
  kind : FlyKind
  writes : List (Nat × Word)
  counted : Bool
  nack : Option (Nat × Nat)
  raised : Bool
  old : Bool
  locs : List Nat
  deriving DecidableEq, Repr

/-- The trap registers (R347 to R349). -/
structure TrapRegs where
  faultpc : Word
  tcause : Word
  tval : Word
  tword : Word
  tvec : Word
  act : Bool
  tpend : BitVec 8
  tscra : Word
  tscrb : Word
  deriving DecidableEq, Repr

/-- The outstanding-operation counters (R270). -/
structure Counters where
  ocl : BitVec 32
  ocs : BitVec 32
  occ : BitVec 32
  oct : BitVec 32
  deriving DecidableEq, Repr

/-- One repeat level of an engine stream (R39). -/
structure Level where
  beg : Nat
  fin : Nat
  left : Nat
  it : Nat
  deriving DecidableEq, Repr

/-- An engine stream: running, ended within its region, micro-PC, when it may issue, and its levels, innermost first
(R36, R39). -/
structure Stream where
  running : Bool
  ended : Bool
  mpc : Nat
  due : Due
  levels : List Level
  deriving DecidableEq, Repr

/-! ## The vector engine (R127) -/

/-- A vector queue entry: its format tag and its 2,048 bits (R128, R129), and the tile beat from which its producer's
latency has passed (R134). -/
structure Entry where
  tag : BitVec 4
  data : BitVec 2048
  ready : Nat
  deriving DecidableEq, Repr

/-- A valid bypass slot (R130, R132). -/
structure Bypass where
  t : Bool
  used : Bool
  reg : Reg
  entry : Entry
  deriving DecidableEq, Repr

/-- A conditional queue: its bytes oldest first, the ring offset of the oldest, and its tag (R152). -/
structure CondQueue where
  data : List Byte
  head : BitVec 9
  tag : BitVec 4
  deriving DecidableEq, Repr

/-- A word of an engine whose completion the counters or flags still await (R239, R279): its flags, what it is counted
as, whether it writes kw, its issue beat on the tile and in its region, and the tile beat from which it may land (R134,
R161). -/
structure WordFly where
  flags : BitVec 5
  loads : Nat
  stores : Nat
  kw : Bool
  issued : Nat
  counted : Nat
  due : Nat
  deriving DecidableEq, Repr

/-- The state of the vector engine (R127). -/
structure VState where
  q : Vector (List Entry) 32
  lost : BitVec 32
  byp : Vector (Option Bypass) 3
  m : Vector (BitVec 256) 8
  /-- The tile beats from which the masks, and the conditional queues, may be read (R134). -/
  mReady : Vector Nat 8
  cqReady : Vector Nat 2
  kw : Vector (BitVec 1024) 4
  kwcur : Vector (BitVec 11) 4
  cq : Vector CondQueue 2
  rtw : BitVec 16
  vsoff : BitVec 24
  fly : List WordFly
  deriving DecidableEq, Repr

/-! ## The matrix engine (R174) -/

/-- An operand slot: descriptor (R180) and 32,768 bytes. -/
structure Slot where
  cl : Bool
  role : BitVec 2
  tag : BitVec 4
  fq : BitVec 4
  busy : Bool
  data : Mem
  deriving DecidableEq, Repr

/-- An accumulator buffer: descriptor (R182) and its elements, element (i, c) at 512 i + c. -/
structure Acc where
  wr : Bool
  tag : BitVec 4
  busy : Bool
  data : Sparse (BitVec 32)
  deriving DecidableEq, Repr

/-- One level of a nest record (R183). -/
structure NestLevel where
  cnt : BitVec 32
  da : BitVec 32
  db : BitVec 32
  dc : BitVec 32
  dsa : BitVec 32
  dsb : BitVec 32
  deriving DecidableEq, Repr

/-- A loop-nest record (R183). -/
structure NestRec where
  levels : Vector NestLevel 6
  /-- ORGA, ORGB, ORGC, ORGSA, ORGSB. -/
  org : Vector (BitVec 32) 5
  xgow : Word
  scl : BitVec 2
  sclA : BitVec 4
  sclB : BitVec 4
  spa : BitVec 2
  spaM : BitVec 4
  run : Bool
  idx : Vector (BitVec 32) 6
  deriving DecidableEq, Repr

/-- The matrix engine's live state (R174, R200). -/
structure XState where
  slot : Vector Slot 16
  acc : Vector Acc 4
  active : NestRec
  shadow : NestRec
  /-- Steps completed by the running or the last XGO (R200). -/
  steps : Nat
  fly : List WordFly
  deriving DecidableEq, Repr

/-! ## The sum-product engine (R158) -/

/-- The banks: lane L of b.i at 32 (256 b + i) + L, its word and its group exponent; SUSED; the tile beats from which
registers, numbered 256 b + i, may be read (R163). -/
structure SState where
  word : Sparse (BitVec 32)
  g : Sparse (BitVec 16)
  used : Bool
  ready : Sparse Nat
  fly : List WordFly
  deriving DecidableEq, Repr

/-! ## A context's live state on a tile -/

/-- The live state of one rank of a context (R21, R96, R127, R158, R174, R270, R347). -/
structure Ctx where
  c : CRegs
  ckpt : Option Checkpoint
  /-- The pending-write table while it is frozen (R101). -/
  frozen : List FrozenWrite
  loads : List Fly
  mpc : Nat
  due : Due
  lockstep : Bool
  /-- Members V, X, S of the open region. -/
  memV : Bool
  memX : Bool
  memS : Bool
  cEnded : Bool
  v : Stream
  x : Stream
  s : Stream
  trap : TrapRegs
  clkrq : BitVec 16
  seed : Word
  sdcv : BitVec 32
  sdcx : BitVec 32
  sdcs : BitVec 32
  oc : Counters
  sflags : BitVec 5
  /-- Flags set at the present beat: an MTS of the same beat leaves them (R279). -/
  flagNew : BitVec 5
  vec : VState
  mat : XState
  spe : SState
  /-- The written map: bit u for 4 KiB unit u of the lease (R309). -/
  written : BitVec 1024
  /-- The C stream issued SYSC 0 in this launch (R288). -/
  done : Bool
  /-- The counted beat of the open region at the save (R27). -/
  cntSaved : Nat
  /-- A stream's next word whose fetch or read has got a negative reply that is reported: its index and the cause. It is
  not read again until the cause is taken (R12, R219). -/
  refused : Vector (Option (Nat × BitVec 8)) 4
  deriving DecidableEq, Repr

/-- A section's base and word count (R35, R70). -/
structure Section where
  base : Word
  words : Nat
  deriving DecidableEq, Repr

/-- A store that is issued and not yet performed: context and rank, the bytes with their locations, whether it leaves full
bits, the homes of its lines that are other dies than the tile's, its counted beat in the open region, the negative reply that
awaits it as reason and address, the locations it goes to, and the sending die's clock at its issue, its stamp (R219,
R229, R236, R238, R239). -/
structure PendStore where
  box : Nat
  rank : Nat
  bytes : List (Nat × Byte)
  nf : Bool
  cross : List Nat
  counted : Option Nat
  nack : Option (Nat × Nat)
  locs : List Nat
  stamp : Vector (BitVec 32) 4
  deriving DecidableEq, Repr

/-- A stall of a stream's next word: the beat it began, the last beat it was met, and, where it counts towards the wait
threshold, its park reason and what is awaited (R26, R289); reason 0 counts towards nothing. -/
structure Stall where
  start : Nat
  seen : Nat
  reason : BitVec 8
  watch : Word
  deriving DecidableEq, Repr

/-- The SRAM of a tile at the start of its present beat, kept from the first change of the beat: memory, the full
granules, the granules that writes of the beat set, and the locations that other requesters have written in the beat, to
which the writes of the tile's streams come first (R237). -/
structure BeatStart where
  mem : Mem
  full : List Nat
  sets : List Nat
  late : List Nat
  deriving DecidableEq, Repr

/-- A tile: its clock, the context rank it runs, its lease registers, its stores in flight and its SRAM's full bits. -/
structure Tile where
  /-- The tile beat (R4). -/
  beat : Nat
  /-- The counted beat of the open lockstep region (R37). -/
  cnt : Nat
  /-- No stream issues, and no beat counts, before this beat: trap entry and TRET (R351, R355). -/
  holdAll : Nat
  /-- The C stream does not issue before this beat: the redirect stall (R113). -/
  holdC : Nat
  /-- The S stream does not issue before this beat: engine occupancy (R163). -/
  holdS : Nat
  /-- A member stalled at this beat; a word issued at this beat, stream by stream in the order C, V, X, S. -/
  stalled : Bool
  issued : BitVec 4
  /-- The stall of each stream's next word (R26). -/
  since : Vector (Option Stall) 4
  /-- The SRAM at the start of the present beat, where the beat has changed it (R237). -/
  start : Option BeatStart
  /-- The place in the order of R237 of the last write that another requester has made since the beat before ended: 0 for
  none, n + 1 for copy engine n, 65 for a window access. -/
  order : Nat
  /-- The beat at which the context took the tile: the team's beats count from it (R27, R263, R302, R343). -/
  base : Nat
  /-- The counters of the context at the start of the present beat (R274). -/
  oc0 : Counters
  /-- Events of the box at the present beat: an MTS of the same beat leaves them (R291). -/
  newEvents : BitVec 32
  /-- The box whose context runs here, and its rank. -/
  box : Option Nat
  rank : Nat
  ctxno : BitVec 16
  lbase : BitVec 10
  lsize : BitVec 11
  lsave : BitVec 11
  /-- Sections of C, V, X, S of the launch. -/
  sect : Vector Section 4
  ctx : Ctx
  clkgr : BitVec 16
  stores : List PendStore
  /-- Full granules of the tile SRAM, numbers strictly rising (R177). -/
  full : List Nat
  /-- A fetch error was retried once for the stream's word (R359). -/
  retried : Vector Bool 4
  gated : Bool
  /-- TIMEB from which the tile has been free (R377). -/
  freeSince : Nat
  /-- The boxes off the tile whose lease bytes stand on it, each with the written map of its lease there (R179, R309). -/
  owners : List (Nat × BitVec 1024)
  deriving DecidableEq, Repr

/-! ## Queues (R253) -/

/-- A piece of a copy command (R260): source, destination, bytes, the outermost index of a GATHER whose index word is
not read yet, the phase of its first byte within an element, and its offset within its row. -/
structure Piece where
  src : Int
  dst : Int
  n : Nat
  gi : Option Nat
  phase : Nat
  off : Nat
  deriving DecidableEq, Repr

/-- A copy command in the pool: its number, its 512 bits, the publishing rank, the dimensions of its extension block
(count, source stride, destination stride), the pieces that a GATHER cut when it read an index word, whether it has
completed and with ERR, whether it has started, and the pieces done, stopped with their page, and held because the box had
eight records outstanding (R256, R262, R267). -/
structure Cmd where
  k : Nat
  raw : BitVec 512
  rank : Nat
  ext : List (Nat × Int × Int)
  extra : List Piece
  finished : Bool
  err : Bool
  begun : Bool
  done : List Nat
  stopped : List (Nat × Word)
  ninth : List Nat
  deriving DecidableEq, Repr

/-- A chain record with the engine's view of it (R255, R256, R259, R261). -/
structure Chain where
  v : Bool
  base : Word
  logn : BitVec 4
  tail : BitVec 32
  head : BitVec 32
  seqaddr : Word
  eng : BitVec 6
  qmin : BitVec 16
  qcap : BitVec 16
  /-- Fetched commands, oldest first. -/
  cmds : List Cmd
  /-- The ranks that published the commands not yet fetched, oldest first. -/
  pubs : List Nat
  err : Bool
  /-- Commands complete, as many of the chain's first as have all completed, and how many the sequence word reports. -/
  complete : Nat
  reported : Nat
  /-- Fetching has stopped until the chain is unbound (R267, R269). -/
  stopped : Bool
  /-- An access of the engine's own waits because the box had eight records outstanding (R267). -/
  ninth : Bool
  /-- The beats of the publishing team at which commands were fetched that a word of the team may not yet see gone
  (R263). -/
  fetches : List Nat
  deriving DecidableEq, Repr

/-- A message (R264). -/
structure Msg where
  w0 : Word
  w1 : BitVec 32
  seq : BitVec 32
  deriving DecidableEq, Repr

/-- A pair record, its held messages, and the messages on their way to it (R264). -/
structure Pair where
  v : Bool
  sseq : BitVec 32
  rseq : BitVec 32
  pbox : BitVec 16
  ppair : BitVec 3
  qmin : BitVec 16
  qcap : BitVec 16
  held : List Msg
  flying : List Msg
  deriving DecidableEq, Repr

/-- A fault record (R266); where it was posted: die, core and ring index. -/
structure FaultRec where
  box : Nat
  asid : BitVec 16
  kind : Nat
  unit : Nat
  eng : Nat
  chain : Nat
  page : Word
  cmd : BitVec 32
  time : Word
  ring : Option (Nat × Nat × Nat)
  deriving DecidableEq, Repr

/-! ## Launches and boxes (R70, R283, R369) -/

/-- A queued or running launch: where its completion goes, its block, its holds, and the fields of a backfill (R339). -/
structure Launch where
  die : Nat
  queue : Option Nat
  tag : BitVec 32
  flags : BitVec 8
  compl : Word
  lbh : BitVec 32
  start : Word
  image : Word
  edge : Word
  /-- Producer edges not yet released (R369). -/
  held : Bool
  /-- The producers awaited: die, queue, TAG, and the scope of the edge. -/
  waits : List (Nat × Nat × BitVec 32 × Nat)
  /-- The start timestamp has passed (R281). -/
  timed : Bool
  args : Option (List Word)
  source : Option Nat
  any : List Nat
  step : Bool
  /-- The LAUNCH packet as its slot holds it (R369), and QASID of its queue, in which its image is read (R364). -/
  raw : BitVec 512
  qasid : BitVec 16
  deriving DecidableEq, Repr

/-- The states of R286. -/
inductive BoxState where
  | free | ready | running | parked | swapped
  deriving DecidableEq, Repr

/-- A Stable box (R283) and what the Stable keeps for it (R282). -/
structure Box where
  state : BoxState
  prio : BitVec 3
  age : Nat
  reason : BitVec 8
  live : Bool
  img : Bool
  dl : Bool
  asid : BitVec 16
  imgsize : BitVec 16
  lbase : BitVec 10
  lsize : BitVec 11
  lsave : BitVec 11
  imggen : BitVec 16
  psel : BitVec 10
  rcb : Word
  pwake : Word
  image : Word
  lqhead : Word
  evpend : BitVec 32
  evmask : BitVec 32
  watch : Word
  /-- The armed CXPARK deadline (R300). -/
  deadline : Word
  chains : Vector Chain 8
  pairs : Vector Pair 8
  faults : List FaultRec
  /-- Key-value pages of the context that the RSE demoted, oldest first (R214). -/
  demoted : List Word
  /-- Tiles held or last held, rank by rank (R296). -/
  tiles : List Nat
  /-- The live state of each rank while the context is off its tiles (R22). -/
  saved : List Ctx
  /-- The launch queue (R369) and the launch in progress, with its sections (R35). -/
  queue : List Launch
  /-- TAIL of the launch queue (R369). -/
  lqtail : BitVec 32
  current : Option Launch
  sects : Vector Section 4
  /-- The launch ended and awaits its counters (R288). -/
  ending : List (Launch × Nat)
  /-- A pre-emption request is pending (R28); the context halts at the next boundary (D1 step, R376). -/
  preempt : Bool
  oneStep : Bool
  /-- Order of entry into READY and of start (R295, R296). -/
  readySeq : Nat
  startSeq : Nat
  everRan : Bool
  /-- The context has a point to resume at (R286). -/
  resume : Bool
  /-- The rank that returns to its checkpoint when the context resumes from its image (R105). -/
  rewind : Option Nat
  grant : BitVec 16
  /-- The box stops for a swap, a halt or a destroy once off its tiles. -/
  stopping : Bool
  /-- The tiles that a CXSW has handed over to this context, and whether it was chosen as R296 does (R299, R318). -/
  handed : Option (List Nat × Bool)
  /-- A D1 step has run; the context halts once its operations are over (R376). -/
  halting : Bool
  /-- TIMEB of the pre-emption request that is pending, and the time from the last one to its save (R28). -/
  asked : Option Nat
  spent : Nat
  /-- TIMEB from which a save waits for an HBM stack in forced self-refresh, and the stack, numbered 3 die + stack (R28,
  R380). -/
  srSince : Option (Nat × Nat)
  /-- A start of the context needs an image that its security state gives no key for (R378). -/
  keyless : Bool
  deriving DecidableEq, Repr

/-! ## Regions (R292) -/

/-- The scheduler core's copy of a region control block (R293), with USED, the root's debug key digest, the default
clock request (R320), the template table (R324) and the root's period number (R294). -/
structure Region where
  va : Word
  parent : Word
  root : Bool
  die : Nat
  budgetOvr : Bool
  budget : Nat
  period : Nat
  prioOvr : Bool
  prio : BitVec 3
  isoOvr : Bool
  iso : BitVec 16
  fdomOvr : Bool
  fdom : BitVec 16
  wthrOvr : Bool
  wthr : BitVec 24
  used : Nat
  dbgkey : Option (List Byte)
  clock : BitVec 16
  templates : List (Nat × List (Byte × Byte))
  periodNo : Nat
  deriving DecidableEq, Repr

/-! ## Front end, units, rings (R319, R362, R379, R386) -/

/-- A packet whose thread still works on it (R364): the packet, when it began, and whether only its completion word or
notification is outstanding. -/
structure Busy where
  cmd : Instr
  since : Nat
  completing : Bool
  deriving DecidableEq, Repr

/-- A mapped queue and its thread (R362, R364). -/
structure MQueue where
  base : Word
  log : BitVec 4
  asid : BitVec 16
  own : Word
  ctl : BitVec 8
  tail : BitVec 32
  head : BitVec 32
  busy : Option Busy
  /-- TAGs of completed LAUNCHes of the queue with their STATUS (R367). -/
  doneTags : List (BitVec 32 × BitVec 8)
  /-- TAGs of LAUNCHes taken and not completed. -/
  openTags : List (BitVec 32)
  deriving DecidableEq, Repr

/-- A completion word that waits for its page (R368). -/
structure Deferred where
  queue : Nat
  /-- The thread of the queue waits for it. -/
  holds : Bool
  /-- It completes a LAUNCH. -/
  launch : Bool
  compl : Word
  word : Word
  notify : Bool
  /-- The box that the command names. -/
  box : Option Nat
  deriving DecidableEq, Repr

/-- A notification that waits for ring room (R386). -/
structure Notif where
  kind : Nat
  /-- The die and the number of the queue, and whether its thread waits for it. -/
  qdie : Nat
  queue : Nat
  holds : Bool
  box : BitVec 16
  rank : Nat
  value : Word
  deriving DecidableEq, Repr

/-- A command in a unit's queue: the context and rank that issued it (R326). -/
structure UnitCmd where
  box : Nat
  rank : Nat
  raw : BitVec 512
  deriving DecidableEq, Repr

/-- A backfill entry (R338): running or queued. -/
structure BackEntry where
  source : Nat
  rank : Nat
  box : Nat
  lbh : BitVec 32
  raw : BitVec 256
  running : Bool
  deriving DecidableEq, Repr

/-- A fault-service core: its ring registers and the records waiting in the pool (R266). FRLOG, and RASLOG of R379, take
5 bits: the tables of R253 and R362 say 4, which cannot hold the 16 that R266 and R379 admit (DESIGN CHOICE,
notes/assumptions/69.md). -/
structure FaultCore where
  base : Word
  log : BitVec 5
  prod : BitVec 32
  cons : BitVec 32
  waiting : List FaultRec
  deriving DecidableEq, Repr

/-- A log or notification ring (R379, R386). -/
structure Ring where
  base : Word
  log : BitVec 5
  prod : BitVec 32
  cons : BitVec 32
  ovf : BitVec 32
  deriving DecidableEq, Repr

/-- A RAS record that waits to be written to its die's log: CODE, BOX, UNIT, TIMEB and DETAIL (R379). -/
structure RasRecord where
  code : BitVec 8
  box : Nat
  unit : Nat
  time : Word
  detail : Nat
  deriving DecidableEq, Repr

/-- A packet accepted by an HBM stack's controller (R216), with the owner of the request. -/
structure HbmPacket where
  hdr : BitVec 128
  data : List Byte
  box : Nat
  rank : Nat
  deriving DecidableEq, Repr

/-- A reply on its way (R217): its header, its data, the request's header and owner. -/
structure HbmReply where
  hdr : BitVec 128
  data : List Byte
  req : BitVec 128
  box : Nat
  rank : Nat
  deriving DecidableEq, Repr

/-- An HBM stack: forced self-refresh, packets accepted, packets waiting unanswered, replies (R219). -/
structure Stack where
  sr : Bool
  packets : List HbmPacket
  waiting : List HbmPacket
  replies : List HbmReply
  deriving DecidableEq, Repr

/-- A page move in progress: ASID, page, new leaf tier and frame (R213). -/
structure Move where
  asid : Nat
  page : Word
  tier : BitVec 2
  pfn : Nat
  deriving DecidableEq, Repr

/-- A die: its mapped queues, units, fault-service cores, rings, RSE, stacks and power state. -/
structure Die where
  queues : Vector MQueue 32
  units : Vector (List UnitCmd) 6
  backfill : List BackEntry
  cores : Vector FaultCore 4
  /-- Records that their units hold because the fault pool gives no entry, oldest first (R254, R269). -/
  heldRecs : List FaultRec
  /-- The chain that each copy engine served last, by 8 box + chain (R256). -/
  turns : Sparse Nat
  ras : Ring
  /-- RAS records not yet written to the log, oldest first (R379). -/
  records : List RasRecord
  nring : Ring
  notifs : List Notif
  deferred : List Deferred
  rselead : BitVec 32
  rselow : Word
  move : Option Move
  /-- Free 64 KiB frames of the die's HBM, and of the loft (R215). -/
  pool : List Nat
  loftPool : List Nat
  /-- The vector clock (R236). -/
  vclock : Vector (BitVec 32) 4
  hbms : Vector Stack 3
  /-- New grants that wait to take effect, by box (R323). -/
  grants : List (Nat × BitVec 16)
  ps2 : Bool
  /-- A doorbell has rung since the die went to sleep (R377). -/
  rung : Bool
  /-- TIMEB from which the die has had free tiles and an empty run list (R370). -/
  idleSince : Option Nat
  deriving DecidableEq, Repr

/-! ## Firmware, security, links (R371 to R377, R381) -/

/-- A firmware slot: its version and bytes (R371, R373). -/
structure FwSlot where
  ver : BitVec 16
  image : List Byte
  deriving DecidableEq, Repr

/-- Firmware state (R371, R373): slots A and B, running slot, trial, rollback floor, the reset's TIMEB. -/
structure Firmware where
  a : FwSlot
  b : FwSlot
  runB : Bool
  nextB : Bool
  trial : Bool
  floor : BitVec 16
  since : Nat
  deriving DecidableEq, Repr

/-- Security states (R375). -/
inductive Security where
  | n | t | w
  deriving DecidableEq, Repr

/-- Debug states (R376): D1 with its RCB and its expiry. -/
inductive Debug where
  | d0
  | d1 (rcb : Word) (expiry : Word)
  | d2
  deriving DecidableEq, Repr

/-- An ASID table entry (R205). -/
structure Aspace where
  v : Bool
  root : BitVec 52
  deriving DecidableEq, Repr

/-- A dirty log (R315). -/
structure DirtyLog where
  asid : Nat
  va : Word
  log : Nat
  ovf : Bool
  deriving DecidableEq, Repr

/-- A write of the package to a byte of the range exported to peers that is not released at FABRIC: its location, the byte
before it, and the context rank whose store it is (R387). -/
structure Unseen where
  loc : Nat
  old : Byte
  by_ : Option (Nat × Nat)
  deriving DecidableEq, Repr

/-- What the last step did. -/
inductive Last where
  | none | event
  | issued | stalled | parked
  | trapped (code : BitVec 8)
  deriving DecidableEq, Repr

/-- What is at issue: tile or die, stream, word, its index, the die's queue or unit, and the context a unit's command
belongs to. -/
structure Cur where
  at_ : Nat
  strm : Strm
  word : Word
  idx : Nat
  sub : Nat
  box : Nat
  rank : Nat
  deriving DecidableEq, Repr

/-! ## The state -/

/-- The whole package. -/
structure State where
  agenda : List Action
  sched : Nat
  fresh : Nat
  cur : Cur
  last : Last
  /-- Memory by location: HBM and the tile SRAM windows at their physical address, memory behind attachment windows at
  the numbers of `extLoc`, pages absent from every tier at those of `backLoc`. -/
  mem : Mem
  /-- Locations with a soft error: corrected on the next read, uncorrectable (R176, R217). -/
  ces : List Nat
  ues : List Nat
  /-- Locations behind a window whose completer aborts or does not support the request (R383). -/
  aborts : List Nat
  timeb : Nat
  /-- A context has run since the boot (R280). -/
  ran : Bool
  tiles : Vector Tile 160
  dies : Vector Die 4
  boxes : Sparse Box
  regions : List Region
  blocks : List BlockReg
  asids : Sparse Aspace
  /-- Cached translations: ASID, page number, leaf (R209). -/
  tcache : List (Nat × Nat × Word)
  /-- Promotions requested, in order of request: die, ASID and page (R213). -/
  want : List (Nat × Nat × Word)
  dirty : List DirtyLog
  /-- Region keys by ISO (R372). -/
  keys : List (BitVec 16 × List Byte)
  fw : Firmware
  security : Security
  debug : Debug
  ps3 : Bool
  attwin : Vector (BitVec 128) 16
  expbase : Word
  expsize : BitVec 32
  /-- Writes that no peer sees yet, in order (R387). -/
  unseen : List Unseen
  accid : BitVec 10
  /-- Links up: 0 and 1 the CXL ports, 2 to 9 the UALink ports. -/
  links : BitVec 10
  msixMask : BitVec 8
  msixPend : BitVec 8
  /-- Message address and data of each MSI-X vector (R381). -/
  msixTable : Vector (Word × BitVec 32) 8
  /-- MSI-X messages sent, latest first: vector, address and data. -/
  msixSent : List (Nat × Word × BitVec 32)
  /-- What the last load of a control page, read of BAR0 or peer request was answered: the bytes, none for a UALink error
  response (R363, R385, R387). -/
  answer : Option (List Byte)
  /-- Reports to fault domains: domain, box, code or status (R293, R314, R351). -/
  reports : List (BitVec 16 × Nat × BitVec 8)
  /-- Counter behind the orders of entry into READY and of start. -/
  seq : Nat
  deriving DecidableEq, Repr

/-! ## The reasons a step can stop -/

/-- Faults. -/
inductive Fault where
  /-- Raised by a step whose action names a tile, die, stack, queue or unit that the package does not have (R14). It is
  safe: no agent of the package takes such an action. -/
  | noSuchUnit
  deriving DecidableEq, Repr

/-- Refusals. -/
inductive Refusal where
  /-- Raised by the arm of an instruction that has no meaning yet. It is safe: nothing is claimed of it. -/
  | notModelled (mnemonic : String)
  deriving DecidableEq, Repr

/-! ## Reset -/

/-- The C state at launch start (R96). -/
def CRegs.reset : CRegs where
  s := Vector.replicate 32 0
  poison := 0
  rrb := 0
  lpcnt := Vector.replicate 3 0
  lpbeg := Vector.replicate 3 0
  lpend := Vector.replicate 3 0
  lpstg := Vector.replicate 3 ⟨false, 0, 0⟩
  lpact := 0
  kr := Vector.replicate 4 0
  kcur := Vector.replicate 4 0
  kvalid := 0
  pend := []

/-- Trap registers at launch start (R347). -/
def TrapRegs.reset : TrapRegs := ⟨0, 0, 0, 0, 0, false, 0, 0, 0⟩

/-- An engine stream that does not run (R35). -/
def Stream.reset : Stream := ⟨false, false, 0, .after 0, []⟩

/-- The vector state at launch start (R127). -/
def VState.reset : VState where
  q := Vector.replicate 32 []
  lost := 0
  byp := Vector.replicate 3 none
  m := Vector.replicate 8 0
  mReady := Vector.replicate 8 0
  cqReady := Vector.replicate 2 0
  kw := Vector.replicate 4 0
  kwcur := Vector.replicate 4 0
  cq := Vector.replicate 2 ⟨[], 0, 0⟩
  rtw := 0
  vsoff := 0
  fly := []

/-- A nest record at reset: every CNT 1, all else 0 (R174, R183). -/
def NestRec.reset : NestRec where
  levels := Vector.replicate 6 ⟨1, 0, 0, 0, 0, 0⟩
  org := Vector.replicate 5 0
  xgow := 0
  scl := 0
  sclA := 0
  sclB := 0
  spa := 0
  spaM := 0
  run := false
  idx := Vector.replicate 6 0

/-- The matrix state at launch start (R174). -/
def XState.reset : XState where
  slot := Vector.replicate 16 ⟨false, 0, 0, 0, false, []⟩
  acc := Vector.replicate 4 ⟨false, 0, false, []⟩
  active := NestRec.reset
  shadow := NestRec.reset
  steps := 0
  fly := []

/-- The sum-product state at launch start (R158). -/
def SState.reset : SState := ⟨[], [], false, [], []⟩

/-- The live state at launch start (R96, R127, R158, R174, R270, R347). -/
def Ctx.reset : Ctx where
  c := CRegs.reset
  ckpt := none
  frozen := []
  loads := []
  mpc := 0
  due := .after 0
  lockstep := false
  memV := false
  memX := false
  memS := false
  cEnded := false
  v := Stream.reset
  x := Stream.reset
  s := Stream.reset
  trap := TrapRegs.reset
  clkrq := 0
  seed := 0
  sdcv := 0
  sdcx := 0
  sdcs := 0
  oc := ⟨0, 0, 0, 0⟩
  sflags := 0
  flagNew := 0
  vec := VState.reset
  mat := XState.reset
  spe := SState.reset
  written := 0
  done := false
  cntSaved := 0
  refused := Vector.replicate 4 none

/-- A free tile after reset. -/
def Tile.reset : Tile where
  beat := 0
  cnt := 0
  holdAll := 0
  holdC := 0
  holdS := 0
  stalled := false
  issued := 0
  since := Vector.replicate 4 none
  start := none
  order := 0
  base := 0
  oc0 := ⟨0, 0, 0, 0⟩
  newEvents := 0
  box := none
  rank := 0
  ctxno := 0
  lbase := 0
  lsize := 0
  lsave := 0
  sect := Vector.replicate 4 ⟨0, 0⟩
  ctx := Ctx.reset
  clkgr := 0
  stores := []
  full := []
  retried := Vector.replicate 4 false
  gated := false
  freeSince := 0
  owners := []

/-- An unbound chain (R253). -/
def Chain.reset : Chain := ⟨false, 0, 0, 0, 0, 0, 0, 0, 0, [], [], false, 0, 0, false, false, []⟩

/-- An unbound pair (R253). -/
def Pair.reset : Pair := ⟨false, 0, 0, 0, 0, 0, 0, [], []⟩

/-- A FREE box (R282, R202). -/
def Box.reset : Box where
  state := .free
  prio := 0
  age := 0
  reason := 0
  live := false
  img := false
  dl := false
  asid := 0
  imgsize := 0
  lbase := 0
  lsize := 0
  lsave := 0
  imggen := 0
  psel := 512
  rcb := 0
  pwake := 0
  image := 0
  lqhead := 0
  evpend := 0
  evmask := 0
  watch := 0
  deadline := 0
  chains := Vector.replicate 8 Chain.reset
  pairs := Vector.replicate 8 Pair.reset
  faults := []
  demoted := []
  tiles := []
  saved := []
  queue := []
  lqtail := 0
  current := none
  sects := Vector.replicate 4 ⟨0, 0⟩
  ending := []
  preempt := false
  oneStep := false
  readySeq := 0
  startSeq := 0
  everRan := false
  resume := false
  rewind := none
  grant := 0
  stopping := false
  handed := none
  halting := false
  asked := none
  spent := 0
  srSince := none
  keyless := false

/-- A die after reset. -/
def Die.reset : Die where
  queues := Vector.replicate 32 ⟨0, 0, 0, 0, 0, 0, 0, none, [], []⟩
  units := Vector.replicate 6 []
  backfill := []
  cores := Vector.replicate 4 ⟨0, 0, 0, 0, []⟩
  heldRecs := []
  turns := []
  ras := ⟨0, 0, 0, 0, 0⟩
  records := []
  nring := ⟨0, 0, 0, 0, 0⟩
  notifs := []
  deferred := []
  rselead := 50000
  rselow := 0
  move := none
  pool := []
  loftPool := []
  vclock := Vector.replicate 4 0
  hbms := Vector.replicate 3 ⟨false, [], [], []⟩
  grants := []
  ps2 := false
  rung := false
  idleSince := none

/-- The package after reset. -/
def State.reset : State where
  agenda := []
  sched := 0
  fresh := 0
  cur := ⟨0, .c, 0, 0, 0, 0, 0⟩
  last := .none
  mem := []
  ces := []
  ues := []
  aborts := []
  timeb := 0
  ran := false
  tiles := Vector.replicate 160 Tile.reset
  dies := Vector.replicate 4 Die.reset
  boxes := []
  regions := []
  blocks := []
  asids := []
  tcache := []
  want := []
  dirty := []
  keys := []
  fw := ⟨⟨0, []⟩, ⟨0, []⟩, false, false, false, 0, 0⟩
  security := .n
  debug := .d0
  ps3 := false
  attwin := Vector.replicate 16 0
  expbase := 0
  expsize := 0
  unseen := []
  accid := 0
  links := 0x3FF
  msixMask := 0xFF
  msixPend := 0
  msixTable := Vector.replicate 8 (0, 0)
  msixSent := []
  answer := none
  reports := []
  seq := 0

end Sys2Proof.Machine
end

