-- ==== Sys2Proof/Machine/Base.lean ====
section
/-!
DEFINITION. Sparse maps, byte memory, and the accessors through which the machine reads and changes a tile, a box, a die
or a region.
-/
namespace Sys2Proof.Machine

/-- The outcome of a step. -/
abbrev Out := Host.Outcome State Fault Refusal

/-! ## Sparse maps and memory -/

/-- What a sparse map holds at `k`, `d` where it lists nothing. -/
def sget {α : Type} (d : α) : Sparse α → Nat → α
  | [], _ => d
  | (a, v) :: m, k => if a = k then v else sget d m k

/-- A sparse map with `v` at `k`, its keys strictly rising, without the entry when `v` is the default. -/
def sput {α : Type} [DecidableEq α] (d : α) : Sparse α → Nat → α → Sparse α
  | [], k, v => if v = d then [] else [(k, v)]
  | (a, w) :: m, k, v =>
    if k < a then (if v = d then (a, w) :: m else (k, v) :: (a, w) :: m)
    else if k = a then (if v = d then m else (k, v) :: m)
    else (a, w) :: sput d m k v

/-- The canonical form: keys strictly rising and above `lo`, no default listed. -/
def sorted {α : Type} [DecidableEq α] (d : α) (lo : Nat) : Sparse α → Bool
  | [] => true
  | (a, v) :: m => decide (lo ≤ a) && decide (v ≠ d) && sorted d (a + 1) m

/-- The keys of a sparse map rise strictly. -/
abbrev Rising {α : Type} (m : Sparse α) : Prop := (m.map Prod.fst).Pairwise (· < ·)

/-- A byte of memory; an unlisted one reads as 0 (DESIGN CHOICE, notes/assumptions/4.md). -/
def Mem.read (m : Mem) (a : Nat) : Byte := sget 0 m a

/-- Memory with a byte written. -/
def Mem.write (m : Mem) (a : Nat) (b : Byte) : Mem := sput 0 m a b

/-- Memory with bytes written at their addresses, the first of the list first. -/
def Mem.writes (m : Mem) : List (Nat × Byte) → Mem
  | [] => m
  | (a, b) :: l => Mem.writes (Mem.write m a b) l

/-- `n` bytes from address `a`. -/
def Mem.readN (m : Mem) : Nat → Nat → List Byte
  | _, 0 => []
  | a, n + 1 => Mem.read m a :: Mem.readN m (a + 1) n

/-- A run of `n` values of a sparse map from key `a`, the entries of the map before it passed over. -/
def runOf {α : Type} (d : α) : Sparse α → Nat → Nat → List α
  | _, _, 0 => []
  | [], _, n + 1 => List.replicate (n + 1) d
  | (k, v) :: m, a, n + 1 => if k = a then v :: runOf d m (a + 1) n else d :: runOf d ((k, v) :: m) (a + 1) n

/-- A run of `n` values of a sparse map from key `a`. -/
def sparseRun {α : Type} (d : α) (m : Sparse α) (a n : Nat) : List α := runOf d (m.dropWhile (·.1 < a)) a n

/-- The entries of a run of values from key `a`. -/
def runEntries {α : Type} [DecidableEq α] (d : α) : Nat → List α → Sparse α
  | _, [] => []
  | a, v :: l => if v = d then runEntries d (a + 1) l else (a, v) :: runEntries d (a + 1) l

/-- A sparse map with a run of values from key `a`. -/
def overlay {α : Type} [DecidableEq α] (d : α) (m : Sparse α) (a : Nat) (l : List α) : Sparse α :=
  m.filter (fun p => p.1 < a) ++ runEntries d a l ++ m.filter (fun p => a + l.length ≤ p.1)

/-- A run of bytes with their addresses from `a`. -/
def atAddr : Nat → List Byte → List (Nat × Byte)
  | _, [] => []
  | a, b :: bs => (a, b) :: atAddr (a + 1) bs

/-- The canonical form of memory. -/
abbrev Mem.wf (m : Mem) : Bool := sorted (0 : Byte) 0 m

/-- A number added to a strictly rising list. -/
def insertNat : List Nat → Nat → List Nat
  | [], k => [k]
  | a :: l, k => if k < a then k :: a :: l else if k = a then a :: l else a :: insertNat l k

/-- A number taken from a list. -/
def eraseNat (l : List Nat) (k : Nat) : List Nat := l.filter (· != k)

/-- The numbers `a` to `a + n - 1`. -/
def rangeFrom : Nat → Nat → List Nat
  | _, 0 => []
  | a, n + 1 => a :: rangeFrom (a + 1) n

/-- A list with `f` applied at position `i`. -/
def updAt {α : Type} (f : α → α) : List α → Nat → List α
  | [], _ => []
  | a :: l, 0 => f a :: l
  | a :: l, i + 1 => a :: updAt f l i

/-- A vector with `f` applied at position `i`; unchanged beyond its end. -/
def vupd {α : Type} {n : Nat} (v : Vector α n) (i : Nat) (f : α → α) : Vector α n :=
  if h : i < n then v.set i (f v[i]) else v

/-- A vector with `a` at position `i`; unchanged beyond its end. -/
abbrev vput {α : Type} {n : Nat} (v : Vector α n) (i : Nat) (a : α) : Vector α n := vupd v i fun _ => a

/-- Position `i` of a vector, `d` beyond its end. -/
def vget {α : Type} {n : Nat} (d : α) (v : Vector α n) (i : Nat) : α := if h : i < n then v[i] else d

/-- One bit of a register with the value `b`. -/
def setBit {w : Nat} (x : BitVec w) (i : Nat) (b : Bool) : BitVec w :=
  if b then x ||| (1 <<< i : BitVec w) else x &&& ~~~ (1 <<< i : BitVec w)

/-- The value of a signed field. -/
abbrev sx {w : Nat} (x : BitVec w) : Int := x.toInt

/-! ## Tiles, boxes, dies -/

/-- Tile `t`. -/
def State.tile (s : State) (t : Nat) : Tile := vget Tile.reset s.tiles t

/-- The state with tile `t` changed. -/
def State.updTile (s : State) (t : Nat) (f : Tile → Tile) : State := { s with tiles := vupd s.tiles t f }

/-- The state with the context on tile `t` changed. -/
def State.updCtx (s : State) (t : Nat) (f : Ctx → Ctx) : State := s.updTile t fun x => { x with ctx := f x.ctx }

/-- The context on tile `t`. -/
def State.ctx (s : State) (t : Nat) : Ctx := (s.tile t).ctx

/-- Box `b`; one that was never created is FREE (R365). -/
def State.box (s : State) (b : Nat) : Box := sget Box.reset s.boxes b

/-- The state with box `b` changed. -/
def State.updBox (s : State) (b : Nat) (f : Box → Box) : State := { s with boxes := sput Box.reset s.boxes b (f (s.box b)) }

/-- Die `d`. -/
def State.die (s : State) (d : Nat) : Die := vget Die.reset s.dies d

/-- The state with die `d` changed. -/
def State.updDie (s : State) (d : Nat) (f : Die → Die) : State := { s with dies := vupd s.dies d f }

/-- The die of a tile (R5, R14). -/
def tileDie (t : Nat) : Nat := t / 40

/-- The die that homes a box (R284). -/
def boxDie (b : Nat) : Nat := b / 16384

/-- A value of the device's random source or another free value, and the state after it is drawn. -/
def State.draw (s : State) : Nat × State := (Config.freeBits s.fresh, { s with fresh := s.fresh + 1 })

/-- The tile that runs rank `r` of box `b`, if one does. -/
def State.tileOf (s : State) (b r : Nat) : Option Nat :=
  if (s.box b).state = .running then (s.box b).tiles[r]? else none

/-- The state with the live context of rank `r` of box `b` changed, on its tile or in the box (R272, R347). -/
def State.updRank (s : State) (b r : Nat) (f : Ctx → Ctx) : State :=
  match s.tileOf b r with
  | some t => s.updCtx t f
  | none => s.updBox b fun x => { x with saved := updAt f x.saved r }

/-- The live context of rank `r` of box `b`. -/
def State.rankCtx (s : State) (b r : Nat) : Ctx :=
  match s.tileOf b r with
  | some t => s.ctx t
  | none => ((s.box b).saved[r]?).getD Ctx.reset

/-! ## Regions (R292, R293): each die's scheduler core keeps its own copies -/

/-- The copy of a region control block that a die has accepted. -/
def State.region (s : State) (die : Nat) (va : Word) : Option Region := s.regions.find? fun r => r.die == die && r.va == va

/-- The chain of a die's accepted blocks from `va` up to its root, at most `fuel` of them (R293). -/
def State.regionChain (s : State) (die : Nat) (va : Word) : Nat → List Region
  | 0 => []
  | fuel + 1 =>
    match s.region die va with
    | none => []
    | some r => if r.root then [r] else r :: s.regionChain die r.parent fuel

/-- The chain of a box's region. -/
def State.chainOf (s : State) (die : Nat) (va : Word) : List Region := s.regionChain die va 17

/-- Effective priority (R293). -/
def State.effPrio (s : State) (die : Nat) (va : Word) : BitVec 3 :=
  (((s.chainOf die va).find? (·.prioOvr)).map (·.prio)).getD 0

/-- Effective isolation domain. -/
def State.effIso (s : State) (die : Nat) (va : Word) : BitVec 16 :=
  (((s.chainOf die va).find? (·.isoOvr)).map (·.iso)).getD 0

/-- Effective fault domain. -/
def State.effFdom (s : State) (die : Nat) (va : Word) : BitVec 16 :=
  (((s.chainOf die va).find? (·.fdomOvr)).map (·.fdom)).getD 0

/-- Effective wait threshold. -/
def State.effWthr (s : State) (die : Nat) (va : Word) : BitVec 24 :=
  (((s.chainOf die va).find? (·.wthrOvr)).map (·.wthr)).getD 0

/-- Effective budget. -/
def State.effBudget (s : State) (die : Nat) (va : Word) : Nat :=
  (((s.chainOf die va).find? (·.budgetOvr)).map (·.budget)).getD 0

/-- The blocks that a context of region `va` charges: its own and every ancestor with its own budget (R294). -/
def State.charged (s : State) (die : Nat) (va : Word) : List Region :=
  match s.chainOf die va with
  | [] => []
  | r :: rs => r :: rs.filter (·.budgetOvr)

/-- The period of the root above `va`. -/
def State.rootPeriod (s : State) (die : Nat) (va : Word) : Nat :=
  (((s.chainOf die va).find? (·.root)).map (·.period)).getD 1

/-- Whether `va` is `top` or one of its descendants on a die (R365). -/
def State.under (s : State) (die : Nat) (va top : Word) : Bool := (s.chainOf die va).any (·.va == top)

/-- The state with a die's copy of a region changed. -/
def State.updRegion (s : State) (die : Nat) (va : Word) (f : Region → Region) : State :=
  { s with regions := s.regions.map fun r => if r.die == die && r.va == va then f r else r }

/-- TIMEB as a register value. -/
def State.timeWord (s : State) : Word := BitVec.ofNat 64 s.timeb

/-- The state after a RAS record is reported to a die: it waits to be written to the die's log (R344, R379). -/
def State.ras (s : State) (die : Nat) (code : BitVec 8) (box unit detail : Nat) : State :=
  s.updDie die fun d => { d with records := d.records ++ [⟨code, box, unit, s.timeWord, detail⟩] }

/-- UNIT of a RAS record (R379). -/
def unitTile (t : Nat) : Nat := t
def unitCe (e : Nat) : Nat := 0x1000 + e
/-- UNIT of unit `u` of a die: SLU 0 to 3, the CME, the BFE. -/
def unitOf (u : Nat) : Nat := if u < 4 then 0x2000 + u else if u = 4 then 0x4000 else 0x3000
def unitRse : Nat := 0x5000
def unitHbm (k : Nat) : Nat := 0x6000 + k
def unitFront : Nat := 0x7000

/-- A negative reply logged with its header: ROPC 0xFF, REASON, and the TAG of the request, which is a free value where
the requester is a tile, a unit, an engine or the front end (R216, R217, R219; notes/assumptions/57.md). -/
def State.nackLog (s : State) (die box unit reason : Nat) : State :=
  let (n, s) := s.draw
  s.ras die 0xD8 box unit (0xFF * 2 ^ 120 + reason % 256 * 2 ^ 112 + n % 65536 * 2 ^ 96)

/-- An event of a box (R290), marked on the tiles that run its context as one of their present beat (R291). -/
def State.setEvent (s : State) (b : Nat) (n : Nat) : State :=
  let x := s.box b
  let s := s.updBox b fun x => { x with evpend := setBit x.evpend n true }
  if x.state = .running then
    x.tiles.foldl (fun s t => s.updTile t fun y => { y with newEvents := setBit y.newEvents n true }) s
  else s

/-- A report to the owner of the box's fault domain (R293). -/
def State.report (s : State) (b : Nat) (code : BitVec 8) : State :=
  { s with reports := (s.effFdom (boxDie b) (s.box b).rcb, b, code) :: s.reports }

end Sys2Proof.Machine
end

