-- ==== Sys2Proof/Machine/Translate.lean ====
section
/-!
DEFINITION. Physical memory, attachment windows, translation, access and dirty bits, and the reads and writes of virtual
memory that the units make (R203 to R212, R222, R315, R382).
-/
namespace Sys2Proof.Machine

/-! ## Physical addresses (R204, R382) -/

/-- What a physical address holds. -/
inductive Place where
  | hbm (die : Nat)
  | window (tile : Nat) (off : Nat)
  | control
  | loft
  | unmapped
  deriving DecidableEq, Repr

/-- The physical map of R204. -/
def placeOf (pa : Nat) : Place :=
  if pa < 0x9000000000 then .hbm (pa / 0x2400000000)
  else if 0x1000000000000 ≤ pa && pa < 0x1000028000000 then .window ((pa - 0x1000000000000) / 0x400000) (pa % 0x400000)
  else if 0x2000000000000 ≤ pa && pa < 0x2000000040000 then .control
  else if 0x8000000000000 ≤ pa && pa < 0x10000000000000 then .loft
  else .unmapped

/-- The physical address of byte `off` of tile `t`'s SRAM (R204). -/
def sramPa (t off : Nat) : Nat := 0x1000000000000 + t * 0x400000 + off

/-- Whether an attachment window is in use: V, KIND 0 to 3, RSV zero (R382). -/
def winValid (w : BitVec 128) : Bool :=
  bits w 63 1 == 1 && bits w 62 1 == 0 && bits w 48 2 == 0 && bits w 64 28 == 0 && bits w 47 1 == 1

/-- Whether the window holds a physical address. -/
def winHas (w : BitVec 128) (pa : Nat) : Bool :=
  winValid w && (bits w 24 24).toNat * 2 ^ 28 ≤ pa && pa < ((bits w 24 24).toNat + (bits w 0 24).toNat) * 2 ^ 28

/-- The window that a loft address uses: the lowest-numbered one that holds it (R382). -/
def State.winOf (s : State) (pa : Nat) : Option (BitVec 128) := s.attwin.toList.find? (winHas · pa)

/-- The target address of a loft address in its window (R382). -/
def winTarget (w : BitVec 128) (pa : Nat) : Nat := (bits w 92 36).toNat * 2 ^ 28 + (pa - (bits w 24 24).toNat * 2 ^ 28)

/-- The location of a target behind a window: memory of port 0, of port 1, or of a peer; a window of both ports alternates
between them at 4 KiB granules, the even ones on port 0 (R382). -/
def extLoc (w : BitVec 128) (pa : Nat) : Nat :=
  let kind := (bits w 60 3).toNat
  let cls := if kind = 3 then 16 + (bits w 50 10).toNat else if kind = 2 then 1 + pa / 4096 % 2 else 1 + kind
  cls * 2 ^ 64 + winTarget w pa

/-- A location of no device: where an address has no place (a translation cached before its window was withdrawn, R382).
Nothing is stored there, since the access gets a negative reply. -/
def noLoc (pa : Nat) : Nat := 2 ^ 99 + pa

/-- The location of the bytes of a page that no tier holds (TIER = 11), by ASID and address. -/
def backLoc (asid va : Nat) : Nat := 2 ^ 100 + asid * 2 ^ 57 + va

/-- Whether the port behind a location is up: a CXL port for memory of `extLoc`'s classes 1 and 2, a UALink port for that
of a peer; a location inside the package needs none (R382, R383). -/
def State.linkUp (s : State) (l : Nat) : Bool :=
  match l / 2 ^ 64 with
  | 0 => true
  | 1 => s.links.getLsbD 0
  | 2 => s.links.getLsbD 1
  | c => 1040 ≤ c || bits s.links 2 8 != 0

/-- The location that holds a physical address; none where the address is unmapped or lies in the control pages. -/
def State.loc (s : State) (pa : Nat) : Option Nat :=
  match placeOf pa with
  | .hbm _ => some pa
  | .window _ _ => some pa
  | .loft => (s.winOf pa).map (extLoc · pa)
  | _ => none

/-! ## Bytes at locations, full bits and written maps -/

/-- Whether granule `g` of tile `t`'s SRAM is full (R177). -/
def State.isFull (s : State) (t g : Nat) : Bool := (s.tile t).full.contains g

/-- The SRAM of a tile that runs a context as the present beat found it, kept from the beat's first change (R237). -/
def Tile.opened (x : Tile) (m : Mem) : Tile :=
  if x.box.isSome && x.start.isNone then { x with start := some ⟨m, x.full, [], []⟩ } else x

/-- Granule `g` set full or cleared; a granule that a write of the same beat has set stays full (R237). -/
def Tile.putFull (x : Tile) (g : Nat) (v : Bool) : Tile :=
  if v then
    { x with full := insertNat x.full g, start := x.start.map fun b => { b with sets := insertNat b.sets g } }
  else if x.start.any (·.sets.contains g) then x
  else { x with full := eraseNat x.full g }

/-- Whether the streams of a tile have begun their words of the present beat: one has issued, has stalled, or has changed
the SRAM (R237). -/
def Tile.midBeat (x : Tile) : Bool :=
  x.box.isSome && (x.issued != 0 || x.start.isSome || x.since.toList.any fun y => y.any (·.seen == x.beat))

/-- The tile before a change of its SRAM: by one of its streams, or, where `by_` is not 0, by another requester, whose place
in the order of R237 it is. Such a change while the words of a beat go on is one of that beat; one between two beats comes
after the words of the earlier one, and such ones take effect one after another (DEDUCED, notes/assumptions/76.md). -/
def Tile.before (x : Tile) (m : Mem) (by_ : Nat) : Tile :=
  if by_ = 0 then x.opened m
  else
    let x := { x with order := if x.box.isSome then max by_ x.order else x.order }
    if x.midBeat then x.opened m else x

/-- The place in the order of R237 of a window access. -/
abbrev windowAccess : Nat := 65

/-- Granule `g` of tile `t` set full or cleared; a clear comes before the writes of a beat and so takes no place among them
(R177, R237). -/
def State.setFull (s : State) (t g : Nat) (v : Bool) (by_ : Nat := windowAccess) : State :=
  s.updTile t fun x =>
    (if v || by_ == 0 then x.before s.mem by_ else if x.midBeat then x.opened s.mem else x).putFull g v

/-- Memory as the present beat of tile `t` found it (R237). -/
def State.startMem (s : State) (t : Nat) : Mem := ((s.tile t).start.map (·.mem)).getD s.mem

/-- Whether granule `g` of tile `t`'s SRAM is full as the present beat found it (R177, R237). -/
def State.startFull (s : State) (t g : Nat) : Bool :=
  (((s.tile t).start.map (·.full)).getD (s.tile t).full).contains g

/-- A written map with the bit of the unit that holds SRAM byte `off`, where the lease holds it (R309). -/
def markMap (lbase lsize off : Nat) (m : BitVec 1024) : BitVec 1024 :=
  let u := off / 4096
  if lbase ≤ u && u < lbase + lsize then setBit m (u - lbase) true else m

/-- Written bits of every context that holds a lease over byte `off` of tile `t`: the running one, and each one whose
lease bytes stand there (R309). -/
def State.markWritten (s : State) (t off : Nat) : State :=
  s.updTile t fun x =>
    { x with
      ctx := { x.ctx with written := markMap x.lbase.toNat x.lsize.toNat off x.ctx.written }
      owners := x.owners.map fun p => (p.1, markMap (s.box p.1).lbase.toNat (s.box p.1).lsize.toNat off p.2) }

/-- Whether peers reach a location: it lies in the exported range (R387). -/
def State.exported (s : State) (l : Nat) : Bool :=
  decide (s.expbase.toNat ≤ l) && decide (l < s.expbase.toNat + s.expsize.toNat * 2 ^ 28)

/-- A write of the package to a location noted where peers reach it: they do not see it before it is released at FABRIC
(R387). -/
def State.hideWrite (s : State) (l : Nat) : State :=
  if s.exported l then { s with unseen := s.unseen ++ [⟨l, s.mem.read l, none⟩] } else s

/-- Whether an earlier write of tile `t`'s present beat comes after the tile's streams in the order of R237, so that what
they write to the location in the beat does not stand. -/
def State.outranked (s : State) (t l : Nat) : Bool := (s.tile t).start.any (·.late.contains l)

/-- A byte written at a location, with the written bit of its lease unit; in a tile's SRAM by one of its streams, or, where
`by_` is not 0, by another requester (R237). -/
def State.putByte (s : State) (l : Nat) (b : Byte) (by_ : Nat := windowAccess) : State :=
  match placeOf l with
  | .window t off =>
    let late := fun (k : BeatStart) => if by_ = 0 then k else { k with late := insertNat k.late l }
    let z := s.updTile t fun x => let y := x.before s.mem by_; { y with start := y.start.map late }
    ({ z with mem := if by_ = 0 && s.outranked t l then s.mem else s.mem.write l b } : State).markWritten t off
  | _ => { s.hideWrite l with mem := s.mem.write l b }

/-- Bytes written at their locations, in order. -/
def State.putBytes (s : State) (l : List (Nat × Byte)) (by_ : Nat := windowAccess) : State :=
  match l with
  | [] => s
  | (l, b) :: r => (s.putByte l b by_).putBytes r by_

/-- The full bits of the granules of window locations, set or cleared (R177). -/
def State.fillLocs (s : State) (v : Bool) (l : List Nat) (by_ : Nat := windowAccess) : State :=
  match l with
  | [] => s
  | l :: r =>
    (match placeOf l with
      | .window t off => s.setFull t (off / 16) v by_
      | _ => s).fillLocs v r by_

/-- A byte written, in tile `t`'s window before its present beat: the words of the beat see it, and a write of the beat to
another tile's window or elsewhere is as any other (R237). -/
def State.putEarly (s : State) (t l : Nat) (b : Byte) : State :=
  match placeOf l with
  | .window u off =>
    if u = t then
      let put := fun (k : BeatStart) => { k with mem := k.mem.write l b }
      let z := s.updTile t fun x => { x with start := x.start.map put }
      ({ z with mem := s.mem.write l b } : State).markWritten t off
    else s.putByte l b
  | _ => s.putByte l b

/-- The full bits of the granules of locations set; in tile `t`'s window before its present beat (R177, R237). -/
def State.fillEarly (s : State) (t : Nat) : List Nat → State
  | [] => s
  | l :: r =>
    (match placeOf l with
      | .window u off =>
        if u = t then
          let g := off / 16
          let put := fun (k : BeatStart) => { k with full := insertNat k.full g }
          s.updTile t fun x => { x with full := insertNat x.full g, start := x.start.map put }
        else s.setFull u (off / 16) true
      | _ => s).fillEarly t r

/-- Whether a location lies in an empty granule of a tile window, as the tile's present beat found it (R237). -/
def State.emptyAt (s : State) (l : Nat) : Bool :=
  match placeOf l with
  | .window u off => !s.startFull u (off / 16)
  | _ => false

/-- The byte that a read sees at a location: in a tile's SRAM as the tile's present beat found it (R237). -/
def State.seen (s : State) (l : Nat) : Byte :=
  match placeOf l with
  | .window t _ => (s.startMem t).read l
  | _ => s.mem.read l

/-- The bytes that a read sees at locations. -/
def State.getBytes (s : State) (ls : List Nat) : List Byte := ls.map s.seen

/-- Whether a location lies in the SRAM of a tile whose streams are at the words of a beat: other requesters come before or
after them (R237). -/
def State.midBeat (s : State) (l : Nat) : Bool :=
  match placeOf l with
  | .window t _ => (s.tile t).midBeat
  | _ => false

/-- Whether a write of copy engine `e` to a location would come after one of the tile's beat that R237 puts behind it. -/
def State.outOfOrder (s : State) (e l : Nat) : Bool :=
  match placeOf l with
  | .window t _ => decide (e + 1 < (s.tile t).order)
  | _ => false

/-- The bytes that stand at locations now, as an update that is one indivisible action finds them (R250, R276). -/
def State.nowBytes (s : State) (ls : List Nat) : List Byte := ls.map (s.mem.read ·)

/-- The 64-bit word at a physical address, 0 where the address is unmapped. -/
def State.paWord (s : State) (pa : Nat) : Word :=
  match s.loc pa with
  | none => 0
  | some l => BitVec.ofNat 64 (ofBytes (s.mem.readN l 8))

/-! ## Page table entries (R205, R206) -/

/-- Fields of a leaf. -/
def lfHome (l : Word) : BitVec 2 := bits l 61 2
def lfTier (l : Word) : BitVec 2 := bits l 59 2
def lfLayout (l : Word) : BitVec 2 := bits l 57 2
def lfKv (l : Word) : Bool := l.getLsbD 56
def lfD (l : Word) : Bool := l.getLsbD 55
def lfW (l : Word) : Bool := l.getLsbD 52
def lfX (l : Word) : Bool := l.getLsbD 51
def lfMv (l : Word) : Bool := l.getLsbD 50
def lfSlice (l : Word) : BitVec 2 := bits l 48 2
def lfPfn (l : Word) : Nat := (bits l 0 36).toNat

/-- The walk of R205: the leaf and its physical address, none for NO_MAPPING. -/
def State.walk (s : State) (asid va : Nat) : Option (Word × Nat) :=
  let a := sget ⟨false, 0⟩ s.asids asid
  if !a.v then none
  else
    let e1 := s.paWord (a.root.toNat + 8 * nbits va 42 15)
    if !e1.getLsbD 63 || bits e1 36 27 != 0 then none
    else
      let e2 := s.paWord (lfPfn e1 * 65536 + 8 * nbits va 29 13)
      if !e2.getLsbD 63 || bits e2 36 27 != 0 then none
      else
        let pa := lfPfn e2 * 65536 + 8 * nbits va 16 13
        let l := s.paWord pa
        if !l.getLsbD 63 then none
        else if lfTier l != 3 && (s.loc (lfPfn l * 65536)).isNone then none
        else some (l, pa)

/-- A leaf that passes the checks of R206; one that does not raises ATTR_INVALID. -/
def leafOk (l : Word) : Bool :=
  bits l 36 12 == 0 && (lfHome l == 2 || lfSlice l == 0)
    && (match placeOf (lfPfn l * 65536) with
        | .window _ _ => lfTier l == 0 || lfTier l == 3
        | .hbm _ => lfTier l == 1 || lfTier l == 3
        | .loft => lfTier l == 2 || lfTier l == 3
        | _ => lfTier l == 3)
    && (lfHome l != 1 || lfTier l == 0)

/-- Whether a page can be accessed at its tier (R212). -/
def resident (l : Word) : Bool := lfTier l == 0 || lfTier l == 1 || (lfTier l == 2 && !lfKv l)

/-- Two leaves that give one translation: equal but for A and D. -/
def sameLeaf (a b : Word) : Bool := (a ||| (3 <<< 54)) == (b ||| (3 <<< 54))

/-- The leaf that an access uses: the walked one, or, where a cache still holds another one of the page, either of the
two by a free choice (R209); the cache then holds what was used. Only leaves are held, and only where an access goes on from
the state that `reach` or `access` gives: a fetch, CEAPP, the data of a piece and what `readVa` reads use the cache and fill
none (DESIGN CHOICE, notes/assumptions/71.md). -/
def State.leaf (s : State) (asid va : Nat) : Option Word × State :=
  let page := va / 65536
  let walked := (s.walk asid va).map (·.1)
  let cached := (s.tcache.find? fun e => e.1 == asid && e.2.1 == page).map (·.2.2)
  match cached, walked with
  | none, none => (none, s)
  | none, some l => (some l, { s with tcache := (asid, page, l) :: s.tcache })
  | some c, w =>
    if (w.map (sameLeaf c)).getD false then (w, s)
    else
      let (n, s) := s.draw
      if n % 2 = 0 then (some c, s)
      else
        let rest := s.tcache.filter fun e => !(e.1 == asid && e.2.1 == page)
        match w with
        | none => (none, { s with tcache := rest })
        | some l => (some l, { s with tcache := (asid, page, l) :: rest })

/-- The cached translations of a page dropped (R209, R213). -/
def State.dropPage (s : State) (asid page : Nat) : State :=
  { s with tcache := s.tcache.filter fun e => !(e.1 == asid && e.2.1 == page) }

/-! ## Accesses -/

/-- The outcome of translating an access: a precise cause with the address the check failed on, pages that are not
resident, or the locations of its bytes and the leaves of its pages. -/
inductive Access where
  | cause (code : BitVec 8) (va : Nat)
  | absent (pages : List Nat)
  | ok (locs : List Nat) (leaves : List Word)
  deriving DecidableEq, Repr

/-- The location of a byte through its leaf, if its address has a place. -/
def State.byteLoc (s : State) (l : Word) (va : Nat) : Option Nat := s.loc (lfPfn l * 65536 + va % 65536)

/-- The first addresses that an access of `n` bytes at `va` makes in each page it touches. -/
def pagesOf (va n : Nat) : List Nat :=
  (rangeFrom (va / 65536) ((va + n - 1) / 65536 - va / 65536 + 1)).map fun p => max va (p * 65536)

/-- The leaves of an access, page by page, with the checks of R205 and R206. -/
def State.leaves (s : State) (asid : Nat) : List Nat → Except (BitVec 8 × Nat) (List Word) × State
  | [] => (.ok [], s)
  | va :: r =>
    match s.leaf asid va with
    | (none, s) => (.error (0x41, va), s)
    | (some l, s) =>
      if !leafOk l then (.error (0x43, va), s)
      else match s.leaves asid r with
        | (.error e, s) => (.error e, s)
        | (.ok ls, s) => (.ok (l :: ls), s)

/-- Leaves that differ in what R222 compares. -/
def straddles : List Word → Bool
  | l :: m :: r =>
    lfHome l != lfHome m || lfTier l != lfTier m || lfLayout l != lfLayout m || lfKv l != lfKv m || lfW l != lfW m
      || lfX l != lfX m || lfSlice l != lfSlice m || straddles (m :: r)
  | _ => false

/-- The translation of an access of `n` bytes at `va` with the checks of LD, or of ST when `w` (R203, R205, R206, R208,
R212), and under `strict` that of R222. Of an access that begins below 2^57 and goes beyond it the spec speaks nowhere:
ADDR_RANGE at 2^57 (DESIGN CHOICE, notes/assumptions/56.md). -/
def State.translate (s : State) (asid va n : Nat) (w strict : Bool) : Access × State :=
  if 2 ^ 57 ≤ va then (.cause 0x40 va, s)
  else if 2 ^ 57 < va + n then (.cause 0x40 (2 ^ 57), s)
  else
    match s.leaves asid (pagesOf va n) with
    | (.error (c, a), s) => (.cause c a, s)
    | (.ok ls, s) =>
      if strict && straddles ls then (.cause 0x44 va, s)
      else if w && ls.any (!lfW ·) then (.cause 0x42 va, s)
      else
        let ps := (pagesOf va n).zip ls
        let away := ps.filter fun p => !resident p.2
        if !away.isEmpty then (.absent (away.map fun p => p.1 / 65536 * 65536), s)
        else
          (.ok ((rangeFrom va n).map fun a =>
              let l := ls.getD (a / 65536 - va / 65536) 0
              ((s.byteLoc l a).getD (noLoc (lfPfn l * 65536 + a % 65536)))) ls, s)

/-- The translation of an access of a word: its pages may not differ in what R222 compares. -/
abbrev State.access (s : State) (asid va n : Nat) (w : Bool) : Access × State := s.translate asid va n w true

/-- The translation of an access of a unit, an engine or the front end, page by page: R222 speaks of LD and ST. -/
abbrev State.reach (s : State) (asid va n : Nat) (w : Bool) : Access × State := s.translate asid va n w false

/-- Whether any location has an uncorrectable error. -/
def State.anyUe (s : State) (ls : List Nat) : Bool := ls.any (s.ues.contains ·)

/-- Whether an access to a location is answered with reason 0x03: its window is withdrawn, its link is down, or its completer
aborts or does not support the request (R382, R383). -/
def State.noAnswer (s : State) (l : Nat) : Bool :=
  (decide (2 ^ 99 ≤ l) && decide (l < 2 ^ 100)) || !s.linkUp l || s.aborts.contains l

/-- The negative reply to an access of an address at some locations, as reason and address: 0x03 where one of them gives no
answer, 0x05 where one that is read is poisoned or has an uncorrectable error outside tile SRAM (R217, R219, R383). -/
def State.reply (s : State) (va : Nat) (locs : List Nat) (read : Bool) : Option (Nat × Nat) :=
  let bad := fun (l : Nat) => s.ues.contains l && (match placeOf l with | .window _ _ => false | _ => true)
  if locs.any s.noAnswer then some (3, va) else if read && locs.any bad then some (5, va) else none

/-- The location of a tile window among some that has an uncorrectable error, by its position (R176). -/
def State.sramUe (s : State) (locs : List Nat) : Option Nat :=
  locs.findIdx? fun l => s.ues.contains l && (match placeOf l with | .window _ _ => true | _ => false)

/-- Whether some of the locations lie in an HBM stack in forced self-refresh: a packet to it waits unanswered (R219). -/
def State.srHeld (s : State) (locs : List Nat) : Bool :=
  locs.any fun l =>
    match placeOf l with
    | .hbm d => (vget ⟨false, [], [], []⟩ (s.die d).hbms (l / 4096 % 3)).sr
    | _ => false

/-- The stack in forced self-refresh that holds the first such location, numbered 3 die + stack. -/
def State.srStack (s : State) (locs : List Nat) : Option Nat :=
  (locs.find? fun l => s.srHeld [l]).map fun l => 3 * (l / 0x2400000000) + l / 4096 % 3

/-- Whether an access of another requester than a tile's own streams to some locations waits: a stack in forced self-refresh
does not answer, or the words of a tile's beat come first (R219, R237). -/
def State.held (s : State) (locs : List Nat) : Bool := s.srHeld locs || locs.any s.midBeat

/-- What keeps an access by a unit, an engine or the front end from its bytes after its translation: a negative reply with
its reason, or, with reason 0, an error of a tile's SRAM in bytes that it reads. -/
def State.badReply (s : State) (asid va n : Nat) (w : Bool) : Option Nat :=
  match (s.reach asid va n w).1 with
  | .ok locs _ =>
    match s.reply va locs (!w) with
    | some r => some r.1
    | none => if !w && (s.sramUe locs).isSome then some 0 else none
  | _ => none

/-- A run of bytes read in an ASID with the checks of LD, as the units read memory; none where a check fails, a page is
not resident, or the memory answers with an error. -/
def State.readVa (s : State) (asid : Nat) (va : Word) (n : Nat) : Option (List Byte) :=
  match (s.reach asid va.toNat n false).1 with
  | .ok locs _ => if (s.badReply asid va.toNat n false).isSome then none else some (s.getBytes locs)
  | _ => none

/-- A 64-bit word read in an ASID. -/
def State.readWordVa (s : State) (asid : Nat) (va : Word) : Option Word :=
  (s.readVa asid va 8).map fun b => BitVec.ofNat 64 (ofBytes b)

/-! ## Access and dirty bits, dirty logs (R208, R315) -/

/-- A leaf's A bit, and D bit when `d`, set in the table. -/
def State.setAD (s : State) (asid va : Nat) (d : Bool) : State :=
  match s.walk asid va with
  | none => s
  | some (l, pa) =>
    let l' := l ||| (1 <<< 54) ||| (if d then 1 <<< 55 else 0)
    if l' = l then s
    else match s.loc pa with
      | none => s
      | some x => s.putBytes (atAddr x (toBytes 8 l'.toNat))

/-- Bytes written in ASID 0 for a dirty log, with A and D set and no entry in a dirty log; a negative reply is logged, on a
die chosen freely. None where a check of ST fails or the reply is negative (R219, R315). -/
def State.rawWrite (s : State) (va : Word) (b : List Byte) : State × Bool :=
  match s.reach 0 va.toNat b.length true with
  | (.ok locs _, s) =>
    match s.reply va.toNat locs false with
    | some r =>
      let (n, s) := s.draw
      (s.nackLog (n % 4) 0xFFFF unitFront r.1, false)
    | none =>
      (((pagesOf va.toNat b.length).foldl (fun s a => s.setAD 0 a true) s).putBytes (locs.zip b), true)
  | _ => (s, false)

/-- An entry appended to an ASID's dirty log, or OVF set when the ring is full (R315). The log is read and written at the
homes of its lines, so that no write of it crosses dies. An append whose head or entry cannot be read or written is dropped:
neither OVF is set nor does the write wait (DESIGN CHOICE, notes/assumptions/70.md). -/
def State.logDirty (s : State) (asid page : Nat) : State :=
  match s.dirty.find? (·.asid == asid) with
  | none => s
  | some g =>
    if g.ovf then s
    else match s.readWordVa 0 g.va, s.readWordVa 0 (g.va + 8) with
      | some prod, some cons =>
        let p := (bits prod 0 63).toNat
        let c := (bits cons 0 63).toNat
        if (p + 2 ^ 63 - c) % 2 ^ 63 ≥ 2 ^ g.log then
          let s := { s with dirty := s.dirty.map fun (h : DirtyLog) => if h.asid == asid then { h with ovf := true } else h }
          (s.rawWrite g.va (toBytes 8 (prod ||| (1 <<< 63)).toNat)).1
        else
          let at_ := g.va + 64 + BitVec.ofNat 64 (8 * (p % 2 ^ g.log))
          let (s, put) := s.rawWrite at_ (toBytes 8 page)
          if put then (s.rawWrite g.va (toBytes 8 ((p + 1) % 2 ^ 63))).1 else s
      | _, _ => s

/-- The bits that an access sets on each of its pages: A, and for a write D, logged when D was clear (R208, R315). -/
def State.touch (s : State) (asid : Nat) (w : Bool) : List Nat → State
  | [] => s
  | va :: r =>
    let fresh := w && ((s.walk asid va).map fun p => !lfD p.1).getD false
    let s := if fresh then s.logDirty asid (va / 65536 * 65536) else s
    (s.setAD asid va w).touch asid w r

/-- Bytes written in an ASID with the checks of ST, as the units write memory: D set and logged; full bits of window
granules set where `fill`, for a write of the CME or of a copy engine (R177). None where a check fails, a page is not
resident, or the memory answers with an error. -/
def State.writeVa (s : State) (asid : Nat) (va : Word) (b : List Byte) (fill : Bool := false)
    (by_ : Nat := windowAccess) : Option State :=
  match s.reach asid va.toNat b.length true with
  | (.ok locs _, s') =>
    if (s.badReply asid va.toNat b.length true).isSome then none
    else
      let s := s'.touch asid true (pagesOf va.toNat b.length)
      let s := s.putBytes (locs.zip b) by_
      some (if fill then s.fillLocs true locs by_ else s)
  | _ => none

/-- A 64-bit word written in an ASID. -/
def State.writeWordVa (s : State) (asid : Nat) (va w : Word) (fill : Bool := false) : Option State :=
  s.writeVa asid va (toBytes 8 w.toNat) fill

/-- Whether a page is mapped, sound and resident. -/
def State.pageResident (s : State) (asid : Nat) (page : Word) : Bool :=
  match s.walk asid page.toNat with
  | some (l, _) => leafOk l && resident l
  | none => false

end Sys2Proof.Machine
end

