-- ==== Sys2Proof/Machine/Records.lean ====
section
/-!
DEFINITION. What the device reports of accesses: the causes raised on a context (R352), corrected errors (R176, R345),
promotions asked for (R213) and fault records (R266, R267).
-/
namespace Sys2Proof.Machine

/-! ## Causes on a context (R349, R352) -/

/-- The TPEND bit of an asynchronous cause (R349). -/
def tpendBit (code : BitVec 8) : Nat :=
  match code.toNat with
  | 0x46 => 0 | 0x67 => 1 | 0x68 => 2 | 0x81 => 3 | 0x83 => 4 | 0xC0 => 5 | 0xC1 => 6 | _ => 7

/-- The asynchronous cause of a TPEND bit. -/
def tpendCode (n : Nat) : BitVec 8 :=
  match n with
  | 0 => 0x46 | 1 => 0x67 | 2 => 0x68 | 3 => 0x81 | 4 => 0x83 | 5 => 0xC0 | 6 => 0xC1 | _ => 0xD1

/-- An asynchronous cause raised on rank `r` of box `b` (R352). -/
def State.raiseAsync (s : State) (b r : Nat) (code : BitVec 8) : State :=
  s.updRank b r fun c => { c with trap := { c.trap with tpend := setBit c.trap.tpend (tpendBit code) true } }

/-- The cause of a negative reply (R219): PACKET_NACK for reasons 1 to 4, HBM_UE for 5. -/
def nackCause (reason : Nat) : BitVec 8 := if reason = 5 then 0xD1 else 0x46

/-- Corrected errors at the locations that a read takes: counted in RAS, and gone (R176, R345). -/
def State.correctIn (s : State) (die box unit : Nat) (read : Nat → Bool) : State :=
  match s.ces.filter read with
  | [] => s
  | l :: _ => ({ s with ces := s.ces.filter (!read ·) } : State).ras die 0xD3 box unit l

/-- Corrected errors among locations that are read. -/
def State.correctBy (s : State) (die box unit : Nat) (locs : List Nat) : State :=
  s.correctIn die box unit (locs.contains ·)

/-- Corrected errors in what tile `t` reads. -/
def State.correct (s : State) (t : Nat) (locs : List Nat) : State :=
  s.correctBy (tileDie t) (((s.tile t).box).getD 0xFFFF) (unitTile t) locs

/-! ## Fault records (R224, R225, R226, R262, R266, R267) -/

/-- The family of kinds within which a record suppresses another for its page: 1, 2 and 5; 3, 4, 6 and 7; 8 alone. -/
def recFamily (kind : Nat) : Nat := if kind = 1 || kind = 2 || kind = 5 then 0 else if kind = 8 then 2 else 1

/-- A page whose promotion the RSE of a die is asked for, after every request before it (R213). -/
def State.wantPage (s : State) (die asid : Nat) (page : Word) : State :=
  if s.want.contains (die, asid, page) then s else { s with want := s.want ++ [(die, asid, page)] }

/-- A queue of a pool: its minimum, its cap and its holding. -/
structure PoolQueue where
  qmin : Nat
  qcap : Nat
  held : Nat
  deriving DecidableEq, Repr

/-- Whether a queue may take one more entry: `size` entries in the pool, `others` the other queues (R254). -/
def mayTake (size : Nat) (q : PoolQueue) (others : List PoolQueue) : Bool :=
  let used := others.foldl (fun n o => n + o.held) q.held
  let owed := others.foldl (fun n o => n + (o.qmin - o.held)) 0
  decide (q.held < q.qmin) || (decide (q.held < q.qcap) && decide (used + owed < size))

/-- The indices of a vector's entries with the entries. -/
def indexed {α : Type} {n : Nat} (v : Vector α n) : List (Nat × α) := (rangeFrom 0 n).zip v.toList

/-- A fault ring as a queue of its die's pool (R254). -/
def FaultCore.queue (c : FaultCore) : PoolQueue := ⟨256, 1024, c.waiting.length⟩

/-- Whether the fault pool of a die gives core `k` an entry (R254, R269). -/
def Die.faultRoom (d : Die) (k : Nat) : Bool :=
  mayTake 1024 (vget ⟨0, 0, 0, 0, []⟩ d.cores k).queue
    ((indexed d.cores).filterMap fun p => if p.1 = k then none else some p.2.queue)

/-- A record put in the pool entries of its core (R266). -/
def Die.post (d : Die) (r : FaultRec) : Die :=
  { d with cores := vupd d.cores (r.asid.toNat % 4) fun c => { c with waiting := c.waiting ++ [r] } }

/-- The outstanding records of a box: those posted; a record that its unit still holds is none (R267, R269). -/
def State.outstanding (s : State) (b : Nat) : List FaultRec :=
  (s.box b).faults.filter fun r => !(s.die (boxDie b)).heldRecs.contains r

/-- A fault record of the context, unless one of its family is outstanding for the page (under kind 8, one of its chain) or
eight are outstanding; the RSE of the box's die is asked for the page, and a record that the pool has no entry for is held
by its unit (R213, R225, R267, R269). -/
def State.fault (s : State) (b kind unit eng chain : Nat) (page : Word) (cmd : BitVec 32) : State :=
  let x := s.box b
  let s := s.wantPage (boxDie b) x.asid.toNat page
  if x.faults.any (fun r => recFamily r.kind == recFamily kind && r.page == page && (kind != 8 || r.chain == chain))
      || 8 ≤ (s.outstanding b).length then s
  else
    let r : FaultRec := ⟨b, x.asid, kind, unit, eng, chain, page, cmd, s.timeWord, none⟩
    (s.updBox b fun x => { x with faults := x.faults ++ [r] }).updDie (boxDie b) fun d =>
      if d.faultRoom (x.asid.toNat % 4) then d.post r else { d with heldRecs := d.heldRecs ++ [r] }

/-- The held records of a die that its pool now has entries for, posted in turn (R269). -/
def State.postHeld (s : State) (die : Nat) : State :=
  (s.die die).heldRecs.foldl (fun s r =>
    if (s.die die).faultRoom (r.asid.toNat % 4) && decide ((s.outstanding r.box).length < 8) then
      s.updDie die fun d => { d.post r with heldRecs := d.heldRecs.erase r }
    else s) s

/-- Records of a box have ceased: the pieces and engine accesses that eight outstanding ones held may run again (R267). -/
def Box.retry (x : Box) : Box :=
  { x with chains := x.chains.map fun c =>
      { c with ninth := false, cmds := c.cmds.map fun m => { m with ninth := [] } } }

/-- A box without the records that `gone` picks. -/
def Box.dropFaults (x : Box) (gone : FaultRec → Bool) : Box :=
  if x.faults.any gone then ({ x with faults := x.faults.filter (!gone ·) } : Box).retry else x

/-- The pieces stopped on the pages of records that the box's eight outstanding ones kept from being posted run again, and
an engine's own access held by one is made again: their records, which `held` lists, are gone (R267). -/
def Box.dropHeld (x : Box) (held : List FaultRec) : Box :=
  { x with
    faults := x.faults.filter (!held.contains ·)
    chains := x.chains.map fun c =>
      { c with cmds := c.cmds.map fun m => { m with stopped := m.stopped.filter fun p => held.all (·.page != p.2) } } }

/-- Records of box `b` that `gone` picks cease to be outstanding. Where eight were, what waits to post another is tried
again: a held record of an engine is given up with its piece or access, which meets its fault anew; one of a tile is posted
once the pool has room (R267, R269). -/
def State.cease (s : State) (b : Nat) (gone : FaultRec → Bool) : State :=
  if !(s.box b).faults.any gone then s
  else
    let die := boxDie b
    let held := if 8 ≤ (s.outstanding b).length then
      (s.die die).heldRecs.filter fun r => r.box == b && recFamily r.kind != 0 else []
    let s := s.updBox b fun x => (x.dropFaults gone).dropHeld held
    (s.updDie die fun d => { d with heldRecs := d.heldRecs.filter fun r => !(r.box == b && gone r) && !held.contains r }).postHeld die

/-- Fault records of one kind, one for each page. -/
def State.faultPages (s : State) (b kind unit : Nat) : List Nat → State
  | [] => s
  | p :: r => (s.fault b kind unit 0 0 (BitVec.ofNat 64 p) 0).faultPages b kind unit r

/-- Records of kinds 1, 2 and 5 cease when an access or a fetch of the context finds their page resident (R267). -/
def State.ceasePages (s : State) (b : Nat) (pages : List Nat) : State :=
  s.cease b fun r => recFamily r.kind == 0 && pages.contains r.page.toNat

/-- The bytes of a fault record (R266). -/
def faultBytes (r : FaultRec) : List Byte :=
  toBytes 2 r.box ++ toBytes 2 r.asid.toNat ++ toBytes 1 r.kind ++ toBytes 1 r.unit ++ toBytes 1 r.eng
    ++ toBytes 1 r.chain ++ toBytes 8 r.page.toNat ++ toBytes 4 r.cmd.toNat ++ toBytes 4 0 ++ toBytes 8 r.time.toNat

/-- What a read that a unit, an engine or the front end has made does beside: corrected errors are counted and A is set
(R176, R208). -/
def State.didRead (s : State) (die box unit asid va n : Nat) : State :=
  match (s.reach asid va n false).1 with
  | .ok locs _ => (s.correctBy die box unit locs).touch asid false (pagesOf va n)
  | _ => s

/-- The negative reply that such an access gets, if it gets one, logged (R219). -/
def State.logReply (s : State) (die box unit asid va n : Nat) (w : Bool) : State :=
  match s.badReply asid va n w with
  | some (r + 1) => s.nackLog die box unit (r + 1)
  | _ => s

/-- Whether such an access waits (R219, R237). -/
def State.mustWait (s : State) (asid va n : Nat) (w : Bool) : Bool :=
  match (s.reach asid va n w).1 with
  | .ok locs _ => s.held locs
  | _ => false

/-- The page numbers' first addresses of an access. -/
def pageBases (va n : Nat) : List Nat := (pagesOf va n).map fun a => a / 65536 * 65536

end Sys2Proof.Machine
end

