-- ==== Sys2Proof/Machine/Clock.lean ====
section
/-!
DEFINITION. Clock ratios: requests and defaults (R320), the power model (R321), arbitration (R322, R323) and CLKPW (R341).
Powers are in milliwatts.
-/
namespace Sys2Proof.Machine

/-- A ratio code for each domain. -/
structure Ratios where
  x : Nat
  v : Nat
  n : Nat
  m : Nat
  deriving DecidableEq, Repr

/-- f(c) of R321, in hundredths. -/
def powerF (c : Nat) : Nat :=
  match c with
  | 0 => 10 | 1 => 18 | 2 => 27 | 3 => 38 | 4 => 50 | 5 => 64 | 6 => 80 | _ => 100

/-- A team's charge T(g), in mW (R321). -/
def teamPower (n : Nat) (g : Ratios) : Nat := n * (105 * powerF g.x + 30 * powerF g.v)
/-- A die's N domain at a code, in mW. -/
def nPower (c : Nat) : Nat := 875 * powerF c
/-- A die's M domain at a code, in mW. -/
def mPower (c : Nat) : Nat := 1875 * powerF c

/-- Forty times a team's charge with its part of N and M: 40 T + n (N + M) (R322, R341). -/
def teamShare (n : Nat) (g : Ratios) : Nat := 40 * teamPower n g + n * (nPower g.n + mPower g.m)

/-- Nibble `k` of a request or default: the code when bit 3 is set. -/
def nibble (w : BitVec 16) (k : Nat) : Option Nat :=
  if w.getLsbD (4 * k + 3) then some (bits w (4 * k) 3).toNat else none

/-- The request of one domain of a team: CLKRQ of rank 0, else the defaults up the region chain, else code 5 (R320). -/
def State.request (s : State) (b k : Nat) : Nat :=
  match nibble (s.rankCtx b 0).clkrq k with
  | some c => c
  | none => ((s.chainOf (boxDie b) (s.box b).rcb).findSome? fun r => nibble r.clock k).getD 5

/-- A team at arbitration: box, tiles, request, and its region's share as a fraction of 620 W (R321). -/
structure Team where
  box : Nat
  n : Nat
  r : Ratios
  rcb : Word
  budget : Nat
  period : Nat
  deriving DecidableEq, Repr

/-- Insertion in order of priority, highest first, then of start (R322). -/
def insertTeam (lt : Nat → Nat → Bool) : List Nat → Nat → List Nat
  | [], b => [b]
  | a :: l, b => if lt b a then b :: a :: l else a :: insertTeam lt l b

/-- The running teams of a die in the order of R322. -/
def State.teams (s : State) (die : Nat) : List Nat :=
  let run := (s.boxes.filter fun p => p.2.state == .running && boxDie p.1 == die).map (·.1)
  let lt := fun a b =>
    let x := s.box a
    let y := s.box b
    decide (y.prio.toNat < x.prio.toNat) || (x.prio == y.prio && decide (x.startSeq < y.startSeq))
  run.foldl (insertTeam lt) []

/-- A running box as a team. -/
def State.team (s : State) (b : Nat) : Team :=
  let x := s.box b
  ⟨b, x.tiles.length, ⟨s.request b 0, s.request b 1, s.request b 2, s.request b 3⟩, x.rcb, s.effBudget (boxDie b) x.rcb,
   s.rootPeriod (boxDie b) x.rcb⟩

/-- The candidates at distance `d` below a request, greater g_X first, then g_M, g_V, g_N (R322). -/
def candidates (r : Ratios) (d : Nat) : List Ratios :=
  (rangeFrom 0 (min d r.x + 1)).flatMap fun dx =>
    (rangeFrom 0 (min (d - dx) r.m + 1)).flatMap fun dm =>
      (rangeFrom 0 (min (d - dx - dm) r.v + 1)).filterMap fun dv =>
        let dn := d - dx - dm - dv
        if dn ≤ r.n then some ⟨r.x - dx, r.v - dv, r.n - dn, r.m - dm⟩ else none

/-- Whether a set of ratios is admissible for team `t`, after the granted teams and before the later ones (R322). -/
def admissible (granted : List (Team × Ratios)) (later : List Team) (t : Team) (g : Ratios) : Bool :=
  let fixed := granted.foldl (fun a p => a + teamPower p.1.n p.2) 0
  let rest := later.foldl (fun a u => a + teamPower u.n ⟨0, 0, 0, 0⟩) 0
  let n := granted.foldl (fun a p => max a p.2.n) g.n
  let m := granted.foldl (fun a p => max a p.2.m) g.m
  let mine := granted.foldl (fun a p => if p.1.rcb == t.rcb then a + teamShare p.1.n p.2 else a) (teamShare t.n g)
  decide (fixed + teamPower t.n g + rest + nPower n + mPower m ≤ 620000)
    && (g == ⟨0, 0, 0, 0⟩
        || (decide (mine ≤ 620000 * 40) && decide (mine * (40 * t.period) ≤ 620000 * 40 * t.budget)))

/-- The grant of one team: the admissible set nearest its request (R322). -/
def grantOf (granted : List (Team × Ratios)) (later : List Team) (t : Team) : Ratios :=
  ((rangeFrom 0 29).findSome? fun d => (candidates t.r d).find? (admissible granted later t)).getD ⟨0, 0, 0, 0⟩

/-- The grants of the teams of a die in turn (R322). -/
def grantAll : List (Team × Ratios) → List Team → List (Team × Ratios)
  | acc, [] => acc
  | acc, t :: ts => grantAll (acc ++ [(t, grantOf acc ts t)]) ts

/-- A grant as CLKGR shows it (R108). -/
def grantWord (g : Ratios) : BitVec 16 := BitVec.ofNat 16 (0x8888 + g.x + 16 * g.v + 256 * g.n + 4096 * g.m)

/-- The ratios that a grant word holds. -/
def grantRatios (w : BitVec 16) : Ratios := ⟨(bits w 0 3).toNat, (bits w 4 3).toNat, (bits w 8 3).toNat, (bits w 12 3).toNat⟩

/-- The grants that R322 gives the running teams of a die. -/
def State.arbitrate (s : State) (die : Nat) : List (Nat × BitVec 16) :=
  (grantAll [] ((s.teams die).map s.team)).map fun p => (p.1.box, grantWord p.2)

/-- R322 run again for a die: the changed grants wait to take effect (R323); one that met a save stays (R30). -/
def State.rearbitrate (s : State) (die : Nat) : State :=
  let gs := (s.arbitrate die).filter fun p => (s.box p.1).grant != p.2
  s.updDie die fun d => { d with grants := gs ++ d.grants.filter fun p => (s.box p.1).state != .running }

/-- A grant taken by a team: CLKGR of each of its tiles (R319, R323). -/
def State.takeGrant (s : State) (b : Nat) (g : BitVec 16) : State :=
  let s := s.updBox b fun x => { x with grant := g }
  if (s.box b).state = .running then
    (s.box b).tiles.foldl (fun s t => s.updTile t fun x => { x with clkgr := g }) s
  else s

/-- One changed grant takes effect: CLKGR, and the CLOCK event of the context (R290, R323). -/
def State.changeGrant (s : State) (g : Nat × BitVec 16) : State :=
  if (s.box g.1).grant = g.2 then s else (s.takeGrant g.1 g.2).setEvent g.1 1

/-- Every grant that waits on a die takes effect (R323). -/
def State.applyGrants (s : State) (die : Nat) : State :=
  (s.die die).grants.foldl (fun s g => s.changeGrant g) (s.updDie die fun y => { y with grants := [] })

/-- The grant of a team that starts: one that changed during its save is applied with its event first; then R322 runs, the
grants of the other teams take effect with the new one, so that the lowerings come no later, and the team's own is no
change (R30, R323). -/
def State.startGrant (s : State) (b : Nat) : State :=
  let d := boxDie b
  let own := fun (l : List (Nat × BitVec 16)) => l.find? (·.1 == b)
  let rest := fun (s : State) => s.updDie d fun y => { y with grants := y.grants.filter (·.1 != b) }
  let s := match own (s.die d).grants with
    | some g => (rest s).changeGrant g
    | none => s
  let s := s.rearbitrate d
  let g := ((own (s.die d).grants).map (·.2)).getD (s.box b).grant
  ((rest s).applyGrants d).takeGrant b g

/-- CLKPW of a team: its charge in tenths of a watt; where that is no whole number, either neighbour, by a free choice
(R341; notes/assumptions/9.md). -/
def State.clkpw (s : State) (b : Nat) : BitVec 16 :=
  let x := s.box b
  let p := teamShare x.tiles.length (grantRatios x.grant)
  BitVec.ofNat 16 (p / 4000 + (if p % 4000 = 0 then 0 else Config.freeBits s.fresh % 2))

end Sys2Proof.Machine
end

