-- ==== Sys2Proof/Machine/Regs.lean ====
section
/-!
DEFINITION. Scalar registers: rotation, the write of R99 and its landing, poison and its checkpoint, and the landing of
interlocked values and of engine words (R97 to R107, R134, R161, R228).
-/
namespace Sys2Proof.Machine

/-! ## Reading and writing scalar registers -/

/-- The register that a name stands for: s0 to s15, or the rotating register chosen by RRB (R97). -/
def regIdx (rrb : BitVec 4) (r : Reg) : Nat :=
  if r.toNat < 16 then r.toNat else 16 + (r.toNat - 16 + rrb.toNat) % 16

/-- The register that the name `r` stands for in context `c`. -/
abbrev CRegs.idx (c : CRegs) (r : Reg) : Nat := regIdx c.rrb r

/-- The value of a register by its number. -/
def CRegs.get (c : CRegs) (i : Nat) : Word := vget 0 c.s i

/-- The value of s[r] as visible now (R99). -/
def CRegs.read (c : CRegs) (r : Reg) : Word := c.get (c.idx r)

/-- POISON of s[r] (R103). -/
def CRegs.psn (c : CRegs) (r : Reg) : Bool := c.poison.getLsbD (c.idx r)

/-- Poison is live (R103). -/
def CRegs.live (c : CRegs) : Bool := c.poison != 0 || c.pend.any (·.psn)

/-- A value placed in register `i` with its poison; register 0 takes nothing (R96). -/
def CRegs.set (c : CRegs) (i : Nat) (v : Word) (p : Bool) : CRegs :=
  if i = 0 then c else { c with s := vput c.s i v, poison := setBit c.poison i p }

/-- Clean values placed in registers by number, in order. -/
def CRegs.sets (c : CRegs) : List (Nat × Word) → CRegs
  | [] => c
  | (i, v) :: l => (c.set i v false).sets l

/-- The write of R99: register `d` by name, value, poison, visible from beat `vis`; s0 drops it. -/
def CRegs.wr (c : CRegs) (d : Reg) (v : Word) (p : Bool) (vis : Nat) : CRegs :=
  if d = 0 then c else { c with pend := c.pend ++ [⟨c.idx d, v, p, vis⟩] }

/-- A pending write put before the first one that becomes visible later: the order of landing (R100). -/
def insertPend (l : List PendWrite) (w : PendWrite) : List PendWrite :=
  match l with
  | [] => [w]
  | a :: r => if w.vis < a.vis then w :: a :: r else a :: insertPend r w

/-- The writes that are visible at beat `b` landed: by beat, at one beat in issue order (R100). -/
def CRegs.landBy (c : CRegs) (b : Nat) : CRegs :=
  let due := (c.pend.filter (·.vis ≤ b)).foldl insertPend []
  due.foldl (fun c w => c.set w.reg w.value w.psn) { c with pend := c.pend.filter (b < ·.vis) }

/-- The checkpoint is discarded once poison is not live (R107). -/
def Ctx.release (c : Ctx) : Ctx := if c.ckpt.isSome && !c.c.live then { c with ckpt := none } else c

/-- The pending writes of a context that are visible at beat `b` landed (R99, R107). -/
def Ctx.landBy (c : Ctx) (b : Nat) : Ctx := ({ c with c := c.c.landBy b }).release

/-- The pending writes of tile `t` that its beat makes visible (R99). -/
def State.landPending (s : State) (t : Nat) : State := s.updTile t fun x => { x with ctx := x.ctx.landBy x.beat }

/-- A register with an interlocked value on its way (R99). -/
def Ctx.awaits (c : Ctx) (r : Reg) : Bool := c.loads.any fun f => f.writes.any (·.1 == c.c.idx r)

/-- Any of the registers that a word reads is awaited. -/
def Ctx.waits (c : Ctx) (rs : List Reg) : Bool := rs.any fun r => r != 0 && c.awaits r

/-! ## Counters (R270, R271) -/

/-- The load counter changed by an issue (+1) or a completion. -/
def Ctx.incL (c : Ctx) : Ctx := { c with oc := { c.oc with ocl := c.oc.ocl + 1 } }
def Ctx.decL (c : Ctx) (n : Nat := 1) : Ctx := { c with oc := { c.oc with ocl := c.oc.ocl - BitVec.ofNat 32 n } }
def Ctx.incS (c : Ctx) : Ctx := { c with oc := { c.oc with ocs := c.oc.ocs + 1 } }
def Ctx.decS (c : Ctx) (n : Nat := 1) : Ctx := { c with oc := { c.oc with ocs := c.oc.ocs - BitVec.ofNat 32 n } }
def Ctx.incC (c : Ctx) (n : Nat := 1) : Ctx := { c with oc := { c.oc with occ := c.oc.occ + BitVec.ofNat 32 n } }
def Ctx.decC (c : Ctx) : Ctx := { c with oc := { c.oc with occ := c.oc.occ - 1 } }
def Ctx.incT (c : Ctx) : Ctx := { c with oc := { c.oc with oct := c.oc.oct + 1 } }
def Ctx.decT (c : Ctx) (n : Nat := 1) : Ctx := { c with oc := { c.oc with oct := c.oc.oct - BitVec.ofNat 32 n } }

/-- Flags placed in SFLAGS, and noted as set at the present beat (R82, R279). -/
def Ctx.flag (c : Ctx) (f : BitVec 5) : Ctx := { c with sflags := c.sflags ||| f, flagNew := c.flagNew ||| f }

/-! ## Landing -/

/-- An interlocked value written to its registers, and to the checkpoint's copies when its word issued before the
poisoning load (R105, R228). A negative reply writes nothing (R219). -/
def Ctx.landFly (c : Ctx) (f : Fly) : Ctx :=
  let w := if f.nack.isSome then [] else f.writes
  let c := if f.counted then c.decL else c
  let c := { c with c := c.c.sets w }
  let c := match c.ckpt with
    | some k => if f.old then { c with ckpt := some { k with regs := k.regs.sets w } } else c
    | none => c
  c.release

/-- A tile's request got a negative reply: it is logged, and its cause is raised on the rank that made it (R219). -/
def State.nacked (s : State) (t b r : Nat) (n : Nat × Nat) : State :=
  (s.nackLog (tileDie t) b (unitTile t) n.1).raiseAsync b r (nackCause n.1)

/-- The interlocked operation at position `i` of tile `t` landed. A negative reply raises its cause, and the operation
stays to hold the readers of its registers until the cause is taken (R219). -/
def State.landLoad (s : State) (t i : Nat) : State :=
  let x := s.tile t
  match x.ctx.loads[i]? with
  | none => s
  | some f =>
    if f.raised then s
    else match f.nack, x.box with
      | some n, some b =>
        (s.updCtx t fun c =>
          let c := if f.counted then c.decL else c
          { c with loads := updAt (fun g => { g with raised := true }) c.loads i }).nacked t b x.rank n
      | _, _ => s.updCtx t fun c => ({ c with loads := c.loads.eraseIdx i }).landFly f

/-- The first `n` of the interlocked operations in flight landed, the oldest first (R231: before a boundary). -/
def State.landLoads (s : State) (t : Nat) : Nat → State
  | 0 => s
  | n + 1 => (s.landLoad t ((s.ctx t).loads.findIdx fun f => !f.raised)).landLoads t n

/-- The operations whose cause `code` is taken hold no reader any more, and the words that it held may be read again (R12,
R219). -/
def Ctx.dropRaised (c : Ctx) (code : BitVec 8) : Ctx :=
  { c with
    loads := c.loads.filter fun f => !(f.raised && f.nack.any fun n => nackCause n.1 == code)
    refused := c.refused.map fun y => y.filter (·.2 != code) }

/-- The V word at position `i` landed: its flags and its counts (R134, R239, R279). -/
def Ctx.landVAt (c : Ctx) (i : Nat) : Ctx :=
  match c.vec.fly[i]? with
  | none => c
  | some f =>
    ((({ c with vec := { c.vec with fly := c.vec.fly.eraseIdx i } }).decL f.loads).decS f.stores).flag f.flags

/-- The oldest V word landed. -/
def Ctx.landV (c : Ctx) : Ctx := c.landVAt 0

/-- Every V result may be read: its producer has landed (R134, R135). -/
def VState.allReady (v : VState) : VState :=
  { v with
    q := v.q.map fun l => l.map fun e => { e with ready := 0 }
    byp := v.byp.map fun b => b.map fun b => { b with entry := { b.entry with ready := 0 } }
    mReady := Vector.replicate 8 0, cqReady := Vector.replicate 2 0 }

/-- An S word completed (R161, R279). -/
def Ctx.landS (c : Ctx) : Ctx :=
  match c.spe.fly with
  | [] => c
  | f :: r => (({ c with spe := { c.spe with fly := r } }).decT).flag f.flags

/-- An X transfer completed (R191, R279). -/
def Ctx.landX (c : Ctx) : Ctx :=
  match c.mat.fly with
  | [] => c
  | f :: r => (({ c with mat := { c.mat with fly := r } }).decT).flag f.flags

/-- `n` applications. -/
def iter {α : Type} (f : α → α) : Nat → α → α
  | 0, a => a
  | n + 1, a => iter f n (f a)

/-- Every word of the three engines issued before a boundary landed (R135, R161, R191). -/
def Ctx.landEngines (c : Ctx) : Ctx :=
  let c := { c with vec := c.vec.allReady, spe := { c.spe with ready := [] } }
  iter Ctx.landX c.mat.fly.length (iter Ctx.landS c.spe.fly.length (iter Ctx.landV c.vec.fly.length c))

/-- The V, S and X words before the boundary of tile `t` landed (R135, R161, R191). -/
def State.landEngines (s : State) (t : Nat) : State := s.updCtx t Ctx.landEngines

/-- What a boundary lands that is taken for a save: the engines' words and the loads in flight (R135, R231). -/
def State.landAll (s : State) (t : Nat) : State := (s.landLoads t (s.ctx t).loads.length).landEngines t

/-! ## Vector clocks (R236) -/

/-- Die `a` sends a write to another die: its own entry counts it (notes/assumptions/16.md). -/
def State.sendStamp (s : State) (a : Nat) : State := s.updDie a fun x => { x with vclock := vupd x.vclock a (· + 1) }

/-- The later of two entries modulo 2^32 (R236). -/
def laterEntry (x y : BitVec 32) : BitVec 32 := if (y - x).toNat < 2 ^ 31 then y else x

/-- Die `d` has performed a write with this stamp: it knows every write that the stamp names (notes/assumptions/16.md). -/
def State.mergeStamp (s : State) (d : Nat) (stamp : Vector (BitVec 32) 4) : State :=
  s.updDie d fun x => { x with vclock := Vector.ofFn fun k => laterEntry x.vclock[k] stamp[k] }

/-! ## What peers see (R387) -/

/-- The noted writes that a release at FABRIC leaves unseen, each with whether the release covers it: one that comes before
a covered write of its location is seen with it. -/
def stillUnseen : List (Unseen × Bool) → List Unseen
  | [] => []
  | (u, r) :: l => if r || l.any (fun p => p.2 && p.1.loc == u.loc) then stillUnseen l else u :: stillUnseen l

/-- Which noted writes a release at FABRIC covers: those of the ranks that `sure` names; which others come before it in hb
is not kept, and each is covered or not by a free choice (R234, R242; DESIGN CHOICE, notes/assumptions/81.md). -/
def coverUnseen (sure : Nat → Nat → Bool) : List Unseen → State → List (Unseen × Bool) × State
  | [], s => ([], s)
  | u :: l, s =>
    let (n, z) := s.draw
    let own := u.by_.any fun p => sure p.1 p.2
    let (r, z) := coverUnseen sure l (if own then s else z)
    ((u, own || n % 2 == 1) :: r, z)

/-- A release at FABRIC (R242, R245, R368, R387). -/
def State.releaseFabric (s : State) (sure : Nat → Nat → Bool) : State :=
  let (l, s) := coverUnseen sure s.unseen s
  { s with unseen := stillUnseen l }

/-- The writes noted since state `s0` are the context rank's. -/
def State.signWrites (s s0 : State) (b r : Nat) : State :=
  let n := s0.unseen.length
  { s with unseen := s.unseen.take n ++ (s.unseen.drop n).map fun u => { u with by_ := some (b, r) } }

/-- Every write to some locations seen by peers: what stands there came from a peer, or was performed at FABRIC. -/
def State.shown (s : State) (locs : List Nat) : State := { s with unseen := s.unseen.filter (!locs.contains ·.loc) }

/-- The byte that a peer sees at a location: as it stood before the first write that it does not see (R387). -/
def State.peerByte (s : State) (l : Nat) : Byte := ((s.unseen.find? (·.loc == l)).map (·.old)).getD (s.mem.read l)

/-! ## Stores in flight (R229, R236, R239) -/

/-- A store of tile `t` applied: its bytes at their home, full bits, the receiving die's clock, and the counter; one that
gets a negative reply writes nothing. To a stack in forced self-refresh it stays outstanding (R177, R219, R236, R239). -/
def State.applyStore (s : State) (t : Nat) (p : PendStore) : State :=
  let held := s.srHeld p.locs
  let s := match p.nack with
    | some n => if held then s else s.nacked t p.box p.rank n
    | none =>
      let s := (p.bytes.foldl (fun s q => s.putEarly t q.1 q.2) s).signWrites s p.box p.rank
      if p.nf then s else s.fillEarly t (p.bytes.map Prod.fst)
  if held then s
  else (p.cross.foldl (fun s d => s.mergeStamp d p.stamp) s).updRank p.box p.rank fun c => c.decS

/-- What stays of a store once it is applied: all that its stack, in forced self-refresh, has not answered (R219). -/
def State.leftOf (s : State) (p : PendStore) : Option PendStore :=
  if s.srHeld p.locs then some (if p.nack.isSome then p else { p with bytes := [] }) else none

/-- Whether store `q` of tile `u` is a write to one of the dies `homes` that the clock `v` names. -/
def namedBy (v : Vector (BitVec 32) 4) (homes : List Nat) (u : Nat) (q : PendStore) : Bool :=
  q.cross.any homes.contains && decide ((vget 0 v (tileDie u) - vget 0 q.stamp (tileDie u)).toNat < 2 ^ 31)

/-- How many stores of a list, from the oldest, go up to the last one that `f` picks. -/
def throughLast (f : PendStore → Bool) : List PendStore → Nat
  | [] => 0
  | p :: r =>
    let n := throughLast f r
    if 0 < n then n + 1 else if f p then 1 else 0

/-- The store at position `k` of tile `t`'s order applied, if there is one, after every store that `named` performs for it;
and the position of the next one. -/
def State.performAt (s : State) (t k : Nat) (named : State → PendStore → State) : State × Nat :=
  match (s.tile t).stores[k]? with
  | none => (s, k)
  | some p =>
    let z := if p.cross.isEmpty then s else named s p
    let left := (s.leftOf p).toList
    ((z.updTile t fun x => { x with stores := x.stores.take k ++ left ++ x.stores.drop (k + 1) }).applyStore t p,
      k + left.length)

/-- The first `n` stores of tile `t` applied, oldest first; before one that crosses dies, the stores of other tiles to its
homes that its stamp names, with those before them (R236), `depth` such stores deep at most. -/
def State.performDeep : Nat → State → Nat → Nat → State
  | 0, s, _, _ => s
  | depth + 1, s, t, n =>
    let named := fun (s : State) (p : PendStore) =>
      (rangeFrom 0 160).foldl (fun z u =>
        if u = t then z else State.performDeep depth z u (throughLast (namedBy p.stamp p.cross u) (z.tile u).stores)) s
    ((rangeFrom 0 n).foldl (fun (a : State × Nat) _ => a.1.performAt t a.2 named) (s, 0)).1

/-- The first `n` stores of tile `t` applied, oldest first: as deep as there may be stores in flight (R271). -/
def State.performFirst (s : State) (t n : Nat) : State := State.performDeep (2 ^ 28) s t n

/-- The oldest store of tile `t` performed. -/
def State.performStore (s : State) (t : Nat) : State := s.performFirst t 1

/-- Every store of tile `t` performed, oldest first. -/
def State.performAll (s : State) (t : Nat) : State := s.performFirst t (s.tile t).stores.length

/-- The stores of tile `t` up to the last one that `f` picks performed, oldest first. -/
def State.performThrough (s : State) (t : Nat) (f : PendStore → Bool) : State :=
  s.performFirst t (throughLast f (s.tile t).stores)

/-- The stores of every tile up to the last one that `f` picks performed. -/
def State.performEvery (s : State) (f : PendStore → Bool) : State :=
  (rangeFrom 0 160).foldl (fun s t => if (s.tile t).stores.any f then s.performThrough t f else s) s

/-- What comes before a write from die `a` that is performed at once at `home`, where that is another die: every write that
its stamp names is performed there, and the clocks take it in (R236; notes/assumptions/16.md). -/
def State.crossWrite (s : State) (a : Nat) (home : Option Nat) : State :=
  let z := (rangeFrom 0 160).foldl (fun z t =>
    if (z.tile t).stores.any (namedBy (s.die a).vclock home.toList t) then
      z.performThrough t (namedBy (s.die a).vclock home.toList t)
    else z) s
  { z with dies := match home with
      | none => z.dies
      | some d => ((z.sendStamp a).mergeStamp d ((z.sendStamp a).die a).vclock).dies }

/-- The stores that R238 orders before the member words of tile `t`'s present beat performed: those issued at least 16
counted beats ago. -/
def State.settle (s : State) (t : Nat) : State :=
  let x := s.tile t
  if x.ctx.lockstep then s.performThrough t fun p => p.counted.any fun c => decide (c + 16 ≤ x.cnt) else s

/-- A store of the context rank on tile `t`. -/
def Tile.mine (x : Tile) (p : PendStore) : Bool := x.box == some p.box && p.rank == x.rank

/-- A byte as the C stream of tile `t` reads it: its own latest store to the byte, else memory (R234, R235). -/
def State.ownByte (s : State) (t : Nat) (l : Nat) : Byte :=
  let x := s.tile t
  (x.stores.filter x.mine).foldl (fun b p => p.bytes.foldl (fun b q => if q.1 = l then q.2 else b) b) (s.seen l)

end Sys2Proof.Machine
end

