-- ==== Sys2Proof/Machine/Fetch.lean ====
section
/-!
DEFINITION. Streams: their clocks and positions (R33 to R37), and the fetch of a word (R35, R51 check 1, R224, R359).
-/
namespace Sys2Proof.Machine

/-- An engine stream of a context; C has none. -/
def Ctx.strm (c : Ctx) : Strm → Stream
  | .c => Stream.reset
  | .v => c.v
  | .x => c.x
  | .s => c.s

/-- An engine stream changed. -/
def Ctx.updStrm (c : Ctx) (e : Strm) (f : Stream → Stream) : Ctx :=
  match e with
  | .c => c
  | .v => { c with v := f c.v }
  | .x => { c with x := f c.x }
  | .s => { c with s := f c.s }

/-- The word index of a stream's next word (R35, R36). -/
def Ctx.pcOf (c : Ctx) (e : Strm) : Nat :=
  match e with
  | .c => c.mpc
  | e => (c.strm e).mpc

/-- Whether the stream's next word has got a negative reply whose cause is not taken yet: it is not read again (R12). -/
def Ctx.isRefused (c : Ctx) (e : Strm) : Bool := (vget none c.refused e.num).any (·.1 == c.pcOf e)

/-- When a stream's next word may issue. -/
def Ctx.dueOf (c : Ctx) (e : Strm) : Due :=
  match e with
  | .c => c.due
  | e => (c.strm e).due

/-- A stream's next word and when it may issue. -/
def Ctx.setPc (c : Ctx) (e : Strm) (pc : Nat) (d : Due) : Ctx :=
  match e with
  | .c => { c with mpc := pc, due := d }
  | e => c.updStrm e fun x => { x with mpc := pc, due := d }

/-- A stream that issues: C until it has ended in its region or its launch, an engine stream while it runs and no
handler is active (R35, R41, R52, R288). -/
def Ctx.active (c : Ctx) (e : Strm) : Bool :=
  match e with
  | .c => !c.done && (!c.cEnded || c.trap.act)
  | e => (c.strm e).running && !c.trap.act && !c.done

/-- A member of the open lockstep region, on its counted beats (R37); C leaves the count while its handler runs (R52). -/
def Ctx.member (c : Ctx) (e : Strm) : Bool :=
  c.lockstep && match e with
    | .c => !c.trap.act
    | .v => c.memV
    | .x => c.memX
    | .s => c.memS

/-- The beat on the stream's own clock: counted beats for a member, tile beats otherwise (R33, R37). -/
def Tile.clock (x : Tile) (e : Strm) : Nat := if x.ctx.member e then x.cnt else x.beat

/-- Beats still to pass before a word with this IDLE may issue (R36). -/
def Due.remaining (d : Due) (clk idle : Nat) : Nat :=
  match d with
  | .after p => p + 1 + idle - clk
  | .atBeat b => b - clk
  | .left r => r

/-- What the fetch of a word meets. -/
inductive Fetched where
  /-- The index lies at or beyond the section's length (R51 check 1). -/
  | outside
  /-- A translation failure at this address: FETCH_FAULT (R359). -/
  | failed (va : Word)
  /-- The page is not resident (R224). -/
  | absent (page : Nat)
  /-- An uncorrectable error: IFETCH_UE (R359). -/
  | error (va : Word)
  /-- A negative reply with reason 0x03 through a window: PACKET_NACK (R219, R382, R383). -/
  | nack
  | word (w : Word)
  deriving DecidableEq, Repr

/-- The address of word `idx` of stream `e` on tile `t` (R35). -/
def State.fetchVa (s : State) (t : Nat) (e : Strm) (idx : Nat) : Word :=
  (vget ⟨0, 0⟩ (s.tile t).sect (Strm.num e)).base + BitVec.ofNat 64 (8 * idx)

/-- The ASID of the context on tile `t`. -/
def State.asidOf (s : State) (t : Nat) : Nat :=
  match (s.tile t).box with
  | some b => (s.box b).asid.toNat
  | none => 0

/-- The fetch of word `idx` of stream `e` on tile `t`, within its section or beyond it (R53, R224, R359). -/
def State.fetchAny (s : State) (t : Nat) (e : Strm) (idx : Nat) : Fetched :=
  let va := s.fetchVa t e idx
  if bits va 57 7 != 0 then .failed va
  else match (s.leaf (s.asidOf t) va.toNat).1 with
    | none => .failed va
    | some l =>
      if !leafOk l || !lfX l then .failed va
      else if !resident l then .absent (va.toNat / 65536 * 65536)
      else match s.byteLoc l va.toNat with
        | none => .nack
        | some x =>
          let locs := rangeFrom x 8
          if s.anyUe locs then .error va
          else if (s.reply va.toNat locs true).isSome then .nack
          else .word (BitVec.ofNat 64 (ofBytes (s.getBytes locs)))

/-- The fetch of word `idx` of stream `e` on tile `t` (R51 check 1). -/
def State.fetch (s : State) (t : Nat) (e : Strm) (idx : Nat) : Fetched :=
  if (vget ⟨0, 0⟩ (s.tile t).sect (Strm.num e)).words ≤ idx then .outside else s.fetchAny t e idx

/-- The location of the word at index `idx` of stream `e`, which its fetch reads. -/
def State.fetchLocs (s : State) (t : Nat) (e : Strm) (idx : Nat) : List Nat :=
  let va := (s.fetchVa t e idx).toNat
  match ((s.leaf (s.asidOf t) va).1).bind fun l => s.byteLoc l va with
  | some x => rangeFrom x 8
  | none => []

/-- The IDLE of a stream's next word; 0 where the word has none that can be read (R359). Where the word lies on a page that
is not resident the spec names no remaining idle count for a save, a park or a trap: 0 (DESIGN CHOICE,
notes/assumptions/58.md). -/
def State.nextIdle (s : State) (t : Nat) (e : Strm) : Nat :=
  match s.fetch t e ((s.ctx t).pcOf e) with
  | .word w => wordIdle w
  | _ => 0

/-- The remaining idle count of stream `e` on tile `t` (R36). -/
def State.remIdle (s : State) (t : Nat) (e : Strm) : Nat :=
  ((s.ctx t).dueOf e).remaining ((s.tile t).clock e) (s.nextIdle t e)

/-- The stream's word is due at the present beat of its clock (R33, R37). -/
def State.due (s : State) (t : Nat) (e : Strm) : Bool := s.remIdle t e == 0

/-- The close of R43 after the word at index `x` of an engine stream: the levels left, innermost first, and where the
stream goes on, if a level ended there. -/
def closeLevels (x : Nat) : List Level → List Level × Option Nat
  | [] => ([], none)
  | l :: ls =>
    if l.fin != x then (l :: ls, none)
    else if 1 < l.left then ({ l with left := l.left - 1, it := l.it + 1 } :: ls, some l.beg)
    else match closeLevels x ls with
      | (ls, some n) => (ls, some n)
      | (ls, none) => (ls, some (l.fin + 1))

/-- The back-edge of R118 after the word at index `x`, from level `n - 1` down: loop state and next word. -/
def backEdge (x : Nat) : Nat → CRegs → CRegs × Option Nat
  | 0, c => (c, none)
  | n + 1, c =>
    if c.lpact.getLsbD n && (vget 0 c.lpend n).toNat == x then
      if 1 < (vget 0 c.lpcnt n).toNat then
        ({ c with lpcnt := vupd c.lpcnt n (· - 1) }, some (vget 0 c.lpbeg n).toNat)
      else
        let c := { c with lpcnt := vput c.lpcnt n 0, lpact := setBit c.lpact n false }
        match backEdge x n c with
        | (c, some k) => (c, some k)
        | (c, none) => (c, some (x + 1))
    else backEdge x n c

/-- A stream moved past index `x` as after the issue of its word: the next word is `next`, or where a repeat close or a
back-edge leads (R43, R118). -/
def Ctx.passAt (c : Ctx) (e : Strm) (x next : Nat) (d : Due) : Ctx :=
  match e with
  | .c =>
    let (r, k) := backEdge x 3 c.c
    { c with c := r, mpc := k.getD next, due := d }
  | e =>
    let (ls, k) := closeLevels x (c.strm e).levels
    c.updStrm e fun y => { y with levels := ls, mpc := k.getD next, due := d }

end Sys2Proof.Machine
end

