-- ==== Sys2Proof/Machine/Beat.lean ====
section
/-!
DEFINITION. The beat of a tile: which streams can issue at it, whether it counts in the open lockstep region, and its end
(R4, R33, R37, R113, R163, R237, R238, R274).
-/
namespace Sys2Proof.Machine

/-- A stall of the open region at the present beat of tile `t` by one of its members: a word that stalled, the redirect
stall of C on the beats after its branch, or S's word due while its engine is busy (R37, R113, R163). -/
def State.blocked (s : State) (t : Nat) : Bool :=
  let x := s.tile t
  x.stalled
    || (!x.ctx.trap.act && !x.ctx.cEnded && decide (x.beat < x.holdC) && !x.issued.getLsbD Strm.c.num)
    || (x.ctx.memS && x.ctx.s.running && decide (x.beat < x.holdS) && s.due t .s)

/-- Whether the next word of stream `e` may issue at the present beat of tile `t`: a word that has issued or stalled at
the beat is tried no more at it (R33, R37). -/
def State.canIssue (s : State) (t : Nat) (e : Strm) : Bool :=
  let x := s.tile t
  x.box.isSome && !x.gated && x.ctx.active e && !x.issued.getLsbD e.num
    && !(vget none x.since e.num).any (·.seen == x.beat) && decide (x.holdAll ≤ x.beat)
    && (e != .c || decide (x.holdC ≤ x.beat)) && (e != .s || decide (x.holdS ≤ x.beat))
    && (!x.ctx.member e || !s.blocked t) && s.due t e

/-- Whether the counted beat of tile `t`'s region advances with its beat: no member stalls at it, and none of their words
is due and unissued, as where a save ends the beat early (R37). -/
def State.counts (s : State) (t : Nat) : Bool :=
  let x := s.tile t
  x.ctx.lockstep && !x.ctx.trap.act && !s.blocked t && decide (x.holdAll ≤ x.beat)
    && [Strm.c, .v, .x, .s].all fun e => !(x.ctx.member e && s.canIssue t e)

/-- The counters of tile `t`'s context noted for the WAITCs of its present beat (R274). -/
def State.noteCounters (s : State) (t : Nat) : State := s.updTile t fun x => { x with oc0 := x.ctx.oc }

/-- The end of tile `t`'s beat: the next one begins, the writes that it makes visible land, and the stores that R238 puts
before its words are performed (R4, R37, R99, R237, R238). -/
def State.endBeat (s : State) (t : Nat) : State :=
  let n := s.counts t
  (((s.updTile t fun x =>
      { x with
        beat := x.beat + 1, cnt := if n then x.cnt + 1 else x.cnt, stalled := false, issued := 0, start := none
        order := 0, newEvents := 0, ctx := { x.ctx with flagNew := 0 } }).landPending t).settle t).noteCounters t

/-- The beat of tile `t` ended where one of its words has issued: the boundary after that word (R22, R27). -/
def State.closeBeat (s : State) (t : Nat) : State := if (s.tile t).issued = 0 then s else s.endBeat t

end Sys2Proof.Machine
end

