-- ==== Sys2Proof/Machine/Save.lean ====
section
/-!
DEFINITION. Leaving and taking tiles: the save at a boundary (R22, R27, R101, R135), entry into READY (R286, R287), parks
and their wake conditions (R226, R289), the resume of a rank and the start of a launch on a tile (R71, R96, R101, R179).
-/
namespace Sys2Proof.Machine

/-! ## The save -/

/-- A context as it is saved at the boundary of tile `t`: pending writes with their remaining latency, streams with
their remaining idle counts (R36, R101). -/
def State.frozenCtx (s : State) (t : Nat) : Ctx :=
  let x := s.tile t
  let c := x.ctx
  let left := fun (e : Strm) (y : Stream) => if y.running then { y with due := Due.left (s.remIdle t e) } else y
  { c with
    c := { c.c with pend := c.c.pend.map fun w => { w with vis := w.vis - x.beat } }
    due := .left (s.remIdle t .c)
    v := left .v c.v
    x := left .x c.x
    s := left .s c.s
    flagNew := 0
    cntSaved := x.cnt }

/-- The boxes off a tile whose lease bytes stand on it, without box `b`. -/
def Tile.without (x : Tile) (b : Nat) : List (Nat × BitVec 1024) := x.owners.filter (·.1 != b)

/-- A tile given back to the scheduler core: it holds no context; its SRAM stays, with the lease bytes of the context that
leaves it (R22, R179, R286). -/
def State.freeTile (s : State) (t : Nat) : State :=
  s.updTile t fun x =>
    { Tile.reset with
      beat := x.beat
      stores := x.stores, full := x.full, gated := false, freeSince := s.timeb
      owners := match x.box with
        | some b => x.without b ++ [(b, x.ctx.written)]
        | none => x.owners }

/-- The saves of a team's tiles, rank by rank, each at the boundary after the last word that its tile has issued (R22,
R27). -/
def State.saveTiles (s : State) : List Nat → List Ctx × State
  | [] => ([], s)
  | t :: r =>
    let s := (s.closeBeat t).landAll t
    let c := s.frozenCtx t
    let (cs, s) := (s.freeTile t).saveTiles r
    (c :: cs, s)

/-- The save of a running team: its ranks leave their tiles, their live state stays in the save areas (R22, R27). The
box's copies of the counters of further ranks stay (R272). The time from a pre-emption request to its save is noted (R28). -/
def State.saveTeam (s : State) (b : Nat) : State :=
  let (cs, s) := s.saveTiles (s.box b).tiles
  s.updBox b fun x =>
    { x with
      saved := cs ++ x.saved.drop cs.length, live := true, resume := true, rewind := none, preempt := false, reason := 0
      asked := none, spent := x.asked.elim 0 (s.timeb - ·) }

/-- Entry into READY: at the tail of its run list, with its effective priority (R282, R295). -/
def State.makeReady (s : State) (b : Nat) : State :=
  let p := s.effPrio (boxDie b) (s.box b).rcb
  let s := s.updBox b fun x => { x with state := .ready, reason := 0, prio := p, age := 0, readySeq := s.seq }
  let s := { s with seq := s.seq + 1 }
  let s := s.updDie (boxDie b) fun d => { d with idleSince := none }
  if (s.die (boxDie b)).ps2 then { s with agenda := s.agenda ++ [.event .dieWake (boxDie b)] } else s

/-! ## Wake conditions (R289) -/

/-- A barrier object's PHASE. -/
def State.phase (s : State) (asid : Nat) (va : Word) : Option Bool :=
  (s.readWordVa asid va).map fun w => w.getLsbD 63

/-- Whether the four allowances of a WAITC are met (R274). -/
def allowOk (c : Counters) (nl ns nc nt : Nat) : Bool :=
  (nl == 255 || c.ocl.toNat ≤ nl) && (ns == 255 || c.ocs.toNat ≤ ns) && (nc == 255 || c.occ.toNat ≤ nc)
    && (nt == 255 || c.oct.toNat ≤ nt)

/-- The wake condition of a box's park reason (R289). -/
def State.wakeHolds (s : State) (b : Nat) : Bool :=
  let x := s.box b
  let rank := (bits x.watch 60 4).toNat
  let w := x.watch
  let pages := x.faults.all fun r => recFamily r.kind != 0 || s.pageResident x.asid.toNat r.page
  match x.reason.toNat with
  | 0x01 => pages
  | 0x02 => pages
  | 0x03 => pages
  | 0x04 => allowOk (s.rankCtx b rank).oc (bits w 24 8).toNat (bits w 16 8).toNat (bits w 8 8).toNat (bits w 0 8).toNat
  | 0x05 => ((s.phase x.asid.toNat (bits w 0 57 |>.zeroExtend 64)).map (· != w.getLsbD 59)).getD false
  | 0x06 =>
    if w.getLsbD 59 then s.isFull (bits w 48 8).toNat ((bits w 0 22).toNat / 16)
    else s.isFull ((x.tiles[rank]?).getD 0) ((x.lbase.toNat * 4096 + (bits w 0 24).toNat) / 16)
  | 0x07 =>
    let p := vget Pair.reset x.pairs (bits w 0 3).toNat
    p.held.any (·.seq == p.rseq)
  | 0x08 => ((s.walk x.asid.toNat (bits w 0 57).toNat).map fun l => !lfMv l.1).getD true
  | 0x09 => s.pageResident x.asid.toNat (bits w 0 57 |>.zeroExtend 64)
  | 0x0A => x.evpend &&& x.evmask != 0
  | 0x0B => !x.queue.isEmpty
  | 0x0C => true
  | _ => false

/-- The C state of a rank taken back to its checkpoint (R105). -/
def Ctx.rollback (c : Ctx) : Ctx :=
  match c.ckpt with
  | none => c
  | some k =>
    { c with
      c := { k.regs with pend := k.pend.map fun w => ⟨w.reg, w.value, w.psn, w.rem⟩ }
      ckpt := none, mpc := k.idx, due := .left k.idle }

/-- A context that leaves its park: under POISON the parked rank returns to its checkpoint, at once where its live state
stands on its tiles, else when it is restored from its image (R105, R226). -/
def State.wake (s : State) (b : Nat) : State :=
  let x := s.box b
  let r := (bits x.watch 60 4).toNat
  let s :=
    if x.reason != 0x01 then s
    else s.updBox b fun y =>
      if y.live then { y with saved := updAt Ctx.rollback y.saved r } else { y with rewind := some r }
  s.makeReady b

/-- A running team parked with a reason and what it awaits, by the tile of `rank`; a wake condition that holds makes it
READY at once (R26, R289). -/
def State.parkTeam (s : State) (b rank : Nat) (reason : BitVec 8) (watch : Word) : State :=
  let s := s.saveTeam b
  let w : Word := (BitVec.ofNat 64 rank <<< 60) ||| watch
  let s := s.updBox b fun x => { x with state := .parked, reason := reason, watch := w }
  let s := if s.wakeHolds b then s.wake b else s
  s.rearbitrate (boxDie b)

/-! ## Taking a tile -/

/-- Bytes of a range of memory gone to zero. -/
def Mem.clear (m : Mem) (lo n : Nat) : Mem := m.filter fun p => p.1 < lo || lo + n ≤ p.1

/-- A lease range of tile `t` granted anew: its bytes zero, its granules empty (R179). -/
def State.clearLease (s : State) (t base size : Nat) : State :=
  let s := { s with mem := Mem.clear s.mem (sramPa t (base * 4096)) (size * 4096) }
  s.updTile t fun x => { x with full := x.full.filter fun g => g < base * 256 || (base + size) * 256 ≤ g }

/-- A due time of a saved stream on the tile it resumes on: remaining beats from the present beat of its clock (R101). -/
def Due.resume (d : Due) (clk : Nat) : Due :=
  match d with
  | .left r => .atBeat (clk + r)
  | d => d

/-- The outstanding stores of rank `rank` of box `b` on other tiles put before those of tile `t`, on which it resumes: they
stay the stores of its C stream (R234, R252). -/
def State.bringStores (s : State) (b rank t : Nat) : State :=
  let mine := fun (p : PendStore) => p.box == b && p.rank == rank
  let far := (rangeFrom 0 160).filter fun u => u != t && (s.tile u).stores.any mine
  let ps := far.flatMap fun u => (s.tile u).stores.filter mine
  let s := far.foldl (fun s u => s.updTile u fun x => { x with stores := x.stores.filter (!mine ·) }) s
  if ps.isEmpty then s else s.updTile t fun x => { x with stores := ps ++ x.stores }

/-- A saved context put on tile `t` as rank `rank` of box `b`, resuming at the tile's present beat; the idle counts that a
handler holds stay with it (R36, R101). A redirect stall of C that a save has cut short is not taken up again: R36 and the
image hold no field for it, and the spec does not say (DESIGN CHOICE, notes/assumptions/59.md). -/
def State.resumeOn (s : State) (b rank t : Nat) (c : Ctx) : State :=
  let x := s.box b
  (s.bringStores b rank t).updTile t fun y =>
    let clk := fun e => if c.member e then c.cntSaved else y.beat
    let st := fun (e : Strm) (z : Stream) =>
      if c.trap.act && !c.member e then z else { z with due := z.due.resume (clk e) }
    { y with
      cnt := c.cntSaved, holdAll := y.beat, holdC := 0, holdS := 0, stalled := false, issued := 0, start := none
      order := 0, base := y.beat, oc0 := c.oc, newEvents := 0
      since := Vector.replicate 4 none, box := some b, rank := rank, ctxno := BitVec.ofNat 16 b
      lbase := x.lbase, lsize := x.lsize, lsave := x.lsave, sect := x.sects, gated := false, clkgr := x.grant
      ctx := { c with
        c := { c.c with pend := c.c.pend.map fun w => { w with vis := y.beat + w.vis } }
        flagNew := 0, due := c.due.resume (clk .c), v := st .v c.v, x := st .x c.x, s := st .s c.s } }

/-- The context of rank `rank` at the start of a launch on a tile at beat `beat`: launch-start values, the block's arguments,
the rank and the team's size; counters, pending causes and the shadow nest record with its steps go on from the launches
before (R33, R71, R96, R174, R272, R347). -/
def launchCtx (blk : BlockReg) (args : Option (List Word)) (rank beat : Nat) (old : Ctx) : Ctx :=
  let arg := fun i => ((args.getD blk.args)[i]?).getD 0
  let s := (rangeFrom 0 8).foldl (fun v i => vput v (i + 1) (arg i)) CRegs.reset.s
  let s := vput (vput s 9 (BitVec.ofNat 64 rank)) 10 (BitVec.ofNat 64 blk.team)
  { Ctx.reset with
    c := { CRegs.reset with s := s }
    mpc := blk.centry.toNat
    due := .after beat
    clkrq := blk.clock
    oc := old.oc
    mat := { XState.reset with shadow := old.mat.shadow, steps := old.mat.steps }
    trap := { TrapRegs.reset with tpend := old.trap.tpend } }

end Sys2Proof.Machine
end

