-- ==== Sys2Proof/Machine/Ops.lean ====
section
/-!
DEFINITION. What becomes of a word at issue: its effect, a stall, a park or a precise cause (R10, R33, R37, R52), taking an
exception (R351, R352) and returning from one (R355).
-/
namespace Sys2Proof.Machine

/-! ## The outcome of a word -/

/-- What a word does at its issue. -/
inductive WRes where
  /-- It takes effect, and the stream goes on at the word after it, or where a close or back-edge leads (R43, R118). -/
  | next (s : State)
  /-- It takes effect, and the stream goes on at word `pc`; with the redirect stall of R113 where `redirect` holds. -/
  | goto (s : State) (pc : Nat) (redirect : Bool)
  /-- It takes effect, and the stream goes on as after the word at index `x` (R43, R118). -/
  | over (s : State) (x : Nat) (redirect : Bool)
  /-- It takes effect and has itself set where each stream goes on. -/
  | exact (s : State)
  /-- It takes effect and gives up the tile, each stream's place already set. -/
  | off (s : State)
  /-- It stalls: the reason and watch of R26 and R289, reason 0 where the wait does not count. -/
  | stall (s : State) (reason : BitVec 8) (watch : Word)
  /-- It raises a precise cause (R10). -/
  | trap (code : BitVec 8) (tval : Word)
  /-- The context parks instead of the word issuing (R104, R226). -/
  | park (s : State) (reason : BitVec 8) (watch : Word)

/-- The bit of a stream in a mask of four. -/
abbrev strmBit (e : Strm) : BitVec 4 := 1 <<< e.num

/-- The word at issue marked as issued at this beat; a word of S sets SUSED (R158). -/
def State.markIssued (s : State) (t : Nat) (e : Strm) : State :=
  let s := s.updTile t fun x =>
    { x with
      issued := x.issued ||| strmBit e
      since := vput x.since e.num none
      retried := vput x.retried e.num false
      ctx := if e = .s then { x.ctx with spe := { x.ctx.spe with used := true } } else x.ctx }
  { s with last := .issued }

/-- The stream's last issue is this beat of its clock (R33), and it goes on at `pc`. -/
def State.moveTo (s : State) (t : Nat) (e : Strm) (pc : Nat) : State :=
  s.updTile t fun x => { x with ctx := x.ctx.setPc e pc (.after (x.clock e)) }

/-- The stream's last issue is this beat of its clock (R33), and it goes on as after the word at `idx`. -/
def State.moveOn (s : State) (t : Nat) (e : Strm) (idx : Nat) : State :=
  s.updTile t fun x => { x with ctx := x.ctx.passAt e idx (idx + 1) (.after (x.clock e)) }

/-- The redirect stall: the C stream issues again at the third beat from now at the earliest (R113). -/
def State.redirect (s : State) (t : Nat) (r : Bool) : State :=
  if r then s.updTile t fun x => { x with holdC := x.beat + 3 } else s

/-- A stall of the stream's next word met at this beat; a member's stall stalls its region (R26, R37). -/
def State.stallWord (s : State) (t : Nat) (e : Strm) (reason : BitVec 8) (watch : Word) : State :=
  let s := s.updTile t fun x =>
    let start := match vget none x.since e.num with
      | some y => if y.reason = reason then y.start else x.beat
      | none => x.beat
    { x with stalled := x.stalled || x.ctx.member e
             since := vput x.since e.num (some ⟨start, x.beat, reason, watch⟩) }
  { s with last := .stalled }

/-! ## Taking an exception (R351, R352) -/

/-- The team of tile `t` parked with a reason; a tile that runs no context has nothing to park. -/
def State.parkTile (s : State) (t : Nat) (reason : BitVec 8) (watch : Word) : State :=
  match (s.tile t).box with
  | none => { s with last := .parked }
  | some b => { s.parkTeam b (s.tile t).rank reason watch with last := .parked }

/-- FAULTPC as trap entry writes it (R348). -/
def faultPc (idx idle : Nat) : Word := BitVec.ofNat 64 (idx % 2 ^ 24 + idle % 1024 * 2 ^ 24)

/-- TCAUSE as trap entry writes it (R348). -/
def causeWord (idx : Nat) (async : Bool) (e : Strm) (code : BitVec 8) : Word :=
  BitVec.ofNat 64 (code.toNat + e.num * 256 + (if async then 1024 else 0) + idx % 2 ^ 24 * 2 ^ 24)

/-- Whether a handler is installed within the C section (R351). -/
def Tile.handler (x : Tile) : Bool :=
  x.ctx.trap.tvec.getLsbD 63 && decide ((bits x.ctx.trap.tvec 0 24).toNat < (vget ⟨0, 0⟩ x.sect 0).words)

/-- The pending writes of a context that become visible after beat `b`, frozen with their remaining latency (R101). -/
def CRegs.freeze (c : CRegs) (b : Nat) : List FrozenWrite :=
  (c.pend.filter (b < ·.vis)).map fun w => ⟨w.reg, w.value, w.psn, w.vis - b⟩

/-- Entry into the handler at the boundary before the present beat of tile `t`: the pending writes are frozen, the
streams keep their remaining idle counts, the trap registers are written, and C goes to TVEC.HIDX, whose word with IDLE 0
issues four beats on (R36, R52, R101, R351). -/
def State.enterHandler (s : State) (t : Nat) (idle : Nat) (cause tval tword : Word) : State :=
  let rem := fun e => s.remIdle t e
  s.updTile t fun x =>
    let c := x.ctx
    let left := fun (e : Strm) (y : Stream) =>
      if y.running && !c.member e then { y with due := Due.left (rem e) } else y
    let c' := { c with
      c := { c.c with pend := c.c.pend.filter (·.vis ≤ x.beat) }
      frozen := c.c.freeze x.beat
      trap := { c.trap with faultpc := faultPc c.mpc idle, tcause := cause, tval := tval, tword := tword, act := true }
      mpc := (bits c.trap.tvec 0 24).toNat
      due := .after (x.beat + 3)
      v := left .v c.v, x := left .x c.x, s := left .s c.s }
    { x with ctx := c', holdC := 0, since := Vector.replicate 4 none }

/-- A context with no usable handler parks HALTED, and its fault domain's owner is told the codes (R351). -/
def State.haltTile (s : State) (t : Nat) (codes : List (BitVec 8)) : State :=
  match (s.tile t).box with
  | none => { s with last := .parked }
  | some b => codes.foldl (fun s c => s.report b c) (s.parkTile t 0x0D 0)

/-- A precise cause of the word `tword` at index `idx` of stream `e`, taken at the boundary before the present beat
(R52, R351). -/
def State.takeTrap (s : State) (t : Nat) (e : Strm) (idx : Nat) (code : BitVec 8) (tval tword : Word) (idle : Nat) :
    State :=
  let s := s.landEngines t
  let c := s.ctx t
  if c.c.live then s.parkTile t 0x01 0
  else if c.trap.act then s.haltTile t [0x0A, code]
  else if !(s.tile t).handler then s.haltTile t [code]
  else { s.enterHandler t idle (causeWord idx false e code) tval tword with last := .trapped code }

/-- The lowest bit of TPEND that is set: the pending cause with the lowest code (R349, R353). -/
def lowestBit (p : BitVec 8) : Nat := ((rangeFrom 0 8).find? (p.getLsbD ·)).getD 0

/-- Whether an asynchronous cause is delivered at a boundary of tile `t` (R352). -/
def Ctx.deliverable (c : Ctx) : Bool := c.trap.tpend != 0 && !c.trap.act && !c.c.live

/-- Delivery of the pending asynchronous cause with the lowest code (R352, R353). -/
def State.deliver (s : State) (t : Nat) : State :=
  let s := s.landEngines t
  let k := lowestBit (s.ctx t).trap.tpend
  let code := tpendCode k
  let s := s.updCtx t fun c => ({ c with trap := { c.trap with tpend := setBit c.trap.tpend k false } }).dropRaised code
  if !(s.tile t).handler then s.haltTile t [code]
  else { s.enterHandler t (s.remIdle t .c) (causeWord 0 true .c code) 0 0 with last := .trapped code }

/-! ## Returning from an exception (R355) -/

/-- The context of a tile at beat `b` of its clock leaves the handler: ACT clears, the frozen writes are released at
b' + REM, and every stream may issue from b' = b + 3 (R36, R101, R355). -/
def Tile.leave (x : Tile) : Tile :=
  let b' := x.beat + 3
  let c := x.ctx
  let on := fun (y : Stream) => { y with due := y.due.resume b' }
  let idle := (bits c.trap.faultpc 24 10).toNat
  let c' := { c with
    c := { c.c with pend := c.frozen.map (fun w => ⟨w.reg, w.value, w.psn, b' + w.rem⟩) ++ c.c.pend }
    frozen := []
    trap := { c.trap with act := false }
    mpc := (bits c.trap.faultpc 0 24).toNat
    due := .atBeat ((if c.lockstep then x.cnt else b') + idle)
    v := on c.v, x := on c.x, s := on c.s }
  { x with ctx := c', holdAll := b', holdC := 0, since := Vector.replicate 4 none }

/-- The raising stream of TCAUSE (R348). -/
def causeStrm (w : Word) : Strm :=
  match (bits w 8 2).toNat with
  | 0 => .c | 1 => .v | 2 => .x | _ => .s

/-- The raising stream passes the word at SIDX as if it had issued with no effect at beat b' - 1 (R355). -/
def Tile.passCause (x : Tile) : Tile :=
  let w := x.ctx.trap.tcause
  let e := causeStrm w
  let k := (bits w 24 24).toNat
  let at_ := if x.ctx.member e then x.cnt - 1 else x.holdAll - 1
  { x with ctx := x.ctx.passAt e k (k + 1) (.after at_) }

/-! ## A word at issue -/

/-- The step that a word's outcome makes, on the tile, stream and word that `cur` names. -/
def runWord (s : State) (r : WRes) : Out :=
  let t := s.cur.at_
  let e := s.cur.strm
  match r with
  | .next s' => .next ((s'.moveOn t e s.cur.idx).markIssued t e)
  | .goto s' pc d => .next (((s'.moveTo t e pc).redirect t d).markIssued t e)
  | .over s' x d => .next (((s'.moveOn t e x).redirect t d).markIssued t e)
  | .exact s' => .next (s'.markIssued t e)
  | .off s' => .next s'
  | .stall s' reason watch => .next (s'.stallWord t e reason watch)
  | .trap code tval => .next (s.takeTrap t e s.cur.idx code tval s.cur.word (s.remIdle t .c))
  | .park s' reason watch => .next (s'.parkTile t reason watch)

/-- A word that parks under live poison (R104). -/
def gated (s : State) (r : WRes) : WRes := if (s.ctx s.cur.at_).c.live then .park s 0x01 0 else r

/-- The context at issue. -/
abbrev State.me (s : State) : Ctx := s.ctx s.cur.at_

/-- The tile at issue. -/
abbrev State.here (s : State) : Tile := s.tile s.cur.at_

/-- The context at issue changed. -/
abbrev State.updMe (s : State) (f : Ctx → Ctx) : State := s.updCtx s.cur.at_ f

/-- The C state at issue changed. -/
abbrev State.updC (s : State) (f : CRegs → CRegs) : State := s.updMe fun c => { c with c := f c.c }

/-- A value of a scalar register at issue (R99). -/
abbrev State.reg (s : State) (r : Reg) : Word := s.me.c.read r

/-- The box at issue. -/
def State.myBox (s : State) : Nat := s.here.box.getD 0

/-- The ASID at issue. -/
def State.myAsid (s : State) : Nat := s.asidOf s.cur.at_

/-- The write of R99 with latency `lat`, from the present beat; the checkpoint goes when it leaves no poison live. -/
def State.wr (s : State) (d : Reg) (v : Word) (p : Bool) (lat : Nat) : State :=
  s.updC (·.wr d v p (s.here.beat + lat))

/-- A word at issue that reads memory and gets a negative reply: it is logged, its cause raised, and the word stalls, not to
be read again until the cause is taken (R12, R219). -/
def State.refuse (s : State) (r : Nat × Nat) : WRes :=
  .stall ((s.nacked s.cur.at_ s.myBox s.here.rank r).updMe fun c =>
    { c with refused := vput c.refused s.cur.strm.num (some (s.cur.idx, nackCause r.1)) }) 0 0

/-- A word that reads registers `rs` stalls while one of them awaits an interlocked value (R99). -/
def reading (s : State) (rs : List Reg) (r : WRes) : WRes := if s.me.waits rs then .stall s 0 0 else r

end Sys2Proof.Machine
end

