-- ==== Sys2Proof/Machine/Scalar.lean ====
section
/-!
DEFINITION. The register operations of the control core (R99, R103, R111, R112).
-/
namespace Sys2Proof.Machine

/-- A register-register operation (R111): both operands as visible at issue, the result written with the poison of what
it reads, visible after `lat` beats. -/
def opCR (s : State) (f : FCR) (lat : Nat) (g : Word → Word → Word) : WRes :=
  reading s [f.sa, f.sb]
    (.next (s.wr f.sd (g (s.reg f.sa) (s.reg f.sb)) (s.me.c.psn f.sa || s.me.c.psn f.sb) lat))

/-- An immediate operation (R112). -/
def opCI (s : State) (f : FCI) (lat : Nat) (g : Word → Word) : WRes :=
  reading s [f.sa] (.next (s.wr f.sd (g (s.reg f.sa)) (s.me.c.psn f.sa) lat))

/-- I of R112: the immediate sign-extended. -/
abbrev immI (f : FCI) : Word := f.imm.signExtend 64

/-- One or zero. -/
abbrev flagWord (b : Bool) : Word := if b then 1 else 0

/-- The shift count of R111: B[5:0]. -/
abbrev shamt (b : Word) : Nat := (bits b 0 6).toNat

/-- The high half of a product, by the q of MULH (R111). -/
def mulHigh (q : BitVec 6) (a b : Word) : Word :=
  match q.toNat with
  | 0 => BitVec.ofInt 64 (a.toInt * b.toInt / 2 ^ 64)
  | 1 => BitVec.ofNat 64 (a.toNat * b.toNat / 2 ^ 64)
  | _ => BitVec.ofInt 64 (a.toInt * (b.toNat : Int) / 2 ^ 64)

/-- The quotient of R111: all ones by zero, toward zero otherwise; the most negative value by -1 is itself. -/
def quotient (unsigned : Bool) (a b : Word) : Word :=
  if b = 0 then BitVec.allOnes 64
  else if unsigned then BitVec.ofNat 64 (a.toNat / b.toNat)
  else BitVec.ofInt 64 (a.toInt.tdiv b.toInt)

/-- The remainder of R111: the dividend by zero; it takes the dividend's sign. -/
def remainder (unsigned : Bool) (a b : Word) : Word :=
  if b = 0 then a
  else if unsigned then BitVec.ofNat 64 (a.toNat % b.toNat)
  else BitVec.ofInt 64 (a.toInt.tmod b.toInt)

/-- The order of two words, signed or unsigned. -/
abbrev below (unsigned : Bool) (a b : Word) : Bool := if unsigned then a.ult b else a.slt b

/-- ADD (R111). -/
def execAdd (f : FCR) (s : State) : Out := runWord s (opCR s f 1 fun a b => a + b)
/-- SUB (R111). -/
def execSub (f : FCR) (s : State) : Out := runWord s (opCR s f 1 fun a b => a - b)
/-- AND (R111). -/
def execAnd (f : FCR) (s : State) : Out := runWord s (opCR s f 1 fun a b => a &&& b)
/-- OR (R111). -/
def execOr (f : FCR) (s : State) : Out := runWord s (opCR s f 1 fun a b => a ||| b)
/-- XOR (R111). -/
def execXor (f : FCR) (s : State) : Out := runWord s (opCR s f 1 fun a b => a ^^^ b)
/-- SLL (R111). -/
def execSll (f : FCR) (s : State) : Out := runWord s (opCR s f 1 fun a b => a <<< shamt b)
/-- SRL (R111). -/
def execSrl (f : FCR) (s : State) : Out := runWord s (opCR s f 1 fun a b => a >>> shamt b)
/-- SRA (R111). -/
def execSra (f : FCR) (s : State) : Out := runWord s (opCR s f 1 fun a b => a.sshiftRight (shamt b))
/-- MUL (R111). -/
def execMul (f : FCR) (s : State) : Out := runWord s (opCR s f 3 fun a b => a * b)
/-- MULH (R111). -/
def execMulh (f : FCR) (s : State) : Out := runWord s (opCR s f 3 (mulHigh f.q))
/-- DIV (R111). -/
def execDiv (f : FCR) (s : State) : Out := runWord s (opCR s f 18 (quotient (f.q == 1)))
/-- REM (R111). -/
def execRem (f : FCR) (s : State) : Out := runWord s (opCR s f 18 (remainder (f.q == 1)))
/-- MIN (R111). -/
def execMin (f : FCR) (s : State) : Out := runWord s (opCR s f 1 fun a b => if below (f.q == 1) b a then b else a)
/-- MAX (R111). -/
def execMax (f : FCR) (s : State) : Out := runWord s (opCR s f 1 fun a b => if below (f.q == 1) a b then b else a)
/-- CMPEQ (R111). -/
def execCmpeq (f : FCR) (s : State) : Out := runWord s (opCR s f 1 fun a b => flagWord (a == b))
/-- CMPLT (R111). -/
def execCmplt (f : FCR) (s : State) : Out := runWord s (opCR s f 1 fun a b => flagWord (a.slt b))
/-- CMPLTU (R111). -/
def execCmpltu (f : FCR) (s : State) : Out := runWord s (opCR s f 1 fun a b => flagWord (a.ult b))

/-- SEL (R111): A where s[sc] is nonzero, else B, with the poison of all three. -/
def execSel (f : FCR) (s : State) : Out :=
  runWord s (reading s [f.sa, f.sb, f.sc]
    (.next (s.wr f.sd (if s.reg f.sc != 0 then s.reg f.sa else s.reg f.sb)
      (s.me.c.psn f.sa || s.me.c.psn f.sb || s.me.c.psn f.sc) 1)))

/-- ADDI (R112). -/
def execAddi (f : FCI) (s : State) : Out := runWord s (opCI s f 1 fun a => a + immI f)
/-- ANDI (R112). -/
def execAndi (f : FCI) (s : State) : Out := runWord s (opCI s f 1 fun a => a &&& immI f)
/-- ORI (R112). -/
def execOri (f : FCI) (s : State) : Out := runWord s (opCI s f 1 fun a => a ||| immI f)
/-- XORI (R112). -/
def execXori (f : FCI) (s : State) : Out := runWord s (opCI s f 1 fun a => a ^^^ immI f)
/-- SLLI (R112). -/
def execSlli (f : FCI) (s : State) : Out := runWord s (opCI s f 1 fun a => a <<< (f.imm.toNat % 64))
/-- SRLI (R112). -/
def execSrli (f : FCI) (s : State) : Out := runWord s (opCI s f 1 fun a => a >>> (f.imm.toNat % 64))
/-- SRAI (R112). -/
def execSrai (f : FCI) (s : State) : Out := runWord s (opCI s f 1 fun a => a.sshiftRight (f.imm.toNat % 64))
/-- LUI (R112): imm above the low half of A. -/
def execLui (f : FCI) (s : State) : Out := runWord s (opCI s f 1 fun a => f.imm ++ bits a 0 32)
/-- MULI (R112). -/
def execMuli (f : FCI) (s : State) : Out := runWord s (opCI s f 3 fun a => a * immI f)
/-- CMPEQI (R112). -/
def execCmpeqi (f : FCI) (s : State) : Out := runWord s (opCI s f 1 fun a => flagWord (a == immI f))
/-- CMPLTI (R112). -/
def execCmplti (f : FCI) (s : State) : Out := runWord s (opCI s f 1 fun a => flagWord (below (f.q == 1) a (immI f)))

end Sys2Proof.Machine
end

