-- ==== Sys2Proof/Machine/CMem.lean ====
section
/-!
DEFINITION. The memory words of the control core: LD, ST and the atomics (R225 to R231), and FENCE (R241 to R244).
-/
namespace Sys2Proof.Machine

/-! ## Accesses of C words -/

/-- The effective address of format CM (R227). -/
def effVa (s : State) (f : FCM) : Word := s.reg f.sa + f.off.signExtend 64

/-- The width in bytes of format CM. -/
def FCMbytes (f : FCM) : Nat := 2 ^ f.w.toNat

/-- The access of a C word that parks on an absent page: its causes, or a record of kind 2 for each absent page and the
park PAGE_ABSENT; otherwise `k` on the locations of its bytes and the leaves of its pages (R203, R205, R206, R208, R212,
R222, R226). `pre` holds the word's own checks between translation and residency. -/
def cAccess (s : State) (va : Word) (n : Nat) (w : Bool) (pre : List Word → Option (BitVec 8 × Word))
    (k : State → List Nat → List Word → WRes) : WRes :=
  if bits va 57 7 != 0 then .trap 0x40 va
  else
    let pgs := (s.leaves s.myAsid (pagesOf va.toNat n)).1.toOption.getD []
    match s.access s.myAsid va.toNat n w with
    | (.cause c a, _) => .trap c (BitVec.ofNat 64 a)
    | (.absent ps, s') =>
      match pre pgs with
      | some (c, v) => .trap c v
      | none => .park (s'.faultPages s.myBox 2 s.cur.at_ ps) 0x02 0
    | (.ok locs ls, s') =>
      match pre pgs with
      | some (c, v) => .trap c v
      | none => k (s'.ceasePages s.myBox (pageBases va.toNat n)) locs ls

/-- No check of its own. -/
abbrev noPre (_ : List Word) : Option (BitVec 8 × Word) := none

/-- The stall of a write to a page under move (R213). -/
def moving (s : State) (ls : List Word) (va : Word) (r : WRes) : WRes :=
  if ls.any lfMv then .stall s 0x08 (BitVec.setWidth 64 (bits va 0 57)) else r

/-- The precise cause SRAM_UE of an access of `n` bytes at `va` whose row meets an uncorrectable error (R176, R350). -/
def ueGate (s : State) (va : Word) (locs : List Nat) (r : WRes) : WRes :=
  match s.sramUe locs with
  | some i => .trap 0xD0 ((va + BitVec.ofNat 64 i) &&& ~~~63)
  | none => r

/-- The bytes that the C stream reads at locations (R234). -/
def State.readOwn (s : State) (locs : List Nat) : Nat := ofBytes (locs.map (s.ownByte s.cur.at_ ·))

/-- Whether a location lies in the window of tile `t`. -/
def inWindow (t l : Nat) : Bool := match placeOf l with | .window u _ => u == t | _ => false

/-- The first location of an empty granule, as GRANULE's WATCH names it through a window (R289). -/
def State.emptyWatch (s : State) (locs : List Nat) : Option Word :=
  (locs.find? (s.emptyAt ·)).map fun l =>
    match placeOf l with
    | .window t off => BitVec.ofNat 64 (2 ^ 59 + t * 2 ^ 48 + off / 16 * 16)
    | _ => 0

/-! ## LD (R225, R228) -/

/-- The checkpoint of R105 taken, where none is held, for the load at issue. -/
def Ctx.takeCheckpoint (c : Ctx) (beat idx : Nat) : Ctx :=
  match c.ckpt with
  | some _ => c
  | none =>
    { c with
      ckpt := some ⟨c.c, c.c.freeze beat, idx, 0⟩
      loads := c.loads.map fun f => { f with old := true } }

/-- A load that meets a page that is not resident: it stalls its lockstep region, or poisons its destination (R106,
R225). -/
def ldAbsent (s : State) (f : FCM) (va : Word) (pages : List Nat) : WRes :=
  let s' := s.faultPages s.myBox 1 s.cur.at_ pages
  if s.me.lockstep then .stall s' 0x09 (BitVec.setWidth 64 (bits va 0 57))
  else .next ((s'.updMe (·.takeCheckpoint s.here.beat s.cur.idx)).wr f.sd 0 true 1)

/-- An interlocked value on its way to registers named at issue, read at `locs` (R99, R228, R230, R265). -/
def State.flyTo (s : State) (kind : FlyKind) (ws : List (Reg × Word)) (counted : Bool) (nack : Option (Nat × Nat))
    (locs : List Nat := []) : State :=
  s.updMe fun c =>
    let c := if counted then c.incL else c
    { c with loads := c.loads ++ [⟨kind, ws.map fun p => (c.c.idx p.1, p.2), counted, nack, false, false, locs⟩] }

/-- The most operations that a class of counters may hold (R271). -/
def maxOps : Nat := 2 ^ 20

/-- A word that counts `n` loads stalls while its class could come to hold more than it may (R271). -/
def roomL (s : State) (n : Nat) (r : WRes) : WRes := if maxOps < s.me.oc.ocl.toNat + n then .stall s 0 0 else r

/-- The same for `n` stores. -/
def roomS (s : State) (n : Nat) (r : WRes) : WRes := if maxOps < s.me.oc.ocs.toNat + n then .stall s 0 0 else r

/-- The same for one tile operation. -/
def roomT (s : State) (r : WRes) : WRes := if maxOps < s.me.oc.oct.toNat + 1 then .stall s 0 0 else r

/-- The pending stores of the C stream at issue that touch some of the locations performed, with those before them: a
consuming load returns no write later than the one that set its granule full (R247). -/
def State.performOwn (s : State) (locs : List Nat) : State :=
  s.performThrough s.cur.at_ fun p => s.here.mine p && p.bytes.any fun q => locs.contains q.1

/-- The value of a load of `n` bytes: zero-extended, or sign-extended under q = 1 (R228). -/
def extend (n : Nat) (signed : Bool) (x : Nat) : Word :=
  if signed then
    match n with
    | 1 => (BitVec.ofNat 8 x).signExtend 64
    | 2 => (BitVec.ofNat 16 x).signExtend 64
    | 4 => (BitVec.ofNat 32 x).signExtend 64
    | _ => BitVec.ofNat 64 x
  else BitVec.ofNat 64 x

/-- A load whose pages are resident (R228, R247). -/
def ldServed (s : State) (f : FCM) (va : Word) (locs : List Nat) : WRes :=
  let n := FCMbytes f
  let s := if 2 ≤ f.q.toNat then s.performOwn locs else s
  match if 2 ≤ f.q.toNat then s.emptyWatch locs else none with
  | some w => .stall s 0x06 w
  | none =>
    ueGate s va locs (roomL s 1
      (let x := s.readOwn locs
       let nack := s.reply va.toNat locs true
       let s := s.touch s.myAsid false (pagesOf va.toNat n)
       let s := s.correct s.cur.at_ locs
       let own := inWindow s.cur.at_
       let s := if f.q.toNat = 3 then (s.fillLocs false (locs.filter own) 0).fillLocs false (locs.filter (!own ·)) else s
       .next (s.flyTo .load [(f.sd, extend n (f.q == 1) x)] true nack locs)))

/-- LD (R228). -/
def opLd (s : State) (f : FCM) : WRes :=
  reading s [f.sa]
    (let va := effVa s f
     let n := FCMbytes f
     if bits va 57 7 != 0 then .trap 0x40 va
     else match s.access s.myAsid va.toNat n false with
       | (.cause c a, _) => .trap c (BitVec.ofNat 64 a)
       | (.absent ps, s') => ldAbsent s' f va ps
       | (.ok locs _, s') => ldServed (s'.ceasePages s.myBox (pageBases va.toNat n)) f va locs)

/-- LD (R228). -/
def execLd (f : FCM) (s : State) : Out := runWord s (opLd s f)

/-! ## ST (R229) -/

/-- The die that homes the line of a location, when it is another one than die `d`, which writes it (R233, R236). -/
def homeFrom (d : Nat) (ls : List Word) (l : Nat) : Option Nat :=
  let home := match placeOf l with
    | .window w _ => tileDie w
    | _ => if ls.any (fun x => lfHome x == 3 && lfTier x == 2) then d else (Config.pdirHome (l / 64)).val
  if home = d then none else some home

/-- What comes before a write of die `a` to `locs` that is performed at once, line by line at the lines' homes (R233,
R236). -/
def State.crossLines (s : State) (a : Nat) (ls : List Word) (locs : List Nat) : State :=
  ((locs.map (homeFrom a ls)).eraseDups).foldl (fun s h => s.crossWrite a h) s

/-- Bytes written in an ASID by a unit of die `a` with the checks of ST, as `writeVa` does (R236). -/
def State.writeFrom (s : State) (a asid : Nat) (va : Word) (b : List Byte) (fill : Bool := false)
    (by_ : Nat := windowAccess) : Option State :=
  match (s.reach asid va.toNat b.length true).1 with
  | .ok locs ls => (s.crossLines a ls locs).writeVa asid va b fill by_
  | _ => none

/-- Whether a write by a unit, an engine or the front end waits: on a page under move, on a stack in forced self-refresh, or
on the words of a tile's beat (R213, R219, R237). -/
def State.writeWaits (s : State) (asid va n : Nat) : Bool :=
  match (s.reach asid va n true).1 with
  | .ok locs ls => s.held locs || ls.any lfMv
  | _ => false

/-- The dies that home the lines of a store's bytes, but for the tile's own. -/
abbrev crossHomes (t : Nat) (ls : List Word) (locs : List Nat) : List Nat :=
  (locs.filterMap (homeFrom (tileDie t) ls)).eraseDups

/-- A store put in the tile's order of stores, and counted; one that crosses dies carries its die's clock (R229, R236,
R239). -/
def State.pushStore (s : State) (bytes : List (Nat × Byte)) (nf : Bool) (cross : List Nat) (nack : Option (Nat × Nat))
    (locs : List Nat) : State :=
  let a := tileDie s.cur.at_
  let s := if cross.isEmpty then s else s.sendStamp a
  let s := s.updTile s.cur.at_ fun x =>
    { x with stores := x.stores ++
        [⟨s.myBox, x.rank, bytes, nf, cross, if x.ctx.lockstep then some x.cnt else none, nack, locs, (s.die a).vclock⟩] }
  s.updMe Ctx.incS

/-- A store of `n` bytes of value `v` at `va` whose page checks are made (R213, R229). -/
def stServed (s : State) (va : Word) (n : Nat) (v : Nat) (nf : Bool) (locs : List Nat) (ls : List Word) : WRes :=
  moving s ls va (roomS s 1
    (let nack := s.reply va.toNat locs false
     let s := s.touch s.myAsid true (pagesOf va.toNat n)
     .next (s.pushStore (locs.zip (toBytes n v)) nf (crossHomes s.cur.at_ ls locs) nack locs)))

/-- ST (R229). -/
def execSt (f : FCM) (s : State) : Out :=
  runWord s (gated s (reading s [f.sa, f.sd]
    (cAccess s (effVa s f) (FCMbytes f) true noPre fun s locs ls =>
      stServed s (effVa s f) (FCMbytes f) (s.reg f.sd).toNat (f.q == 1) locs ls)))

/-! ## Atomics (R230) -/

/-- The lesser or greater of two words of `8 n` bits (R216, R230). -/
def pickWord (n : Nat) (unsigned wantMax : Bool) (a b : Nat) : Nat :=
  let v := fun (x : Nat) => if unsigned then (x : Int) else (BitVec.ofNat (8 * n) x).toInt
  if wantMax then (if v a < v b then b else a) else (if v b < v a then b else a)

/-- An atomic whose checks are made: the earlier stores of this C stream are performed, the word is changed at its home
as one action, and the old value is on its way to sd (R230, R236, R250). -/
def amoServed (s : State) (va : Word) (n : Nat) (sd : Reg) (new : Nat → Nat) (locs : List Nat) (ls : List Word) : WRes :=
  moving s ls va (ueGate s va locs (roomL s 1 (roomS s 1
    (let nack := s.reply va.toNat locs true
     let s := s.performAll s.cur.at_
     let s := if nack.isSome then s else s.crossLines (tileDie s.cur.at_) ls locs
     let old := ofBytes (s.nowBytes locs)
     let s := s.correct s.cur.at_ locs
     let s := s.touch s.myAsid true (pagesOf va.toNat n)
     let s := if nack.isSome then s else
       (s.putBytes (locs.zip (toBytes n (new old)))).signWrites s s.myBox s.here.rank
     let s := s.pushStore [] true [] none locs
     .next (s.flyTo .atomic [(sd, BitVec.ofNat 64 old)] true nack locs)))))

/-- An atomic (R230): `new` gives the word written from the old one. -/
def opAmo (s : State) (f : FCM) (cas : Bool) (new : Nat → Nat) : WRes :=
  let va := effVa s f
  let n := FCMbytes f
  gated s (reading s ([f.sa, f.sd] ++ if cas then [f.sd + 1] else [])
    (cAccess s va n true
      (fun _ =>
        if va.toNat % n != 0 then some (0x45, va)
        else if cas && (f.sd == 0 || f.sd == 15 || f.sd == 31) then some (0x03, 0)
        else none)
      fun s locs ls => amoServed s va n f.sd new locs ls))

/-- The operand of an atomic: the low 8 n bits of a register. -/
def amoArg (s : State) (f : FCM) (r : Reg) : Nat := (s.reg r).toNat % 2 ^ (8 * FCMbytes f)

/-- AMOADD (R230). -/
def execAmoadd (f : FCM) (s : State) : Out := runWord s (opAmo s f false fun old => old + amoArg s f f.sd)
/-- AMOSWAP (R230). -/
def execAmoswap (f : FCM) (s : State) : Out := runWord s (opAmo s f false fun _ => amoArg s f f.sd)
/-- AMOCAS (R230). -/
def execAmocas (f : FCM) (s : State) : Out :=
  runWord s (opAmo s f true fun old => if old = amoArg s f f.sd then amoArg s f (f.sd + 1) else old)
/-- AMOMIN (R230). -/
def execAmomin (f : FCM) (s : State) : Out :=
  runWord s (opAmo s f false fun old => pickWord (FCMbytes f) (f.q == 1) false old (amoArg s f f.sd))
/-- AMOMAX (R230). -/
def execAmomax (f : FCM) (s : State) : Out :=
  runWord s (opAmo s f false fun old => pickWord (FCMbytes f) (f.q == 1) true old (amoArg s f f.sd))

/-! ## FENCE (R241 to R244) -/

/-- Whether a region list keeps the layout of R244. -/
def listOk (head : Nat) (body : List Byte) : Bool :=
  head / 16 == 0 && (rangeFrom 0 (head % 16 + 1)).all fun i =>
    let w0 := ofBytes ((body.drop (16 * i)).take 8)
    let w1 := ofBytes ((body.drop (16 * i + 8)).take 8)
    w0 / 2 ^ 57 == 0 && w0 % 64 == 0 && w1 / 2 ^ 40 == 0 && w1 % 64 == 0 && w1 != 0 && decide (w0 + w1 ≤ 2 ^ 57)

/-- `n` words from `va` read one by one as LD.d reads them, with the bytes so far (R242). -/
def fenceWords (va : Word) : Nat → List Byte → State → (State → List Byte → WRes) → WRes
  | 0, bs, s, k => k s bs
  | n + 1, bs, s, k =>
    cAccess s va 8 false noPre fun s locs _ =>
      ueGate s va locs
        (match s.reply va.toNat locs true with
        | some r => s.refuse r
        | none =>
          let b := locs.map (s.ownByte s.cur.at_ ·)
          fenceWords (va + 8) n (bs ++ b) ((s.correct s.cur.at_ locs).touch s.myAsid false (pagesOf va.toNat 8)) k)

/-- The region list of a FENCE: its head and its entries (R242 to R244). -/
def fenceList (s : State) (va : Word) (k : State → WRes) : WRes :=
  if bits va 57 7 != 0 then .trap 0x40 va
  else if va.toNat % 8 != 0 then .trap 0x80 0
  else
    fenceWords va 1 [] s fun s head =>
      let h := ofBytes head
      fenceWords (va + 8) (2 * (h % 16 + 1)) [] s fun s body => if listOk h body then k s else .trap 0x80 0

/-- Whether a store that FENCE.rel waits for is not performed: any store of this rank's C stream; at .tile scope those
through its tile window (R242, R243). -/
def State.storesOut (s : State) (tileOnly : Bool := false) : Bool :=
  s.here.stores.any fun p => s.here.mine p && (!tileOnly || p.locs.any (inWindow s.cur.at_ ·))

/-- Whether an LD or atomic of this C stream has not landed; at .tile scope one through its tile window (R242, R243). -/
def State.loadsOut (s : State) (tileOnly : Bool := false) : Bool :=
  s.me.loads.any fun f => f.kind != .word && !f.raised && (!tileOnly || f.locs.any (inWindow s.cur.at_ ·))

/-- What a release at FABRIC of the context at issue makes visible to peers: its own stores, and those of others that come
before them (R242, R387). -/
def State.releaseMine (s : State) : State := s.releaseFabric fun b r => b == s.myBox && r == s.here.rank

/-- FENCE (R242). -/
def execFence (f : FCS) (s : State) : Out :=
  let here := bits f.imm 0 3 == 0
  let wait := fun (s : State) =>
    if f.q.getLsbD 1 && s.storesOut here then WRes.stall s 0 0
    else if f.q.getLsbD 0 && s.loadsOut here then .stall s 0 0
    else .next (if f.q.getLsbD 1 && bits f.imm 0 3 == 4 then s.releaseMine else s)
  runWord s (gated s
    (if f.sa == 0 then wait s else reading s [f.sa] (fenceList s (s.reg f.sa) wait)))

end Sys2Proof.Machine
end

