-- ==== Sys2Proof/Machine/Barrier.lean ====
section
/-!
DEFINITION. Barrier objects and the barrier words (R275 to R278).
-/
namespace Sys2Proof.Machine

/-- One update of a barrier object (R276): words 0 and 1 before, bytes and arrivals; word 0 after, and whether more came
than the phase expected. -/
def barStep (w0 w1 : Word) (b a : Nat) : Word × Bool :=
  let pend := (bits w0 0 48).toNat
  let arr := (bits w0 48 15).toNat
  let ovf := decide (pend < b) || decide (arr < a)
  if pend - b = 0 && arr - a = 0 then ((~~~(bits w0 63 1)) ++ (bits w1 0 63 : BitVec 63), ovf)
  else (bits w0 63 1 ++ (BitVec.ofNat 15 (arr - a)) ++ (BitVec.ofNat 48 (pend - b)), ovf)

/-- The checks that the barrier words make on the leaf of their page: its HOME (R277). -/
def barPlace (ls : List Word) : Option (BitVec 8 × Word) :=
  if ls.all fun l => lfHome l == 1 || lfHome l == 2 then none else some (0x82, 0)

/-- The access of a barrier word to its object (R277); one that reads it at its home has the C stream's own stores to it
performed first (R233). -/
def barAccess (s : State) (r : Reg) (w : Bool) (k : State → Word → List Nat → List Word → WRes) : WRes :=
  let x := s.reg r
  if bits x 57 7 != 0 then .trap 0x40 x
  else if x.toNat % 16 != 0 then .trap 0x84 0
  else cAccess s x 16 w barPlace fun s locs ls => ueGate s x locs (k (s.performOwn locs) x locs ls)

/-- BINIT (R277): one write of both words, counted as a store (R271); it leaves the full bits as they stand (R177). -/
def execBinit (f : FCR) (s : State) : Out :=
  runWord s (gated s (reading s [f.sa, f.sb, f.sc]
    (barAccess s f.sa true fun s x locs ls =>
      let b := s.reg f.sb
      let a := s.reg f.sc
      if bits b 48 16 != 0 || bits a 15 49 != 0 || (b == 0 && a == 0) then .trap 0x03 0
      else
        let w : Word := (0 : BitVec 1) ++ (bits a 0 15 : BitVec 15) ++ (bits b 0 48 : BitVec 48)
        stServed s x 16 (w.toNat + w.toNat * 2 ^ 64) true locs ls)))

/-- BARRIVE (R276, R277): one arrival at the object's home, counted as a load and as a store. -/
def execBarrive (f : FCR) (s : State) : Out :=
  runWord s (gated s (reading s [f.sa]
    (barAccess s f.sa true fun s x locs ls =>
      moving s ls x (roomL s 1 (roomS s 1
        (let nack := s.reply x.toNat locs true
         let s := if nack.isSome then s else s.crossLines (tileDie s.cur.at_) ls (locs.take 8)
         let n := ofBytes (s.nowBytes locs)
         let w0 := BitVec.ofNat 64 n
         let (w, ovf) := barStep w0 (BitVec.ofNat 64 (n / 2 ^ 64)) 0 1
         let s := s.touch s.myAsid true (pagesOf x.toNat 16)
         let s := s.correct s.cur.at_ locs
         let s := if nack.isSome then s else
           (s.putBytes ((locs.take 8).zip (toBytes 8 w.toNat))).signWrites s s.myBox s.here.rank
         let s := if ovf && !nack.isSome then s.raiseAsync s.myBox s.here.rank 0x81 else s
         let s := s.pushStore [] true [] none locs
         .next (s.flyTo .word [(f.sd, w0)] true nack locs)))))))

/-- PHASE of an object as the tile at issue reads it at its home. -/
def State.phaseAt (s : State) (locs : List Nat) : Bool := ofBytes ((s.getBytes locs).take 8) / 2 ^ 63 % 2 == 1

/-- BWAIT (R277): it stalls until PHASE differs from the phase waited out. -/
def execBwait (f : FCR) (s : State) : Out :=
  runWord s (gated s (reading s [f.sa, f.sb]
    (barAccess s f.sa false fun s x locs _ =>
      match s.reply x.toNat locs true with
      | some r => s.refuse r
      | none =>
        let p := (s.reg f.sb).getLsbD 63
        if s.phaseAt locs != p then .next ((s.correct s.cur.at_ locs).touch s.myAsid false (pagesOf x.toNat 16))
        else .stall s 0x05 ((BitVec.setWidth 64 (bits x 0 57)) ||| (if p then 1 <<< 59 else 0)))))

/-- BTEST (R277): 1 when PHASE differs, else 0; counted as a load. -/
def execBtest (f : FCR) (s : State) : Out :=
  runWord s (gated s (reading s [f.sa, f.sb]
    (barAccess s f.sa false fun s x locs _ =>
      let p := (s.reg f.sb).getLsbD 63
      let v := flagWord (s.phaseAt locs != p)
      let nack := s.reply x.toNat locs true
      let z := (s.correct s.cur.at_ locs).touch s.myAsid false (pagesOf x.toNat 16)
      roomL s 1 (.next (z.flyTo .word [(f.sd, v)] true nack locs)))))

end Sys2Proof.Machine
end

