-- ==== Sys2Proof/Machine/Rings.lean ====
section
/-!
DEFINITION. The rings that the device fills in memory of ASID 0: RAS logs (R379, R398) and notification rings (R386), and the
MSI-X messages that announce them (R381, R386).
-/
namespace Sys2Proof.Machine

/-- Whether a ring of entries `2 ^ log` has room (R379, R386). -/
def ringRoom (log : BitVec 5) (prod cons : BitVec 32) : Bool := (prod - cons).toNat != 2 ^ log.toNat

/-- The VA of the slot that the producer count names. -/
def ringSlot (base : Word) (log : BitVec 5) (prod : BitVec 32) : Word :=
  base + BitVec.ofNat 64 (32 * (prod.toNat % 2 ^ log.toNat))

/-- A record of 32 bytes put in a ring slot by die `die`: none where the ring is set up wrongly or full (R398), or the write
waits; `lo` and `hi` bound LOG and the base is a multiple of `al`. -/
def State.putRing (s : State) (die : Nat) (base : Word) (log : BitVec 5) (prod cons : BitVec 32) (lo hi al : Nat)
    (rec : List Byte) : Option State :=
  if log.toNat < lo || hi < log.toNat || base.toNat % al != 0 || !ringRoom log prod cons
      || s.writeWaits 0 (ringSlot base log prod).toNat 32 then none
  else s.writeFrom die 0 (ringSlot base log prod) rec

/-- The message of MSI-X vector `v` sent, as its entry of the table gives it (R381). -/
def State.sendMsix (s : State) (v : Nat) : State := { s with msixSent := (v, vget (0, 0) s.msixTable v) :: s.msixSent }

/-- MSI-X vector `v` sent, or its pending bit set while it is masked (R386). -/
def State.msix (s : State) (v : Nat) : State :=
  if s.msixMask.getLsbD v then { s with msixPend := setBit s.msixPend v true } else s.sendMsix v

/-- The 32 bytes of a RAS record (R379). -/
def rasBytes (r : RasRecord) : List Byte :=
  toBytes 2 r.code.toNat ++ toBytes 2 r.box ++ toBytes 2 r.unit ++ toBytes 2 0 ++ toBytes 8 r.time.toNat ++ toBytes 16 r.detail

/-- The oldest RAS record of a die that waits written to its log; one that finds no room is counted in RASOVF (R344, R358,
R379, R398). Its TIMEB is that of the report. -/
def State.postRas (s : State) (die : Nat) : State :=
  let d := s.die die
  match d.records with
  | [] => s
  | r :: rest =>
    if s.writeWaits 0 (ringSlot d.ras.base d.ras.log d.ras.prod).toNat 32 then s
    else
      let s := s.updDie die fun d => { d with records := rest }
      match s.putRing die d.ras.base d.ras.log d.ras.prod d.ras.cons 6 16 1 (rasBytes r) with
      | none => s.updDie die fun d => { d with ras := { d.ras with ovf := d.ras.ovf + 1 } }
      | some s => (s.updDie die fun d => { d with ras := { d.ras with prod := d.ras.prod + 1 } }).msix (4 + die)

/-- The locations of a ring's slot at a VA of ASID 0. -/
def State.slotLocs (s : State) (va : Word) : List Nat :=
  match (s.reach 0 va.toNat 32 true).1 with
  | .ok locs _ => locs
  | _ => []

/-- The 32 bytes of a notification (R386). -/
def notifBytes (n : Notif) (time : Word) : List Byte :=
  toBytes 1 n.kind ++ toBytes 1 n.queue ++ toBytes 2 n.box.toNat ++ toBytes 4 n.rank ++ toBytes 8 n.value.toNat
    ++ toBytes 8 time.toNat ++ toBytes 8 0

/-- A notification written to the die's ring and performed at FABRIC, NRPROD advanced and MSI-X vector d sent; none without
room (R386). -/
def State.putNotif (s : State) (die : Nat) (n : Notif) : Option State :=
  let r := (s.die die).nring
  (s.putRing die r.base r.log r.prod r.cons 4 12 4096 (notifBytes n s.timeWord)).map fun s =>
    ((s.shown (s.slotLocs (ringSlot r.base r.log r.prod))).updDie die fun d => { d with nring := { d.nring with prod := d.nring.prod + 1 } }).msix die

end Sys2Proof.Machine
end

