-- ==== Sys2Proof/Machine/Crypto.lean ====
section
/-!
DEFINITION. The cryptographic functions that the spec names by their standards: SHA-256, AES-256 and its XTS mode (R310), HMAC
and HKDF with SHA-256, AES key wrap, and P-256 (R372, R373, R376). They are the functions of FIPS 180-4, FIPS 197, IEEE
1619, RFC 5869, RFC 3394 and FIPS 186-5 (PRESUMED, notes/assumptions/13.md).
-/
namespace Sys2Proof.Machine

/-! ## Byte strings -/

/-- The `n` low bytes of `x`, most significant first. -/
def toBE (n x : Nat) : List Byte := (toBytes n x).reverse

/-- The value of bytes, most significant first. -/
def ofBE (b : List Byte) : Nat := ofBytes b.reverse

/-- A list cut into pieces of `k`, of which there are `n`. -/
def chunks {α : Type} (k : Nat) : Nat → List α → List (List α)
  | 0, _ => []
  | n + 1, l => l.take k :: chunks k n (l.drop k)

/-- Bytes with the exclusive or of two strings. -/
def xorBytes (a b : List Byte) : List Byte := a.zipWith (· ^^^ ·) b

/-! ## SHA-256 -/

/-- The round constants. -/
def shaK : List (BitVec 32) :=
  [0x428A2F98, 0x71374491, 0xB5C0FBCF, 0xE9B5DBA5, 0x3956C25B, 0x59F111F1, 0x923F82A4, 0xAB1C5ED5]
    ++ [0xD807AA98, 0x12835B01, 0x243185BE, 0x550C7DC3, 0x72BE5D74, 0x80DEB1FE, 0x9BDC06A7, 0xC19BF174]
    ++ [0xE49B69C1, 0xEFBE4786, 0x0FC19DC6, 0x240CA1CC, 0x2DE92C6F, 0x4A7484AA, 0x5CB0A9DC, 0x76F988DA]
    ++ [0x983E5152, 0xA831C66D, 0xB00327C8, 0xBF597FC7, 0xC6E00BF3, 0xD5A79147, 0x06CA6351, 0x14292967]
    ++ [0x27B70A85, 0x2E1B2138, 0x4D2C6DFC, 0x53380D13, 0x650A7354, 0x766A0ABB, 0x81C2C92E, 0x92722C85]
    ++ [0xA2BFE8A1, 0xA81A664B, 0xC24B8B70, 0xC76C51A3, 0xD192E819, 0xD6990624, 0xF40E3585, 0x106AA070]
    ++ [0x19A4C116, 0x1E376C08, 0x2748774C, 0x34B0BCB5, 0x391C0CB3, 0x4ED8AA4A, 0x5B9CCA4F, 0x682E6FF3]
    ++ [0x748F82EE, 0x78A5636F, 0x84C87814, 0x8CC70208, 0x90BEFFFA, 0xA4506CEB, 0xBEF9A3F7, 0xC67178F2]

/-- The eight working words. -/
abbrev ShaState := Vector (BitVec 32) 8

/-- The initial hash value. -/
def shaInit : ShaState := #v[0x6A09E667, 0xBB67AE85, 0x3C6EF372, 0xA54FF53A, 0x510E527F, 0x9B05688C, 0x1F83D9AB, 0x5BE0CD19]

/-- The message schedule, latest word first, from the sixteen words of a block, latest first. -/
def shaSchedule : Nat → List (BitVec 32) → List (BitVec 32)
  | 0, w => w
  | n + 1, w =>
    let g := fun (i : Nat) => (w[i]?).getD (0 : BitVec 32)
    let s0 := (g 14).rotateRight 7 ^^^ (g 14).rotateRight 18 ^^^ (g 14 >>> 3)
    let s1 := (g 1).rotateRight 17 ^^^ (g 1).rotateRight 19 ^^^ (g 1 >>> 10)
    shaSchedule n ((g 15 + s0 + g 6 + s1) :: w)

/-- One round with its constant and its schedule word. -/
def shaRound (h : ShaState) (kw : BitVec 32 × BitVec 32) : ShaState :=
  let a := h[0]
  let e := h[4]
  let s1 := e.rotateRight 6 ^^^ e.rotateRight 11 ^^^ e.rotateRight 25
  let ch := (e &&& h[5]) ^^^ (~~~e &&& h[6])
  let t1 := h[7] + s1 + ch + kw.1 + kw.2
  let s0 := a.rotateRight 2 ^^^ a.rotateRight 13 ^^^ a.rotateRight 22
  let maj := (a &&& h[1]) ^^^ (a &&& h[2]) ^^^ (h[1] &&& h[2])
  #v[t1 + s0 + maj, a, h[1], h[2], h[3] + t1, e, h[5], h[6]]

/-- One block of 64 bytes. -/
def shaBlock (h : ShaState) (b : List Byte) : ShaState :=
  let w := (chunks 4 16 b).map fun x => BitVec.ofNat 32 (ofBE x)
  let ws := (shaSchedule 48 w.reverse).reverse
  let r := (shaK.zip ws).foldl shaRound h
  Vector.ofFn fun i => h[i] + r[i]

/-- SHA-256 of a byte string. -/
def sha256 (m : List Byte) : List Byte :=
  let n := m.length
  let p := m ++ [0x80] ++ List.replicate ((119 - n % 64) % 64) 0 ++ toBE 8 (8 * n)
  let h := (chunks 64 (p.length / 64) p).foldl shaBlock shaInit
  h.toList.flatMap fun x => toBE 4 x.toNat

/-- HMAC with SHA-256. -/
def hmac (key m : List Byte) : List Byte :=
  let k := if 64 < key.length then sha256 key else key
  let k := k ++ List.replicate (64 - k.length) 0
  sha256 (k.map (· ^^^ 0x5C) ++ sha256 (k.map (· ^^^ 0x36) ++ m))

/-- HKDF with SHA-256: 32 bytes, no info. -/
def hkdf (salt ikm : List Byte) : List Byte := hmac (hmac salt ikm) [1]

/-! ## AES-256 -/

/-- A field element doubled. -/
def xtime (x : Nat) : Nat := if x < 128 then 2 * x else (2 * x - 256) ^^^ 0x1B

/-- The product of two field elements. -/
def gfMul : Nat → Nat → Nat → Nat
  | 0, _, _ => 0
  | n + 1, a, b => (if b % 2 = 1 then a else 0) ^^^ gfMul n (xtime a) (b / 2)

/-- The inverse of a field element, a^254; 0 for 0. -/
def gfInv (a : Nat) : Nat :=
  let sq := fun x => gfMul 8 x x
  let a2 := sq a
  let a4 := sq a2
  let a8 := sq a4
  let a16 := sq a8
  let a32 := sq a16
  let a64 := sq a32
  let a128 := sq a64
  [a4, a8, a16, a32, a64, a128].foldl (gfMul 8) a2

/-- A byte rotated left. -/
def rotl8 (x k : Nat) : Nat := (x * 2 ^ k + x / 2 ^ (8 - k)) % 256

/-- The S-box. -/
def sboxTable : Vector Byte 256 := Vector.ofFn fun i =>
  let y := gfInv i.val
  BitVec.ofNat 8 (y ^^^ rotl8 y 1 ^^^ rotl8 y 2 ^^^ rotl8 y 3 ^^^ rotl8 y 4 ^^^ 0x63)

/-- The inverse S-box. -/
def invBoxTable : Vector Byte 256 := Vector.ofFn fun i =>
  BitVec.ofNat 8 (((rangeFrom 0 256).find? fun x => vget 0 sboxTable x == BitVec.ofNat 8 i.val).getD 0)

/-- A byte substituted. -/
def subByte (x : Byte) : Byte := vget 0 sboxTable x.toNat

/-- The words of a 256-bit key's schedule, latest first. -/
def aesExpand : Nat → Nat → List (List Byte) → List (List Byte)
  | 0, _, w => w
  | n + 1, i, w =>
    let p := w.headD []
    let t := if i % 8 = 0 then xorBytes ((p.drop 1 ++ p.take 1).map subByte) [BitVec.ofNat 8 (2 ^ (i / 8 - 1)), 0, 0, 0]
      else if i % 8 = 4 then p.map subByte else p
    aesExpand n (i + 1) (xorBytes ((w[7]?).getD []) t :: w)

/-- The fifteen round keys. -/
def roundKeys (key : List Byte) : List (List Byte) :=
  chunks 16 15 (aesExpand 52 8 (chunks 4 8 key).reverse).reverse.flatten

/-- The rows of a block shifted by `k` columns for row 1. -/
def shiftRows (k : Nat) (b : List Byte) : List Byte :=
  (rangeFrom 0 16).map fun i => (b[(i + 4 * k * (i % 4)) % 16]?).getD 0

/-- Each column of a block multiplied by the circulant of `m`. -/
def mixColumns (m : List Nat) (b : List Byte) : List Byte :=
  (rangeFrom 0 16).map fun i =>
    BitVec.ofNat 8 ((rangeFrom 0 4).foldl (fun x j =>
      x ^^^ gfMul 8 ((b[i / 4 * 4 + j]?).getD 0).toNat ((m[(j + 4 - i % 4) % 4]?).getD 0)) 0)

/-- A block enciphered under round keys. -/
def aesEncrypt (ks : List (List Byte)) (b : List Byte) : List Byte :=
  let mid := ((ks.drop 1).take 13).foldl (fun x k => xorBytes (mixColumns [2, 3, 1, 1] (shiftRows 1 (x.map subByte))) k)
    (xorBytes b (ks.headD []))
  xorBytes (shiftRows 1 (mid.map subByte)) ((ks[14]?).getD [])

/-- A block deciphered under round keys. -/
def aesDecrypt (ks : List (List Byte)) (b : List Byte) : List Byte :=
  let inv := fun (x : List Byte) => (shiftRows 3 x).map fun y => vget 0 invBoxTable y.toNat
  let mid := ((ks.drop 1).take 13).reverse.foldl (fun x k => mixColumns [14, 11, 13, 9] (xorBytes (inv x) k))
    (xorBytes b ((ks[14]?).getD []))
  xorBytes (inv mid) (ks.headD [])

/-! ## XTS (R310) -/

/-- A tweak multiplied by x. -/
def xtsNext (t : Nat) : Nat := (2 * t) % 2 ^ 128 ^^^ if 2 ^ 127 ≤ t then 0x87 else 0

/-- The blocks of a data unit through a block function, the tweak moved on after each. -/
def xtsBlocks (f : List Byte → List Byte) : Nat → List (List Byte) → List Byte
  | _, [] => []
  | t, b :: r => xorBytes (f (xorBytes b (toBytes 16 t))) (toBytes 16 t) ++ xtsBlocks f (xtsNext t) r

/-- A data unit of whole blocks under the two key schedules, for the tweak value `i`. -/
def xtsUnit (dec : Bool) (k1 k2 : List (List Byte)) (i : Nat) (d : List Byte) : List Byte :=
  xtsBlocks (if dec then aesDecrypt k1 else aesEncrypt k1) (ofBytes (aesEncrypt k2 (toBytes 16 i)))
    (chunks 16 (d.length / 16) d)

/-! ## AES key wrap -/

/-- One step of the wrap of four words, from A and R1 to R4; `t` counts the steps. -/
def wrapStep (ks : List (List Byte)) (a : List Byte × List (List Byte)) (t : Nat) : List Byte × List (List Byte) :=
  let i := (t - 1) % 4
  let b := aesEncrypt ks (a.1 ++ (a.2[i]?).getD [])
  (xorBytes (b.take 8) (toBE 8 t), updAt (fun _ => b.drop 8) a.2 i)

/-- A key of 32 bytes wrapped into 40. -/
def keyWrap (kek key : List Byte) : List Byte :=
  let (a, r) := (rangeFrom 1 24).foldl (wrapStep (roundKeys kek)) (List.replicate 8 0xA6, chunks 8 4 key)
  a ++ r.flatten

/-- One step of the unwrap. -/
def unwrapStep (ks : List (List Byte)) (a : List Byte × List (List Byte)) (t : Nat) : List Byte × List (List Byte) :=
  let i := (t - 1) % 4
  let b := aesDecrypt ks (xorBytes a.1 (toBE 8 t) ++ (a.2[i]?).getD [])
  (b.take 8, updAt (fun _ => b.drop 8) a.2 i)

/-- A wrapped key of 40 bytes unwrapped; none where the check fails. -/
def keyUnwrap (kek w : List Byte) : Option (List Byte) :=
  let (a, r) := (rangeFrom 1 24).reverse.foldl (unwrapStep (roundKeys kek)) (w.take 8, chunks 8 4 (w.drop 8))
  if a = List.replicate 8 0xA6 then some r.flatten else none

/-! ## P-256 -/

/-- The field prime, the group order, and the curve's coefficient b. -/
def pField : Nat := 0xFFFFFFFF00000001000000000000000000000000FFFFFFFFFFFFFFFFFFFFFFFF
def pOrder : Nat := 0xFFFFFFFF00000000FFFFFFFFFFFFFFFFBCE6FAADA7179E84F3B9CAC2FC632551
def pCoeff : Nat := 0x5AC635D8AA3A93E7B3EBBD55769886BC651D06B0CC53B0F63BCE3C3E27D2604B

/-- A point of the curve; none is the point at infinity. -/
abbrev Point := Option (Nat × Nat)

/-- The base point. -/
def pBase : Point :=
  some (0x6B17D1F2E12C4247F8BCE6E563A440F277037D812DEB33A0F4A13945D898C296,
    0x4FE342E2FE1A7F9B8EE7EB4A7C0F9E162BCE33576B315ECECBB6406837BF51F5)

/-- x^e modulo m, over the low `n` bits of e. -/
def powMod (m : Nat) : Nat → Nat → Nat → Nat
  | 0, _, _ => 1
  | n + 1, x, e =>
    let y := powMod m n (x * x % m) (e / 2)
    if e % 2 = 1 then x * y % m else y

/-- The inverse modulo a prime. -/
def invMod (m x : Nat) : Nat := powMod m 256 (x % m) (m - 2)

/-- Whether a pair of coordinates is a point of the curve. -/
def onCurve (x y : Nat) : Bool :=
  x < pField && y < pField && y * y % pField == (x * x * x + (pField - 3) * x + pCoeff) % pField

/-- The sum of two points. -/
def addPoint (a b : Point) : Point :=
  match a, b with
  | none, b => b
  | a, none => a
  | some (x1, y1), some (x2, y2) =>
    let go := fun (num den : Nat) =>
      let l := num * invMod pField den % pField
      let x3 := (l * l + 2 * pField - x1 - x2) % pField
      some (x3, (l * (x1 + pField - x3) + pField - y1) % pField)
    if x1 = x2 then
      if (y1 + y2) % pField = 0 then none else go (3 * x1 * x1 + (pField - 3)) (2 * y1)
    else go (y2 + pField - y1) (x2 + pField - x1)

/-- A point multiplied by the low `n` bits of k. -/
def mulPoint : Nat → Nat → Point → Point
  | 0, _, _ => none
  | n + 1, k, p =>
    let q := mulPoint n (k / 2) (addPoint p p)
    if k % 2 = 1 then addPoint p q else q

/-- An ECDSA signature of a message by a private scalar with the nonce k. -/
def ecdsaSign (d k : Nat) (m : List Byte) : Nat × Nat :=
  let r := ((mulPoint 256 k pBase).map Prod.fst).getD 0 % pOrder
  (r, invMod pOrder k * (ofBE (sha256 m) + r * d) % pOrder)

/-- Whether a signature of a message verifies under a public key. -/
def ecdsaVerify (x y : Nat) (m : List Byte) (r s : Nat) : Bool :=
  let w := invMod pOrder s
  let u := ofBE (sha256 m) * w % pOrder
  let v := r * w % pOrder
  onCurve x y && 0 < r && r < pOrder && 0 < s && s < pOrder
    && (match addPoint (mulPoint 256 u pBase) (mulPoint 256 v (some (x, y))) with
        | some (a, _) => a % pOrder == r
        | none => false)

/-- The x coordinate that two parties share; none where the peer's key is no point. -/
def ecdh (d x y : Nat) : Option Nat :=
  if onCurve x y then (mulPoint 256 d (some (x, y))).map Prod.fst else none

end Sys2Proof.Machine
end

