-- ==== Sys2Proof/Machine/Codec.lean ====
section
/-!
DEFINITION. The zero/repeated-value coder (R307) and the byte readers and writers of the context image.
-/
namespace Sys2Proof.Machine

/-! ## Writers and readers -/

/-- Bytes filled up with zeros to `n`. -/
def padTo (n : Nat) (b : List Byte) : List Byte := b ++ List.replicate (n - b.length) 0

/-- Bytes filled up with zeros to a multiple of `n`. -/
def padMul (n : Nat) (b : List Byte) : List Byte := b ++ List.replicate ((n - b.length % n) % n) 0

/-- The value of `n` bytes at offset `o`. -/
def getN (b : List Byte) (o n : Nat) : Nat := ofBytes ((b.drop o).take n)

/-! ## The coder (R307) -/

/-- The repeated 8 bytes of a block, if it is one value eight times. -/
def repeated (b : List Byte) : Option (List Byte) :=
  let v := b.take 8
  if (chunks 8 8 b).all (· == v) then some v else none

/-- How many blocks, at most `n`, from the front satisfy `p`. -/
def runLength (p : List Byte → Bool) : Nat → List (List Byte) → Nat
  | 0, _ => 0
  | _, [] => 0
  | n + 1, b :: r => if p b then 1 + runLength p n r else 0

/-- Blocks of 64 bytes coded; which of the encodings that R307 allows is written is a free choice, the one that free value
`k` and those after it pick. The bytes, and the index of the next free value. -/
def encodeRuns : Nat → Nat → List (List Byte) → List Byte × Nat
  | 0, k, _ => ([], k)
  | _, k, [] => ([], k)
  | fuel + 1, k, b :: r =>
    let bs := b :: r
    let zeros := runLength (·.all (· == 0)) 64 bs
    let same := match repeated b with
      | some _ => runLength (· == b) 64 bs
      | none => 0
    let d := Config.freeBits k
    let kind := if 0 < zeros && d % 3 = 0 then 0 else if 0 < same && d % 3 ≤ 1 then 1 else 2
    let most := if kind = 0 then zeros else if kind = 1 then same else min 64 bs.length
    let n := Config.freeBits (k + 1) % most + 1
    let (rest, k') := encodeRuns fuel (k + 2) (bs.drop n)
    let body := match kind with
      | 0 => []
      | 1 => b.take 8
      | _ => (bs.take n).flatten
    (BitVec.ofNat 8 (kind * 64 + n - 1) :: body ++ rest, k')

/-- A raw stream coded: its length is a multiple of 64. -/
def encodeCoded (k : Nat) (raw : List Byte) : List Byte × Nat :=
  let n := raw.length / 64
  encodeRuns n k (chunks 64 n raw)

/-- A coded stream read back to `n` blocks, which its runs must cover exactly; none where they do not, or where a token
is reserved (R307). -/
def decodeRuns : Nat → Nat → List Byte → Option (List Byte)
  | _, 0, b => if b.isEmpty then some [] else none
  | 0, _, _ => none
  | fuel + 1, n, b =>
    match b with
    | [] => none
    | t :: r =>
      let m := t.toNat % 64 + 1
      if n < m then none
      else match t.toNat / 64 with
        | 0 => (decodeRuns fuel (n - m) r).map (List.replicate (64 * m) 0 ++ ·)
        | 1 => if r.length < 8 then none
          else (decodeRuns fuel (n - m) (r.drop 8)).map ((List.replicate (8 * m) (r.take 8)).flatten ++ ·)
        | 2 => if r.length < 64 * m then none else (decodeRuns fuel (n - m) (r.drop (64 * m))).map (r.take (64 * m) ++ ·)
        | _ => none

/-- A coded stream of `n` blocks read back. -/
def decodeCoded (n : Nat) (b : List Byte) : Option (List Byte) := decodeRuns n n b

end Sys2Proof.Machine
end

