-- ==== Sys2Proof/Machine/Queue.lean ====
section
/-!
DEFINITION. Queues: the pools of chains and pairs (R254), publishing commands (R263), and the die-to-die pairs (R249, R264, R265).
-/
namespace Sys2Proof.Machine

/-! ## Pools (R254) -/

/-- A chain as a queue of its die's copy-engine pool. -/
def Chain.queue (c : Chain) : PoolQueue := ⟨c.qmin.toNat, c.qcap.toNat, (c.cmds.filter (!·.finished)).length⟩

/-- A pair's incoming queue; credits are taken when a message is sent (R265). -/
def Pair.queue (p : Pair) : PoolQueue := ⟨p.qmin.toNat, p.qcap.toNat, p.held.length + p.flying.length⟩

/-- The bound chains of a die other than chain `c` of box `b`. -/
def State.otherChains (s : State) (b c : Nat) : List PoolQueue :=
  (s.boxes.filter fun p => boxDie p.1 == boxDie b).flatMap fun p =>
    (indexed p.2.chains).filterMap fun q => if q.2.v && !(p.1 == b && q.1 == c) then some q.2.queue else none

/-- The bound incoming queues of a die other than that of pair `c` of box `b`. -/
def State.otherPairs (s : State) (b c : Nat) : List PoolQueue :=
  (s.boxes.filter fun p => boxDie p.1 == boxDie b).flatMap fun p =>
    (indexed p.2.pairs).filterMap fun q => if q.2.v && !(p.1 == b && q.1 == c) then some q.2.queue else none

/-- Chain `c` of box `b`. -/
def State.chain (s : State) (b c : Nat) : Chain := vget Chain.reset (s.box b).chains c

/-- Chain `c` of box `b` changed. -/
def State.updChain (s : State) (b c : Nat) (f : Chain → Chain) : State :=
  s.updBox b fun x => { x with chains := vupd x.chains c f }

/-- Pair `c` of box `b`. -/
def State.pair (s : State) (b c : Nat) : Pair := vget Pair.reset (s.box b).pairs c

/-- Pair `c` of box `b` changed. -/
def State.updPair (s : State) (b c : Nat) (f : Pair → Pair) : State :=
  s.updBox b fun x => { x with pairs := vupd x.pairs c f }

/-! ## Publishing (R255, R263) -/

/-- Slots of a chain's ring (R255). -/
def Chain.slots (c : Chain) : Nat := 2 ^ (c.logn.toNat + 4)

/-- The VA of ring slot `k` (R255). -/
def Chain.slot (c : Chain) (k : BitVec 32) : Word := c.base + BitVec.ofNat 64 (64 * (k.toNat % c.slots))

/-- Commands published and not fetched. -/
def Chain.waiting (c : Chain) : Nat := (c.tail - c.head).toNat

/-- The beat of tile `t`'s team at which the tile is. -/
def Tile.teamBeat (x : Tile) : Nat := x.beat - x.base

/-- Commands published and, at the start of beat `n` of the team, not fetched: a fetch during the beat or after it has not
been yet (R263). -/
def Chain.waitingAt (c : Chain) (n : Nat) : Nat := c.waiting + (c.fetches.filter (n ≤ ·)).length

/-- `n` commands published on a chain by the context at issue, every store of whose C stream is performed (R240, R261,
R263). -/
def State.publish (s : State) (c n : Nat) : State :=
  let s := s.updChain s.myBox c fun x =>
    { x with tail := x.tail + BitVec.ofNat 32 n, pubs := x.pubs ++ List.replicate n s.here.rank }
  s.updMe (·.incC n)

/-- CEAPP (R263). -/
def execCeapp (f : FCR) (s : State) : Out :=
  let c := (bits f.q 0 3).toNat
  runWord s (gated s
    (let x := s.chain s.myBox c
     if !x.v then .trap 0x65 0
     else reading s [f.sa]
       (let a := s.reg f.sa
        let slot := x.slot x.tail
        if bits a 57 7 != 0 then .trap 0x40 a
        else if a.toNat % 64 != 0 then .trap 0x66 0
        else
          match s.access s.myAsid a.toNat 64 false, s.access s.myAsid slot.toNat 64 true with
          | (.cause e v, _), _ => .trap e (BitVec.ofNat 64 v)
          | _, (.cause e v, _) => .trap e (BitVec.ofNat 64 v)
          | (.absent ps, _), (.absent qs, _) => .park (s.faultPages s.myBox 2 s.cur.at_ (ps ++ qs)) 0x02 0
          | (.absent ps, _), _ => .park (s.faultPages s.myBox 2 s.cur.at_ ps) 0x02 0
          | _, (.absent qs, _) => .park (s.faultPages s.myBox 2 s.cur.at_ qs) 0x02 0
          | (.ok la _, _), (.ok lb ms, _) =>
            if x.slots ≤ x.waitingAt s.here.teamBeat then .next (s.wr f.sd 0 false 1)
            else moving s ms slot (ueGate s a la
              (match (s.reply a.toNat la true).or (s.reply slot.toNat lb false) with
              | some r => s.refuse r
              | none =>
                let b := la.map (s.ownByte s.cur.at_)
                let s := (s.performAll s.cur.at_).correct s.cur.at_ la
                let s := s.ceasePages s.myBox (pageBases a.toNat 64 ++ pageBases slot.toNat 64)
                let s := (s.touch s.myAsid false (pagesOf a.toNat 64)).touch s.myAsid true (pagesOf slot.toNat 64)
                let s := s.crossLines (tileDie s.cur.at_) ms lb
                let s := (s.putBytes (lb.zip b)).signWrites s s.myBox s.here.rank
                .next ((s.publish c 1).wr f.sd 1 false 1))))))

/-- CETAIL (R263). -/
def execCetail (f : FCR) (s : State) : Out :=
  let c := (bits f.q 0 3).toNat
  runWord s (gated s
    (let x := s.chain s.myBox c
     if !x.v then .trap 0x65 0
     else reading s [f.sa]
       (let n := (s.reg f.sa).toNat
        if x.slots < n then .trap 0x64 0
        else if x.slots < x.waitingAt s.here.teamBeat + n then .next (s.wr f.sd 0 false 1)
        else .next (((s.performAll s.cur.at_).publish c n).wr f.sd 1 false 1))))

/-! ## Pairs (R264, R265) -/

/-- The sequence number after `x`; 0 is never taken (R264). -/
def nextSeq (x : BitVec 32) : BitVec 32 := BitVec.ofNat 32 (x.toNat % (2 ^ 32 - 1) + 1)

/-- The pair of a queue word, bound (R265). -/
def onPair (s : State) (f : FCR) (k : Nat → Pair → WRes) : WRes :=
  let p := (bits f.q 0 3).toNat
  gated s (if (s.pair s.myBox p).v then k p (s.pair s.myBox p) else .trap 0x69 0)

/-- QSEND (R249, R265): it waits until every store of its C stream is performed, then sends if the peer's incoming queue
has an entry. -/
def execQsend (f : FCR) (s : State) : Out :=
  runWord s (onPair s f fun p x => reading s [f.sa, f.sb]
    (if s.storesOut then .stall s 0 0
     else
       let b := x.pbox.toNat
       let c := x.ppair.toNat
       if !mayTake 4096 (s.pair b c).queue (s.otherPairs b c) then .next (s.wr f.sd 0 false 1)
       else
         let m : Msg := ⟨s.reg f.sa, bits (s.reg f.sb) 0 32, x.sseq⟩
         let s := s.updPair s.myBox p fun y => { y with sseq := nextSeq y.sseq }
         let s := s.updPair b c fun y => { y with flying := y.flying ++ [m] }
         .next (s.wr f.sd (BitVec.setWidth 64 x.sseq) false 1)))

/-- The message that a receive takes, removed from its queue, with its values on their way to sd and sd + 1 (R265). -/
def receive (s : State) (f : FCR) (p : Nat) (empty : WRes) : WRes :=
  if f.sd == 0 || f.sd == 15 || f.sd == 31 then .trap 0x03 0
  else
    let x := s.pair s.myBox p
    match x.held.find? (·.seq == x.rseq) with
    | none => empty
    | some m =>
      let s := s.updPair s.myBox p fun y => { y with held := y.held.filter (· != m), rseq := nextSeq y.rseq }
      .next (s.flyTo .word [(f.sd, m.w0), (f.sd + 1, m.seq ++ m.w1)] false none)

/-- QRECV (R265). -/
def execQrecv (f : FCR) (s : State) : Out :=
  runWord s (onPair s f fun p _ => receive s f p (.stall s 0x07 (BitVec.ofNat 64 p)))

/-- QPOLL (R265). -/
def execQpoll (f : FCR) (s : State) : Out :=
  runWord s (onPair s f fun p _ => receive s f p (.next (s.flyTo .word [(f.sd, 0), (f.sd + 1, 0)] false none)))

/-- A message reaches the receiving end: it is held, and its event set (R264, R290). -/
def execQueueMessageArrival (box : Nat) (pair : Nat) (s : State) : Out :=
  match (s.pair box pair).flying with
  | [] => .next { s with last := .event }
  | ms =>
    let (n, s) := s.draw
    let i := n % ms.length
    let s := s.updPair box pair fun p =>
      { p with flying := ms.eraseIdx i, held := p.held ++ (ms[i]?).toList }
    .next { s.setEvent box (2 + pair) with last := .event }

end Sys2Proof.Machine
end

