-- ==== Sys2Proof/Machine/Copy.lean ====
section
/-!
DEFINITION. The copy engines: commands and their check (R257 to R259), pieces (R258, R260), completion and the sequence
word (R259, R261), stops and their fault records (R262, R266, R267).
-/
namespace Sys2Proof.Machine

/-! ## Commands (R257) -/

/-- Bits `lo` to `lo + n - 1` of a command. -/
def Cmd.fld (c : Cmd) (lo n : Nat) : Nat := nbits c.raw.toNat lo n

/-- A field as a signed value. -/
def signed (n x : Nat) : Int := (BitVec.ofNat n x).toInt

def Cmd.op (c : Cmd) : Nat := c.fld 56 8
def Cmd.nm1 (c : Cmd) : Nat := c.fld 52 4
/-- Element bytes. -/
def Cmd.esz (c : Cmd) : Nat := 2 ^ c.fld 50 2
def Cmd.lay (c : Cmd) : Nat := c.fld 47 3
def Cmd.nf (c : Cmd) : Bool := c.raw.getLsbD 46
def Cmd.fe (c : Cmd) : Bool := c.raw.getLsbD 45
def Cmd.bar (c : Cmd) : Bool := c.raw.getLsbD 44
def Cmd.ord (c : Cmd) : Bool := c.raw.getLsbD 43
def Cmd.src (c : Cmd) : Nat := c.fld 64 64
def Cmd.dst (c : Cmd) : Nat := c.fld 128 64
def Cmd.baraddr (c : Cmd) : Nat := c.fld 192 57
def Cmd.idx (c : Cmd) : Nat := c.fld 256 64
def Cmd.extva (c : Cmd) : Nat := c.fld 320 64
/-- Bytes of a row of dimension 0. -/
def Cmd.row (c : Cmd) : Nat := (c.fld 424 24 + 1) * c.esz

/-- Dimensions 1 to NM1: count, source stride, destination stride, dimension 1 first. -/
def Cmd.dims (c : Cmd) : List (Nat × Int × Int) :=
  if c.nm1 = 0 then [] else (c.fld 496 16 + 1, signed 24 (c.fld 472 24), signed 24 (c.fld 448 24)) :: c.ext

/-- The dimensions that an extension block describes, 16 bytes each; none where its reserved bits are not zero. -/
def extDims : Nat → List Byte → Option (List (Nat × Int × Int))
  | 0, _ => some []
  | n + 1, b =>
    let w0 := ofBytes (b.take 8)
    let w1 := ofBytes ((b.drop 8).take 8)
    if w1 / 2 ^ 48 != 0 then none
    else (extDims n (b.drop 16)).map ((w0 / 2 ^ 48 + 1, signed 48 (w0 % 2 ^ 48), signed 48 (w1 % 2 ^ 48)) :: ·)

/-- The checks of R259 that need no memory. -/
def Cmd.sound (c : Cmd) : Bool :=
  let op := c.op
  (1 ≤ op && op ≤ 4)
    && c.fld 384 40 == 0 && c.fld 249 7 == 0 && c.fld 185 7 == 0 && c.fld 121 7 == 0 && c.fld 0 43 == 0
    && c.lay ≤ 4 && c.nm1 ≤ 11
    && (if 2 ≤ c.nm1 then c.extva != 0 && c.extva % 8 == 0 else c.extva == 0)
    && (op != 2 || c.nm1 != 0)
    && (if c.bar then c.baraddr % 16 == 0 else c.baraddr == 0)
    && (op != 3 || (c.src == 0 && c.lay == 0 && !c.fe && c.idx / 2 ^ (8 * c.esz) == 0))
    && (c.nm1 != 0 || c.fld 448 64 == 0)
    && (op == 2 || op == 3 || c.idx == 0)

/-! ## Pieces (R258, R260) -/

/-- The rows of the index space, dimension 0 left out: source, destination and the outermost index, dimension 1 varying
fastest. Under GATHER the outermost term of the source is left out. -/
def rowsFrom (gather : Bool) (s d : Int) : List (Nat × Int × Int) → List (Int × Int × Nat)
  | [] => [(s, d, 0)]
  | (n, ss, ds) :: r =>
    (rangeFrom 0 n).flatMap fun (i : Nat) =>
      let s' := if gather then s else s + i * ss
      (rowsFrom false s' (d + i * ds) r).map fun q => (q.1, q.2.1, i)

/-- The rows of a command in index order. -/
def Cmd.rows (c : Cmd) : List (Int × Int × Nat) := rowsFrom (c.op == 2) c.src c.dst c.dims.reverse

/-- Runs of rows that go on from each other in source and destination, and under GATHER share their index (R260). -/
def joinRuns (c : Cmd) : List (Int × Int × Nat) → List Piece
  | [] => []
  | (s, d, i) :: r =>
    let gi := if c.op = 2 then some i else none
    match joinRuns c r with
    | p :: ps =>
      if p.dst == d + c.row && (c.op == 3 || p.src == s + c.row) && p.gi == gi then ⟨s, d, c.row + p.n, gi, 0, 0⟩ :: ps
      else ⟨s, d, c.row, gi, 0, 0⟩ :: p :: ps
    | [] => [⟨s, d, c.row, gi, 0, 0⟩]

/-- A run cut at the 4 KiB boundaries of its destination, and of its source where `bySrc` (R260). -/
def cutRun (esz row : Nat) (bySrc : Bool) : Nat → Piece → List Piece
  | 0, _ => []
  | fuel + 1, p =>
    if p.n = 0 then []
    else
      let k := min p.n (4096 - (p.dst % 4096).toNat)
      let k := if bySrc then min k (4096 - (p.src % 4096).toNat) else k
      { p with n := k } ::
        cutRun esz row bySrc fuel ⟨p.src + k, p.dst + k, p.n - k, p.gi, (p.phase + k) % esz, (p.off + k) % row⟩

/-- The pieces of a command (R260); a GATHER's are cut by source when they read their index word. -/
def Cmd.pieces (c : Cmd) : List Piece :=
  if c.op = 4 then []
  else (joinRuns c c.rows).flatMap fun p => cutRun c.esz c.row (c.op == 1) (p.n + 1) p

/-- Piece `j` of a command: one of its own, or one that a GATHER cut later. -/
def Cmd.piece (c : Cmd) (j : Nat) : Option Piece := (c.pieces ++ c.extra)[j]?

/-- Whether every piece is done or abandoned. -/
def Cmd.over (c : Cmd) : Bool := c.done.length == c.pieces.length + c.extra.length

/-! ## Completion and the sequence word (R259, R261) -/

/-- The commands at the head of a chain that have completed leave it; ERR is sticky. -/
def Chain.settle (c : Chain) : Chain :=
  let n := c.cmds.takeWhile (·.finished)
  { c with
    cmds := c.cmds.drop n.length, err := c.err || n.any (·.err), complete := c.complete + n.length }

/-- Whether a record of kind 8 of chain `c` stands, or an access of its engine waits for one (R267). -/
def State.engineHeld (s : State) (b c : Nat) : Bool :=
  (s.chain b c).ninth || (s.box b).faults.any fun r => r.kind == 8 && r.chain == c

/-- An access of the engine's own to `n` bytes at `va` fails: a negative reply is logged, and a record of kind 8 posted, or
the chain waits until one of the box's eight has ceased (R219, R267). -/
def State.engineFault (s : State) (b c va n : Nat) (w : Bool) (page : Word) : State :=
  let e := (s.chain b c).eng.toNat
  let s := s.logReply (boxDie b) b (unitCe e) (s.box b).asid.toNat va n w
  let s := s.fault b 8 0xFF e c page 0
  if (s.box b).faults.any fun r => r.kind == 8 && r.chain == c then s
  else s.updChain b c fun x => { x with ninth := true }

/-- The page of an address. -/
abbrev pageVa (va : Nat) : Word := BitVec.ofNat 64 (va / 65536 * 65536)

/-- Whether a write of copy engine `e` waits for the order of the engines at a tile (R237). -/
def State.engineLate (s : State) (e asid va n : Nat) : Bool :=
  match (s.reach asid va n true).1 with
  | .ok locs _ => locs.any (s.outOfOrder e)
  | _ => false

/-- The sequence word of chain `c` of box `b` written for what has completed, its event set; an access that fails posts a
record of kind 8, and one waits that goes to a page under move, to a stack in forced self-refresh, or to a tile whose beat or
whose engines come first (R213, R219, R237, R259, R267, R290). -/
def State.writeSeq (s : State) (b c : Nat) : State :=
  let x := s.chain b c
  let asid := (s.box b).asid.toNat
  let va := x.seqaddr.toNat
  let e := x.eng.toNat
  if x.reported = x.complete || !x.v || s.engineHeld b c || s.writeWaits asid va 8 || s.engineLate e asid va 8 then s
  else
    let w := BitVec.ofNat 64 (x.complete % 2 ^ 32 + if x.err then 2 ^ 63 else 0)
    match s.writeFrom (boxDie b) asid x.seqaddr (toBytes 8 w.toNat) (fill := true) (by_ := e + 1) with
    | none => s.engineFault b c va 8 true (pageVa va)
    | some s => (s.updChain b c fun y => { y with reported := y.complete }).setEvent b (10 + c)

/-- What follows a change of a chain's commands. -/
def State.settleChain (s : State) (b c : Nat) : State := (s.updChain b c Chain.settle).writeSeq b c

/-- Command `k` of a chain changed. -/
def State.updCmd (s : State) (b c k : Nat) (f : Cmd → Cmd) : State :=
  s.updChain b c fun x => { x with cmds := x.cmds.map fun m => if m.k = k then f m else m }

/-- A command completes: its publisher's copy counter falls (R261). -/
def State.finishCmd (s : State) (b c : Nat) (m : Cmd) (err : Bool) : State :=
  let s := s.updCmd b c m.k fun y => { y with finished := true, err := y.err || err }
  (s.updRank b m.rank Ctx.decC).settleChain b c

/-- A command that fails its check, or a later one (R259): ERR at once, and CE_BADCMD on its publisher. -/
def State.badCmd (s : State) (b c : Nat) (m : Cmd) : State :=
  (s.raiseAsync b m.rank 0x67).finishCmd b c m true

/-! ## CE_FETCH (R256, R258, R259) -/

/-- Whether the engine may fetch the next command of a chain: the chain is bound and not stopped, its context is neither
swapped out nor halted for migration, commands wait, the pool gives an entry, and no access of the engine's own waits
(R256, R267, R269). -/
def State.mayFetch (s : State) (b c : Nat) : Bool :=
  let x := s.chain b c
  x.v && !x.stopped && x.head != x.tail && !(s.box b).stopping && (s.box b).state != .swapped
    && mayTake 8192 x.queue (s.otherChains b c) && !s.engineHeld b c

/-- The beats of its team at which the tiles of a running box are. -/
def State.teamBeats (s : State) (b : Nat) : List Nat :=
  if (s.box b).state = .running then (s.box b).tiles.map fun t => (s.tile t).teamBeat else []

/-- A chain's fetches noted with one more, at the latest beat of any tile of the team; those before the earliest one's beat
are over for every word (R263). -/
def Chain.noteFetch (c : Chain) (beats : List Nat) : List Nat :=
  match beats with
  | [] => []
  | n :: l => c.fetches.filter (l.foldl min n ≤ ·) ++ [l.foldl max n]

/-- The fetch of a command whose 512 bits are `raw` and whose extension block is read (R256). -/
def State.takeCmd (s : State) (b c : Nat) (raw : BitVec 512) (ext : Option (List (Nat × Int × Int))) : State :=
  let x := s.chain b c
  let m : Cmd := ⟨x.complete + x.cmds.length, raw, x.pubs.headD 0, ext.getD [], [], false, false, false, [], [], []⟩
  let s := s.updChain b c fun y => 
    { y with head := y.head + 1, pubs := y.pubs.tail, cmds := y.cmds ++ [m], fetches := y.noteFetch (s.teamBeats b) }
  let rowsBad := (1 ≤ m.lay && m.lay ≤ 3) && (m.op == 1 || m.op == 2)
    && (m.row != 4096 || (m.op == 1 && m.rows.any fun r => r.1 % 4096 != 0))
  if !m.sound || ext.isNone || rowsBad then s.badCmd b c m else s

/-- CE_FETCH (R256): the command at HEAD into a pool entry, with its extension block. -/
def execCeFetch (box : Nat) (chain : Nat) (s : State) : Out :=
  let s := ({ s with last := .event } : State).writeSeq box chain
  let x := s.chain box chain
  let asid := (s.box box).asid.toNat
  let slot := x.slot x.head
  let unit := unitCe x.eng.toNat
  if !s.mayFetch box chain || s.mustWait asid slot.toNat 64 false then .next s
  else
    match s.readVa asid slot 64 with
    | none => .next (s.engineFault box chain slot.toNat 64 false (pageVa slot.toNat))
    | some bs =>
      let s := s.didRead (boxDie box) box unit asid slot.toNat 64
      let raw := BitVec.ofNat 512 (ofBytes bs)
      let m : Cmd := ⟨0, raw, 0, [], [], false, false, false, [], [], []⟩
      if m.sound && 2 ≤ m.nm1 then
        let n := 16 * (m.nm1 - 1)
        match s.reach asid m.extva n false with
        | (.absent ps, s) => .next (s.engineFault box chain m.extva n false (pageVa (ps.headD 0)))
        | (.cause _ _, s) => .next (s.takeCmd box chain raw none)
        | (.ok locs _, s) =>
          if s.held locs then .next s
          else match s.readVa asid (BitVec.ofNat 64 m.extva) n with
            | none => .next (s.engineFault box chain m.extva n false (pageVa m.extva))
            | some ext =>
              .next ((s.didRead (boxDie box) box unit asid m.extva n).takeCmd box chain raw (extDims (m.nm1 - 1) ext))
      else .next (s.takeCmd box chain raw (some []))

/-! ## PIECE (R258, R260, R262) -/

/-- Whether command `k` of a chain has started: no earlier ORD of its chain holds it (R256). -/
def started (cmds : List Cmd) (k : Nat) : Bool :=
  cmds.all fun m => !(m.ord && decide (m.k ≤ k)) || cmds.all fun e => decide (m.k ≤ e.k) || e.finished

/-- Whether command `m` may start: it is fetched and sound, every earlier command has started, and ORD does not hold it
(R256). A MARK has no piece to start. -/
def startable (cmds : List Cmd) (m : Cmd) : Bool :=
  !m.begun && !m.finished && m.op != 4 && started cmds m.k
    && cmds.all fun e => decide (m.k ≤ e.k) || e.begun || e.finished || e.op == 4

/-- The chains of a die's copy engine `e` that have a command to start, as 8 box + chain, rising (R256). -/
def State.starting (s : State) (die e : Nat) : List Nat :=
  (s.boxes.filter fun p => boxDie p.1 == die).flatMap fun p =>
    (indexed p.2.chains).filterMap fun q =>
      if q.2.eng.toNat == e && q.2.cmds.any (startable q.2.cmds) then some (8 * p.1 + q.1) else none

/-- Whether it is a chain's turn at its engine: the chains with a command to start are served in rotation, one command a
turn (R256). -/
def State.chainTurn (s : State) (b c : Nat) : Bool :=
  let e := (s.chain b c).eng.toNat
  let l := s.starting (boxDie b) e
  let past := sget 0 (s.die (boxDie b)).turns e
  (l.find? (past ≤ ·)).getD (l.headD 0) == 8 * b + c

/-- A command started in its chain's turn. -/
def State.beginCmd (s : State) (b c : Nat) (m : Cmd) : State :=
  (s.updCmd b c m.k fun y => { y with begun := true }).updDie (boxDie b) fun d =>
    { d with turns := sput 0 d.turns (s.chain b c).eng.toNat (8 * b + c + 1) }

/-- The source byte of a 4 KiB granule that goes to reply offset `o` under a layout (R218). -/
def layoutSrc (lay o : Nat) : Nat :=
  match lay with
  | 0 => o
  | 1 => 64 * (o % 64) + o / 64
  | 2 => 2 * (64 * (o / 2 % 32) + o / 2 / 32) + o % 2
  | _ => 64 * (8 * (o / 512) + o / 8 % 8) + 8 * (o / 64 % 8) + o % 8

/-- A piece stopped on a page with a record of its kind; where eight records of the box are outstanding it posts none, and
is held until one ceases (R262, R267). -/
def State.stopPiece (s : State) (b c : Nat) (m : Cmd) (j kind : Nat) (page : Word) : State :=
  let s := s.fault b kind 0xFF (s.chain b c).eng.toNat c page (BitVec.ofNat 32 m.k)
  if (s.box b).faults.any fun r => recFamily r.kind == 1 && r.page == page then
    s.updCmd b c m.k fun y => { y with stopped := (j, page) :: y.stopped }
  else s.updCmd b c m.k fun y => { y with ninth := j :: y.ninth }

/-- Piece `j` done or abandoned; the command completes with its last piece (R261). -/
def State.pieceOver (s : State) (b c k j : Nat) (err : Bool) : State :=
  let s := s.updCmd b c k fun y => { y with done := j :: y.done, err := y.err || err }
  match (s.chain b c).cmds.find? (·.k == k) with
  | none => s
  | some m => if m.over && !m.finished then s.finishCmd b c m false else s

/-- The barrier object of a piece where its arrival is applied: its locations and leaves (R276). -/
def State.barSide (s : State) (asid va : Nat) : Option (List Nat × List Word) :=
  match (s.reach asid va 16 true).1 with
  | .ok locs ls => if (barPlace ls).isSome then none else some (locs, ls)
  | _ => none

/-- An arrival of `n` bytes by copy engine `e` on a barrier object for rank `r` of box `b` (R9, R276). -/
def State.arrive (s : State) (e b r va n : Nat) : State :=
  let asid := (s.box b).asid.toNat
  match s.barSide asid va with
  | none => s.raiseAsync b r 0x83
  | some (locs, ls) =>
    let s := s.crossLines (boxDie b) ls (locs.take 8)
    let x := ofBytes (s.nowBytes locs)
    let (w, ovf) := barStep (BitVec.ofNat 64 x) (BitVec.ofNat 64 (x / 2 ^ 64)) n 0
    let s := (s.touch asid true [va]).putBytes ((locs.take 8).zip (toBytes 8 w.toNat)) (e + 1)
    if ovf then s.raiseAsync b r 0x81 else s

/-- A source or destination of a piece, translated: the failing page, or its locations and leaves (R260, R262). -/
def State.pieceSide (s : State) (asid : Nat) (va n : Nat) (w : Bool) : Option (List Nat × List Word) :=
  match (s.reach asid va n w).1 with
  | .ok l ls => some (l, ls)
  | _ => none

/-- Bytes moved one by one by copy engine `e` where a piece overlaps itself: each takes the source byte as it stood, or as the
piece has left it, by a free choice (R258). -/
def State.moveOverlap (s : State) (e : Nat) : List (Nat × Byte × Nat) → State
  | [] => s
  | (src, old, dst) :: r =>
    let (n, s) := s.draw
    (s.putByte dst (if n % 2 = 0 then old else s.mem.read src) (e + 1)).moveOverlap e r

/-- What stops a piece at locations that it reads: an uncorrectable error of a tile's SRAM, or a negative reply, with the
kind of record, the page, and the reply's reason (R262, R383). -/
def State.readStop (s : State) (va : Nat) (locs : List Nat) : Option (Nat × Word × Option Nat) :=
  if (s.sramUe locs).isSome then some (6, pageVa va, none)
  else (s.reply va locs true).map fun r => (7, pageVa va, some r.1)

/-- What stops a piece at locations that it writes: a negative reply (R262, R383). -/
def State.writeStop (s : State) (va : Nat) (locs : List Nat) : Option (Nat × Word × Option Nat) :=
  (s.reply va locs false).map fun r => (7, pageVa va, some r.1)

/-- A piece stopped as `readStop` or `writeStop` says; a negative reply is logged (R219, R262). -/
def State.stopRead (s : State) (b c : Nat) (m : Cmd) (j : Nat) (x : Nat × Word × Option Nat) : State :=
  (match x.2.2 with
    | some r => s.nackLog (boxDie b) b (unitCe (s.chain b c).eng.toNat) r
    | none => s).stopPiece b c m j x.1 x.2.1

/-- The locations that a piece's source read takes: its bytes, or under a layout the granule (R218, R258). -/
def State.sourceLocs (s : State) (p : Piece) (f : List Nat × List Word × Nat) : List Nat :=
  if f.2.2 = 0 then f.1
  else (rangeFrom ((p.src / 4096 * 4096).toNat) 4096).map fun a => ((f.2.1.head?).bind (s.byteLoc · a)).getD 0

/-- The location of each byte that a piece moves, in order (R218, R258). -/
def State.sourceAt (s : State) (p : Piece) (f : List Nat × List Word × Nat) : List Nat :=
  if f.2.2 = 0 then f.1
  else
    let g := s.sourceLocs p f
    (rangeFrom (p.src % 4096).toNat p.n).map fun o => g.getD (layoutSrc f.2.2 o) 0

/-- The bytes that a piece moves, from its source or from a FILL's value (R258). -/
def State.pieceData (s : State) (m : Cmd) (p : Piece) (from_ : Option (List Nat × List Word × Nat)) : List Byte :=
  match from_ with
  | none => (rangeFrom 0 p.n).map fun i => (toBytes m.esz m.idx).getD ((p.phase + i) % m.esz) 0
  | some f => s.getBytes (s.sourceAt p f)

/-- A piece whose pages are translated (R258, R260, R262): it waits on a page under move, an empty granule that it reads, a
stack in forced self-refresh, or a tile whose beat or whose engines come first; else it moves its data with full bits and
arrives on its barrier. -/
def State.movePiece (s : State) (b c : Nat) (m : Cmd) (j : Nat) (p : Piece) (from_ : Option (List Nat × List Word × Nat))
    (dsts : List Nat) (toLs : List Word) : State :=
  let asid := (s.box b).asid.toNat
  let e := (s.chain b c).eng.toNat
  let srcLocs := (from_.map (s.sourceAt p ·)).getD []
  let reads := (from_.map (s.sourceLocs p ·)).getD []
  let bar := if m.bar then (s.barSide asid m.baraddr).getD ([], []) else ([], [])
  if toLs.any lfMv || bar.2.any lfMv || s.held (reads ++ dsts ++ bar.1) || (dsts ++ bar.1).any (s.outOfOrder e) then s
  else if m.fe && reads.any (s.emptyAt ·) then s
  else match (s.readStop p.src.toNat reads).or ((s.writeStop p.dst.toNat dsts).or (s.readStop m.baraddr bar.1)) with
    | some x => s.stopRead b c m j x
    | none =>
      let s := s.crossLines (boxDie b) toLs dsts
      let data := s.pieceData m p from_
      let s := s.correctBy (boxDie b) b (unitCe e) (reads ++ bar.1)
      let s := if from_.isSome then s.touch asid false [p.src.toNat] else s
      let s := s.touch asid true [p.dst.toNat]
      let s :=
        if srcLocs.any (dsts.contains ·) then s.moveOverlap e (srcLocs.zip (data.zip dsts))
        else s.putBytes (dsts.zip data) (e + 1)
      let s := if m.nf then s else s.fillLocs true dsts (e + 1)
      let s := if m.bar then s.arrive e b m.rank m.baraddr p.n else s
      s.pieceOver b c m.k j false

/-- A piece with its source address known (R260 steps 1 to 4). -/
def State.runPiece (s : State) (b c : Nat) (m : Cmd) (j : Nat) (p : Piece) : State :=
  let asid := (s.box b).asid.toNat
  let page := fun (va : Int) => (BitVec.ofInt 64 va &&& ~~~0xFFFF : Word)
  let outside := fun (va : Int) => decide (va < 0) || decide ((2 : Int) ^ 57 < va + p.n)
  if outside p.dst || (m.op != 3 && outside p.src) then s.badCmd b c m
  else
    let src := if m.op = 3 then some none else
      (s.pieceSide asid p.src.toNat p.n false).map fun f =>
        some (f.1, f.2, if m.lay = 4 then (lfLayout (f.2.headD 0)).toNat else m.lay)
    match src with
    | none => s.stopPiece b c m j 3 (page p.src)
    | some f =>
      if f.any fun f => f.2.2 != 0 && (m.row != 4096 || (p.src - p.off) % 4096 != 0) then s.badCmd b c m
      else match s.pieceSide asid p.dst.toNat p.n true with
        | none => s.stopPiece b c m j 4 (page p.dst)
        | some t => s.movePiece b c m j p f t.1 t.2

/-- The pieces a GATHER cuts when it has read an index word, run in turn. -/
def State.runPieces (s : State) (b c k : Nat) : Nat → List Piece → State
  | _, [] => s
  | j, p :: r =>
    match (s.chain b c).cmds.find? (·.k == k) with
    | some m => if m.finished then s else (s.runPiece b c m j p).runPieces b c k (j + 1) r
    | none => s

/-- A GATHER's piece reads the index word of its own iD, and is cut by its source (R258, R260, R262). -/
def State.gatherPiece (s : State) (b c : Nat) (m : Cmd) (j : Nat) (p : Piece) (i : Nat) : State :=
  let asid := (s.box b).asid.toNat
  let va := m.idx + 4 * i
  match s.reach asid va 4 false with
  | (.cause _ _, _) => s.badCmd b c m
  | (.absent ps, _) => s.stopPiece b c m j 3 (pageVa (ps.headD 0))
  | (.ok locs _, s) =>
    if s.held locs then s
    else match s.readStop va locs with
      | some x => s.stopRead b c m j x
      | none =>
        let s := s.didRead (boxDie b) b (unitCe (s.chain b c).eng.toNat) asid va 4
        let ss := ((m.dims.getLast?).map (·.2.1)).getD 0
        let q : Piece := { p with src := p.src + ofBytes (s.getBytes locs) * ss, gi := none }
        let qs := cutRun m.esz m.row true (q.n + 1) q
        let first := m.pieces.length + m.extra.length
        let s := s.updCmd b c m.k fun y => { y with done := j :: y.done, extra := y.extra ++ qs }
        s.runPieces b c m.k first qs

/-- PIECE (R260): piece `j` of command `k` runs, if its command has started or starts with it in its chain's turn, and the
piece is neither done, stopped nor held (R256). -/
def execPiece (box : Nat) (chain : Nat) (k : Nat) (j : Nat) (s : State) : Out :=
  let s := { s with last := .event }
  let x := s.chain box chain
  match x.cmds.find? (·.k == k) with
  | none => .next s
  | some m =>
    let starts := startable x.cmds m && s.chainTurn box chain
    if m.finished || !(m.begun || starts) || m.done.contains j || m.stopped.any (·.1 == j) || m.ninth.contains j then .next s
    else match m.piece j with
      | none => .next s
      | some p =>
        let s := if m.begun then s else s.beginCmd box chain m
        match p.gi with
        | some i => .next (s.gatherPiece box chain m j p i)
        | none => .next (s.runPiece box chain m j p)

/-- MARK (R261): it completes when every earlier command of its chain has. -/
def execMark (box : Nat) (chain : Nat) (k : Nat) (s : State) : Out :=
  let s := { s with last := .event }
  let x := s.chain box chain
  match x.cmds.find? (·.k == k) with
  | none => .next s
  | some m =>
    if m.op = 4 && !m.finished && x.cmds.all fun e => decide (k ≤ e.k) || e.finished then
      .next (s.finishCmd box chain m false)
    else .next s

/-! ## Fault records retired (R262, R267) -/

/-- The record that FRRET names at a core (R267). -/
def State.findRecord (s : State) (die core idx : Nat) : Option FaultRec :=
  s.boxes.findSome? fun p => p.2.faults.find? fun r => r.ring == some (die, core, idx)

/-- A record of kind 3, 4, 6, 7 or 8 retired; any other use of FRRET is stray (R267). -/
def State.retire (s : State) (die core idx : Nat) (k : State → FaultRec → State) : Out :=
  let s := { s with last := .event }
  match s.findRecord die core idx with
  | none => .next (s.ras die 0xD7 0xFFFF unitFront idx)
  | some r =>
    if recFamily r.kind = 0 then .next (s.ras die 0xD7 0xFFFF unitFront idx)
    else .next (k (s.cease r.box (· == r)) r)

/-- FRRET RESUME (R267): every piece stopped on the record's page may run again; the engine's own access is made again. -/
def execFrretResume (die : Nat) (core : Nat) (idx : Nat) (s : State) : Out :=
  s.retire die core idx fun s r =>
    if r.kind = 8 then s.writeSeq r.box r.chain
    else s.updBox r.box fun x =>
      { x with chains := x.chains.map fun c =>
          { c with cmds := c.cmds.map fun m => { m with stopped := m.stopped.filter (·.2 != r.page) } } }

/-- The pieces of one command that are stopped on a page abandoned (R262). -/
def State.abandon (s : State) (b c : Nat) (m : Cmd) (page : Word) : State :=
  let js := (m.stopped.filter (·.2 == page)).map (·.1)
  if js.isEmpty then s
  else
    let s := s.updCmd b c m.k fun y => { y with stopped := y.stopped.filter (·.2 != page) }
    let s := s.raiseAsync b m.rank 0x68
    js.foldl (fun s j => s.pieceOver b c m.k j true) s

/-- FRRET CANCEL (R262, R267): the stopped pieces are abandoned; under kind 8 the chain stops fetching, and a sequence
write that the record holds is given up. -/
def execFrretCancel (die : Nat) (core : Nat) (idx : Nat) (s : State) : Out :=
  s.retire die core idx fun s r =>
    if r.kind = 8 then
      s.updChain r.box r.chain fun c =>
        { c with stopped := true, reported := if c.seqaddr &&& ~~~0xFFFF == r.page then c.complete else c.reported }
    else
      (rangeFrom 0 8).foldl (fun s c => (s.chain r.box c).cmds.foldl (fun s m => s.abandon r.box c m r.page) s) s

/-- The interrupt line of a fault-service core (R266). -/
def FaultCore.line (c : FaultCore) : Bool := c.prod != c.cons

/-- FAULT_RECORD_POST (R266): the oldest waiting record of a core goes to its ring; it waits while the ring is full or
cannot be written (R398). Its pool entry is free again (R269). Its TIME is that of the write to the ring, also where the record
has waited (DESIGN CHOICE, notes/assumptions/78.md). -/
def execFaultRecordPost (die : Nat) (core : Nat) (s : State) : Out :=
  let s := { s with last := .event }
  let f := vget ⟨0, 0, 0, 0, []⟩ (s.die die).cores core
  match f.waiting with
  | [] => .next s
  | r :: rest =>
    let r' := { r with time := s.timeWord }
    match s.putRing die f.base f.log f.prod f.cons 6 16 4096 (faultBytes r') with
    | none => .next s
    | some s =>
      let s := s.updDie die fun d => { d with cores := vupd d.cores core fun f => { f with prod := f.prod + 1, waiting := rest } }
      let s := s.updBox r.box fun x =>
        { x with faults := x.faults.map fun q => if q == r then { r' with ring := some (die, core, f.prod.toNat) } else q }
      .next (s.postHeld die)

end Sys2Proof.Machine
end

