-- ==== Sys2Proof/Machine/Flags.lean ====
section
/-!
DEFINITION. Rounding and the sticky flags that it sets (R76 to R80, R82): exact magnitudes, the rounding of one to a multiple
of a power of two, and to a float or an integer format.
-/
namespace Sys2Proof.Machine

/-! ## Sticky flags (R82, R279) -/

/-- The sticky flags in the order of SFLAGS. -/
abbrev Flags := BitVec 5
def flInv : Flags := 1
def flOvf : Flags := 2
def flUnf : Flags := 4
def flScale : Flags := 8
def flUflow : Flags := 16

/-! ## Exact magnitudes -/

/-- A positive exact magnitude: n / d × 2^e, or, where `above` holds, a value above it by less than any place that a
rounding looks at (an irrational result, notes/assumptions/12.md). -/
structure Mag where
  n : Nat
  d : Nat
  e : Int
  above : Bool
  deriving DecidableEq, Repr

/-- The magnitude m × 2^e. -/
abbrev Mag.dyadic (m : Nat) (e : Int) : Mag := ⟨m, 1, e, false⟩

/-- floor(x × 2^k), and whether x × 2^k is that integer. -/
def Mag.at (x : Mag) (k : Int) : Nat × Bool :=
  let s := x.e + k
  let p := if 0 ≤ s then (x.n * 2 ^ s.toNat, x.d) else (x.n, x.d * 2 ^ (-s).toNat)
  (p.1 / p.2, p.1 % p.2 == 0 && !x.above)

/-- floor(log2 x). -/
def Mag.log (x : Mag) : Int :=
  let l : Int := (x.n.log2 : Int) - (x.d.log2 : Int)
  let less := if 0 ≤ l then decide (x.n < x.d * 2 ^ l.toNat) else decide (x.n * 2 ^ (-l).toNat < x.d)
  x.e + if less then l - 1 else l

/-- A magnitude of sign `neg` rounded by `rnd` to a multiple of 2^q (R77, R80): the multiple, and whether it is inexact; `r`
is the stochastic draw. -/
def roundAt (x : Mag) (q : Int) (neg : Bool) (rnd : BitVec 3) (r : Nat) : Nat × Bool :=
  let (k, ex) := x.at (-q)
  if ex then (k, false)
  else
    let up :=
      match rnd.toNat with
      | 0 =>
        let (h, hex) := x.at (1 - q)
        h % 2 == 1 && (!hex || k % 2 == 1)
      | 1 => false
      | 2 => !neg
      | 3 => neg
      | _ => decide (r < (x.at (32 - q)).1 - k * 2 ^ 32)
    (if up then k + 1 else k, true)

/-! ## Float formats (R72, R73) -/

/-- Mantissa bits. -/
def mantBits (f : BitVec 4) : Nat :=
  match f.toNat with
  | 1 => 23 | 2 => 7 | 3 => 10 | 5 => 2 | 6 => 1 | _ => 3

/-- Exponent of the smallest normal value: 1 less the bias. -/
def expMin (f : BitVec 4) : Int :=
  match f.toNat with
  | 1 => -126 | 2 => -126 | 3 => -14 | 5 => -14 | 6 => 0 | _ => -6

/-- The largest finite value, as a significand and its last place. -/
def topFinite (f : BitVec 4) : Nat × Int :=
  match f.toNat with
  | 1 => (2 ^ 24 - 1, 104)
  | 2 => (255, 120)
  | 3 => (2047, 5)
  | 5 => (7, 13)
  | 6 => (3, 1)
  | _ => (14, 5)

/-- A format with infinities. -/
def hasInf (f : BitVec 4) : Bool := f == 1 || f == 2 || f == 3 || f == 5

/-- Canonical NaN (R74); E2M1 has none, and takes +0 (R79). -/
def canonNan (f : BitVec 4) : Nat :=
  match f.toNat with
  | 1 => 0x7FC00000 | 2 => 0x7FC0 | 3 => 0x7E00 | 5 => 0x7E | 6 => 0 | _ => 0x7F

/-- The sign bit of a format; UE4M3 has none. -/
def signBits (f : BitVec 4) (neg : Bool) : Nat := if neg && f != 7 then 2 ^ (elemBits f - 1) else 0

/-- The pattern of k × 2^q, with k of at most one bit more than the significand and q no less than the last place of the
subnormals. -/
def packFloat (f : BitVec 4) (neg : Bool) (k : Nat) (q : Int) : Nat :=
  let m := mantBits f
  let (k, q) := if k = 2 ^ (m + 1) then (2 ^ m, q + 1) else (k, q)
  signBits f neg + (if k < 2 ^ m then k else (q - (expMin f - m) + 1).toNat * 2 ^ m + (k - 2 ^ m))

/-- The pattern of ±∞. -/
def infBits (f : BitVec 4) (neg : Bool) : Nat := signBits f neg + (2 ^ (elemBits f - 1) - 2 ^ mantBits f)

/-- The pattern of the largest finite value. -/
def maxBits (f : BitVec 4) (neg : Bool) : Nat := packFloat f neg (topFinite f).1 (topFinite f).2

/-- The result of an overflow (R79). -/
def overflow (f : BitVec 4) (neg : Bool) (rnd : BitVec 3) (sat : Bool) : Nat :=
  let away := rnd == 0 || rnd == 4 || (rnd == 2 && !neg) || (rnd == 3 && neg)
  if f == 6 || sat || !away then maxBits f neg
  else if hasInf f then infBits f neg
  else canonNan f

/-- A nonzero value rounded to a float format: its pattern and its flags (R77 to R79). -/
def roundFloat (f : BitVec 4) (rnd : BitVec 3) (sat : Bool) (r : Nat) (neg : Bool) (x : Mag) : Nat × Flags :=
  let m := mantBits f
  let q := x.log - m
  let (k, _) := roundAt x q neg rnd r
  let (tk, te) := topFinite f
  let above := if te ≤ q then decide (tk < k * 2 ^ (q - te).toNat) else decide (tk * 2 ^ (te - q).toNat < k)
  if above then (overflow f neg rnd sat, flOvf)
  else
    let least := expMin f - m
    let tiny := q < least && decide (k < 2 ^ (expMin f - q).toNat)
    if tiny then
      let (k, inexact) := roundAt x least neg rnd r
      (packFloat f neg k least, if inexact then flUnf else 0)
    else if q < least then (packFloat f neg (2 ^ m) least, 0)
    else (packFloat f neg k q, 0)

/-! ## Integer formats (R72, R76, R79) -/

/-- The least value of an integer format. -/
def intMin (f : BitVec 4) : Int :=
  match f.toNat with
  | 8 => -128 | 9 => 0 | 10 => -(2 ^ 31) | _ => -(2 ^ 63)

/-- The largest value of an integer format. -/
def intMax (f : BitVec 4) : Int :=
  match f.toNat with
  | 8 => 127 | 9 => 255 | 10 => 2 ^ 31 - 1 | _ => 2 ^ 63 - 1

/-- The pattern of an integer modulo 2^w. -/
def intBits (f : BitVec 4) (v : Int) : Nat := (v % (2 ^ elemBits f : Nat)).toNat

/-- An exact integer result wrapped or saturated, and OVF (R76). -/
def intResult (f : BitVec 4) (sat : Bool) (v : Int) : Nat × Flags :=
  if v < intMin f then (intBits f (if sat then intMin f else v), flOvf)
  else if intMax f < v then (intBits f (if sat then intMax f else v), flOvf)
  else (intBits f v, 0)

/-- A nonzero value rounded to an integer format; it always saturates (R79, R80). -/
def roundInt (f : BitVec 4) (rnd : BitVec 3) (r : Nat) (neg : Bool) (x : Mag) : Nat × Flags :=
  if x.log > 80 then (intBits f (if neg then intMin f else intMax f), flOvf)
  else
    let (k, _) := roundAt x 0 neg rnd r
    intResult f true (if neg then -(k : Int) else k)

end Sys2Proof.Machine
end

