-- ==== Sys2Proof/Machine/Operands.lean ====
section
/-!
DEFINITION. The values that patterns stand for (R72 to R75, R83) and the patterns of values (R74, R79, R142), and the elements
of an entry (R128).
-/
namespace Sys2Proof.Machine

/-- The value of an operand or an exact result: m × 2^e, m nonzero, where it is finite and not zero. -/
inductive Num where
  | nan
  | inf (neg : Bool)
  | zero (neg : Bool)
  | fin (neg : Bool) (m : Nat) (e : Int)
  deriving DecidableEq, Repr

/-- An integer as a value. -/
def Num.ofInt (v : Int) : Num := if v = 0 then .zero false else .fin (decide (v < 0)) v.natAbs 0

/-- The value of a float pattern; an invalid UE4M3 scale is a NaN (R73, R75). -/
def decodeFloat (f : BitVec 4) (x : Nat) : Num :=
  let m := mantBits f
  let w := elemBits f
  let neg := f != 7 && x / 2 ^ (w - 1) % 2 == 1
  let mag := if f = 7 then x else x % 2 ^ (w - 1)
  let e := mag / 2 ^ m
  let t := mag % 2 ^ m
  if hasInf f && e = 2 ^ (w - 1 - m) - 1 then (if t = 0 then .inf neg else .nan)
  else if (f == 4 || f == 7) && 0x7F ≤ mag then .nan
  else if mag = 0 then .zero neg
  else if e = 0 then .fin neg t (expMin f - m)
  else .fin neg (2 ^ m + t) (expMin f - m + (e - 1))

/-- The value of an integer pattern: UINT8 unsigned, the others signed (R72). -/
def decodeInt (f : BitVec 4) (x : Nat) : Int :=
  if f = 9 then (x : Int) else if x / 2 ^ (elemBits f - 1) % 2 = 1 then (x : Int) - (2 ^ elemBits f : Nat) else x

/-- The value of a pattern of any format with values. -/
def decodeNum (f : BitVec 4) (x : Nat) : Num := if fmtI f then Num.ofInt (decodeInt f x) else decodeFloat f x

/-- A value written in a float format: pattern and flags (R74, R77 to R79). -/
def encodeFloat (f : BitVec 4) (rnd : BitVec 3) (sat : Bool) (r : Nat) (v : Num) : Nat × Flags :=
  match v with
  | .nan => (canonNan f, if f = 6 then flInv else 0)
  | .inf neg =>
    if hasInf f then (infBits f neg, 0)
    else if f = 6 || sat then (maxBits f neg, flOvf)
    else (canonNan f, flInv)
  | .zero neg => (signBits f neg, 0)
  | .fin neg m e => roundFloat f rnd sat r neg (.dyadic m e)

/-- A value written as UE4M3: the E4M3 column of R79, with a negative nonzero result as NaN under INV (R142). A negative value
beyond E4M3's range, which without sat is NaN under OVF by R79, is no such result (DESIGN CHOICE, notes/assumptions/66.md). -/
def encodeScale (rnd : BitVec 3) (sat : Bool) (r : Nat) (v : Num) : Nat × Flags :=
  let (x, fl) := encodeFloat 4 rnd sat r v
  if x = 0x80 then (0, fl)
  else if 0x80 ≤ x then (0x7F, fl ||| flInv)
  else (x, fl)

/-- A value written in an integer format: rounded and saturated (R79). -/
def encodeInt (f : BitVec 4) (rnd : BitVec 3) (r : Nat) (v : Num) : Nat × Flags :=
  match v with
  | .nan => (0, flInv)
  | .inf neg => (intBits f (if neg then intMin f else intMax f), flOvf)
  | .zero _ => (0, 0)
  | .fin neg m e => roundInt f rnd r neg (.dyadic m e)

/-- A value written in a format (R77 to R79, R142). -/
def encodeNum (f : BitVec 4) (rnd : BitVec 3) (sat : Bool) (r : Nat) (v : Num) : Nat × Flags :=
  if f = 7 then encodeScale rnd sat r v
  else if fmtI f then encodeInt f rnd r v
  else encodeFloat f rnd sat r v

/-! ## Elements of entries (R128) -/

/-- Element `i` of an entry in format `f`. -/
def elemOf (f : BitVec 4) (data : BitVec 2048) (i : Nat) : Nat := nbits data.toNat (elemBits f * i) (elemBits f)

/-- The elements of an entry in format `f`, in order. -/
def elems (f : BitVec 4) (data : BitVec 2048) : List Nat := (rangeFrom 0 (elemCount f)).map (elemOf f data)

/-- Elements of `w` bits put together, the first lowest. -/
def packElems (w : Nat) : List Nat → Nat
  | [] => 0
  | x :: r => x % 2 ^ w + 2 ^ w * packElems w r

/-- The entry of a list of elements in format `f`; those beyond the list are 0. -/
def entryOf (f : BitVec 4) (l : List Nat) : BitVec 2048 := BitVec.ofNat 2048 (packElems (elemBits f) l)

/-- Whether element `i` of format `f` is enabled by a mask, or by none (R128). -/
def enabledIn (f : BitVec 4) (mask : Option (BitVec 256)) (i : Nat) : Bool :=
  match mask with
  | none => true
  | some m => m.getLsbD (i * elemBits f / 8)

end Sys2Proof.Machine
end

