-- ==== Sys2Proof/Machine/Arith.lean ====
section
/-!
DEFINITION. Exact arithmetic on values (R90, R91, R93, R140), the functions that are correctly rounded (R140, R169, R331,
R332), and the keyed counter function (R80, R333).
-/
namespace Sys2Proof.Machine

/-! ## Sums and products -/

/-- An exact nonzero integer multiple of 2^e as a value; a zero that is a difference takes the sign of R73. -/
def ofDyadic (v : Int) (e : Int) (rnd : BitVec 3) : Num :=
  if v = 0 then .zero (rnd == 3) else .fin (decide (v < 0)) v.natAbs e

/-- A finite value as a multiple of 2^e, where e is no more than its own exponent. -/
def multipleOf (e : Int) (v : Num) : Int :=
  match v with
  | .fin neg m x => (if neg then -1 else 1) * ((m * 2 ^ (x - e).toNat : Nat) : Int)
  | _ => 0

/-- The exponent of a value; a large one where it has none. -/
def expOf (v : Num) : Int :=
  match v with
  | .fin _ _ e => e
  | _ => 100000

/-- The exact sum of values in no order (R91, R140, R144): the value and the flag INV of infinities of both signs. -/
def sumNum (rnd : BitVec 3) (l : List Num) : Num × Flags :=
  if l.any (· == .nan) then (.nan, 0)
  else
    let p := l.any (· == .inf false)
    let n := l.any (· == .inf true)
    if p && n then (.nan, flInv)
    else if p then (.inf false, 0)
    else if n then (.inf true, 0)
    else if l.all (· == .zero true) && !l.isEmpty then (.zero true, 0)
    else if l.all (· == .zero false) then (.zero false, 0)
    else
      let e := l.foldl (fun a v => min a (expOf v)) 100000
      (ofDyadic (l.foldl (fun a v => a + multipleOf e v) 0) e rnd, 0)

/-- The exact sum of two values. -/
def addNum (rnd : BitVec 3) (a b : Num) : Num × Flags := sumNum rnd [a, b]

/-- A value with the other sign. -/
def negNum (v : Num) : Num :=
  match v with
  | .nan => .nan
  | .inf n => .inf (!n)
  | .zero n => .zero (!n)
  | .fin n m e => .fin (!n) m e

/-- A value without its sign. -/
def absNum (v : Num) : Num :=
  match v with
  | .nan => .nan
  | .inf _ => .inf false
  | .zero _ => .zero false
  | .fin _ m e => .fin false m e

/-- The exact product of two values: INV for 0 × ∞ (R140). -/
def mulNum (a b : Num) : Num × Flags :=
  match a, b with
  | .nan, _ => (.nan, 0)
  | _, .nan => (.nan, 0)
  | .inf _, .zero _ => (.nan, flInv)
  | .zero _, .inf _ => (.nan, flInv)
  | .inf x, .inf y => (.inf (x != y), 0)
  | .inf x, .fin y _ _ => (.inf (x != y), 0)
  | .fin x _ _, .inf y => (.inf (x != y), 0)
  | .zero x, .zero y => (.zero (x != y), 0)
  | .zero x, .fin y _ _ => (.zero (x != y), 0)
  | .fin x _ _, .zero y => (.zero (x != y), 0)
  | .fin x m e, .fin y n g => (.fin (x != y) (m * n) (e + g), 0)

/-- A product and an addend: INV of the product stays whatever the addend is (R82, R140). -/
def fmaNum (rnd : BitVec 3) (neg : Bool) (a b c : Num) : Num × Flags :=
  let (p, f) := mulNum a b
  let (s, g) := addNum rnd (if neg then negNum p else p) c
  (s, f ||| g)

/-- The order of two values that are no NaN: whether a < b; -0 lies below +0 where `signed` holds. -/
def ltNum (zeros : Bool) (a b : Num) : Bool :=
  let sgn := fun (v : Num) => match v with
    | .inf n => if n then (-3 : Int) else 3
    | .fin n _ _ => if n then -2 else 2
    | .zero n => if zeros && n then -1 else 0
    | .nan => 0
  match a, b with
  | .fin true _ _, .fin true _ _ | .fin false _ _, .fin false _ _ =>
    let e := min (expOf a) (expOf b)
    decide (multipleOf e a < multipleOf e b)
  | _, _ => decide (sgn a < sgn b)

/-- Two values that are no NaN and compare equal; -0 equals +0. -/
def eqNum (a b : Num) : Bool := a != .nan && b != .nan && !ltNum false a b && !ltNum false b a

/-! ## Functions -/

/-- floor(√n) from its bits, highest first. -/
def isqrt (n : Nat) : Nat :=
  go (n.log2 / 2 + 1) 0
where
  go : Nat → Nat → Nat
    | 0, r => r
    | i + 1, r => go i (if (r + 2 ^ i) * (r + 2 ^ i) ≤ n then r + 2 ^ i else r)

/-- Places of the fixed-point approximations: their error lies far below every place that a rounding of a 24-bit operand
looks at (notes/assumptions/12.md). -/
def places : Nat := 400

/-- ln 2 in units of 2^-400. -/
def ln2 : Nat := 0xB17217F7D1CF79ABC9E3B39803F2F6AF40F343267298B62D8A0D175B8BAAFA2BE7B876206DEBAC98559552FB4AFA1B10ED2E

/-- The terms of the exponential series of y, in units of 2^-400. -/
def expTerms (y : Nat) : Nat → Nat → Nat → Nat
  | 0, _, _ => 0
  | n + 1, k, t => t + expTerms y n (k + 1) (t * y / 2 ^ places / k)

/-- e^y for 0 ≤ y < ln 2, in units of 2^-400. -/
def expFix (y : Nat) : Nat := expTerms y 100 1 (2 ^ places)

/-- The terms of the series of the inverse hyperbolic tangent. -/
def atanhTerms (w2 : Int) : Nat → Nat → Int → Int
  | 0, _, _ => 0
  | n + 1, k, t => t / (k : Int) + atanhTerms w2 n (k + 2) (t * w2 / 2 ^ places)

/-- ln of m × 2^e, in units of 2^-400. -/
def lnFix (m : Nat) (e : Int) : Int :=
  let l := m.log2
  let up := decide (3 * 2 ^ l ≤ 2 * m)
  let k : Int := e + l + if up then 1 else 0
  let den : Int := if up then 2 ^ (l + 1) else 2 ^ l
  let w := ((m : Int) - den) * 2 ^ places / ((m : Int) + den)
  k * (ln2 : Int) + 2 * atanhTerms (w * w / 2 ^ places) 110 1 w

/-- 2^v (R140). -/
def exp2Mag (neg : Bool) (m : Nat) (e : Int) : Mag :=
  if 16 < (Mag.dyadic m e).log then (if neg then ⟨1, 1, -200000, true⟩ else ⟨1, 1, 200000, true⟩)
  else
    let x : Int := (if neg then -1 else 1) * (m : Int)
    if 0 ≤ e then ⟨1, 1, x * 2 ^ e.toNat, false⟩
    else
      let s := (-e).toNat
      let i := x / 2 ^ s
      let t := x % 2 ^ s
      if t = 0 then ⟨1, 1, i, false⟩
      else ⟨expFix (t.toNat * ln2 / 2 ^ s), 1, i - places, true⟩

/-- e^v, v nonzero (R331). -/
def expMag (neg : Bool) (m : Nat) (e : Int) : Mag :=
  if 16 < (Mag.dyadic m e).log then (if neg then ⟨1, 1, -200000, true⟩ else ⟨1, 1, 200000, true⟩)
  else
    let x : Int := (if neg then -1 else 1) * (m : Int)
    let y : Int := if 0 ≤ e then x * 2 ^ (e.toNat + places) else x * 2 ^ places / 2 ^ (-e).toNat
    let i := y / (ln2 : Int)
    ⟨expFix (y % (ln2 : Int)).toNat, 1, i - places, true⟩

/-- The reciprocal of m × 2^e. -/
def rcpMag (m : Nat) (e : Int) : Mag := ⟨1, m, -e, false⟩

/-- 1 / √(m × 2^e): the root of 2^(2k - e) / m at a place k that leaves it enough bits. -/
def rsqrtMag (m : Nat) (e : Int) : Mag :=
  let k : Int := 120 + (e + m.log2 + 1) / 2
  let a := 2 ^ (2 * k - e).toNat
  let r := isqrt (a / m)
  ⟨r, 1, -k, !(r * r * m == a)⟩

/-- log2 of m × 2^e as a sign and a magnitude; none where it is 0 (R169). -/
def log2Mag (m : Nat) (e : Int) : Option (Bool × Mag) :=
  let l := m.log2
  if m = 2 ^ l then
    let v := e + l
    if v = 0 then none else some (decide (v < 0), .dyadic v.natAbs 0)
  else
    let v := lnFix m e
    some (decide (v < 0), ⟨v.natAbs, ln2, 0, true⟩)

/-- ln of m × 2^e as a sign and a magnitude; none where it is 0 (R332). -/
def lnMag (m : Nat) (e : Int) : Option (Bool × Mag) :=
  let v := lnFix m e
  if m = 2 ^ m.log2 && e + m.log2 = 0 then none else some (decide (v < 0), ⟨v.natAbs, 1, -(places : Int), true⟩)

/-! ## The keyed counter function (R333) -/

/-- One round of H. -/
def hRound (x : BitVec 32 × BitVec 32 × BitVec 32 × BitVec 32) (k0 k1 : BitVec 32) :
    BitVec 32 × BitVec 32 × BitVec 32 × BitVec 32 :=
  let (x0, x1, x2, x3) := x
  let a : BitVec 64 := x0.zeroExtend 64 * 0xC2B2AE35
  let b : BitVec 64 := x2.zeroExtend 64 * 0x85EBCA6B
  (bits b 32 32 ^^^ x1 ^^^ k0, (bits b 0 32 : BitVec 32).rotateLeft 7, bits a 32 32 ^^^ x3 ^^^ k1,
   (bits a 0 32 : BitVec 32).rotateLeft 13)

/-- Rounds of H, the keys rising after each. -/
def hRounds : Nat → BitVec 32 × BitVec 32 × BitVec 32 × BitVec 32 → BitVec 32 → BitVec 32 →
    BitVec 32 × BitVec 32 × BitVec 32 × BitVec 32
  | 0, x, _, _ => x
  | n + 1, x, k0, k1 => hRounds n (hRound x k0 k1) (k0 + 0x9E3779B9) (k1 + 0xBB67AE85)

/-- Word `j` of H(K, S, P, D) (R333). -/
def keyed (k : Word) (s p d : BitVec 32) (j : Nat) : BitVec 32 :=
  let x := hRounds 10 (s, p, d, 0) (bits k 0 32) (bits k 32 32)
  match j with
  | 0 => x.1
  | 1 => x.2.1
  | 2 => x.2.2.1
  | _ => x.2.2.2

end Sys2Proof.Machine
end

