-- ==== Sys2Proof/Machine/VecOps.lean ====
section
/-!
DEFINITION. The lane operations of the vector engine on element patterns: elementwise (R139 to R141), conversion (R142),
reductions (R144), compares (R145), confidence (R147) and the top-k order (R156).
-/
namespace Sys2Proof.Machine

/-- A lane operation: the draw of its element, then the elements of va, vb and vc; the result and its flags. -/
abbrev Lane := Nat → Nat → Nat → Nat → Nat × Flags

/-- The signed reading of an element (R139). -/
def signedOf (f : BitVec 4) (x : Nat) : Int :=
  if x / 2 ^ (elemBits f - 1) % 2 = 1 then (x : Int) - (2 ^ elemBits f : Nat) else x

/-- A float operation with an exact value, or an integer one with an exact integer (R76, R77, R139). -/
def lane2 (f : BitVec 4) (rnd : BitVec 3) (sat : Bool) (g : Num → Num → Num × Flags) (h : Int → Int → Int) : Lane :=
  fun r a b _ =>
    if fmtI f then intResult f sat (h (decodeInt f a) (decodeInt f b))
    else
      let (v, fl) := g (decodeFloat f a) (decodeFloat f b)
      let (x, fl') := encodeFloat f rnd sat r v
      (x, fl ||| fl')

/-- VADD, VSUB, VMUL (R139). -/
def laneAdd (f : BitVec 4) (rnd : BitVec 3) (sat : Bool) : Lane := lane2 f rnd sat (addNum rnd) (· + ·)
def laneSub (f : BitVec 4) (rnd : BitVec 3) (sat : Bool) : Lane := lane2 f rnd sat (fun a b => addNum rnd a (negNum b)) (· - ·)
def laneMul (f : BitVec 4) (rnd : BitVec 3) (sat : Bool) : Lane := lane2 f rnd sat mulNum (· * ·)

/-- VFMA, VFMS, VNFMA (R139): the signs of the product and of the addend. -/
def laneFma (f : BitVec 4) (rnd : BitVec 3) (sat : Bool) (negP negC : Bool) : Lane := fun r a b c =>
  let z := decodeFloat f c
  let (v, fl) := fmaNum rnd negP (decodeFloat f a) (decodeFloat f b) (if negC then negNum z else z)
  let (x, fl') := encodeFloat f rnd sat r v
  (x, fl ||| fl')

/-- Whether the element `b` lies below `a`; -0 lies below +0 (R140). -/
def below2 (f : BitVec 4) (b a : Nat) : Bool :=
  if fmtI f then decide (decodeInt f b < decodeInt f a) else ltNum true (decodeFloat f b) (decodeFloat f a)

/-- An element that is a NaN. -/
def isNan (f : BitVec 4) (x : Nat) : Bool := !fmtI f && decodeFloat f x == .nan

/-- VMIN and VMAX (R139, R140). -/
def laneMin (f : BitVec 4) : Lane := fun _ a b _ =>
  if isNan f a || isNan f b then (canonNan f, 0) else (if below2 f b a then b else a, 0)
def laneMax (f : BitVec 4) : Lane := fun _ a b _ =>
  if isNan f a || isNan f b then (canonNan f, 0) else (if below2 f a b then b else a, 0)

/-- VABS and VNEG (R139, R140). -/
def laneAbs (f : BitVec 4) (sat : Bool) : Lane := fun _ a _ _ =>
  if fmtI f then intResult f sat (decodeInt f a).natAbs
  else if isNan f a then (canonNan f, 0)
  else (a % 2 ^ (elemBits f - 1), 0)
def laneNeg (f : BitVec 4) (sat : Bool) : Lane := fun _ a _ _ =>
  if fmtI f then intResult f sat (-(decodeInt f a))
  else if isNan f a then (canonNan f, 0)
  else ((a + 2 ^ (elemBits f - 1)) % 2 ^ elemBits f, 0)

/-- An operation on bit patterns (R139). -/
def laneBits (g : Nat → Nat → Nat) : Lane := fun _ a b _ => (g a b, 0)

/-- The shifts, with the count in the second element (R139, R141). -/
def laneSll (f : BitVec 4) : Lane := fun _ a b _ => (a * 2 ^ (b % elemBits f) % 2 ^ elemBits f, 0)
def laneSrl (f : BitVec 4) : Lane := fun _ a b _ => (a / 2 ^ (b % elemBits f), 0)
def laneSra (f : BitVec 4) : Lane := fun _ a b _ => (intBits f (signedOf f a / (2 ^ (b % elemBits f) : Nat)), 0)

/-- The funnel shifts (R139). -/
def laneFsl (f : BitVec 4) : Lane := fun _ a b c =>
  ((a * 2 ^ elemBits f + b) * 2 ^ (c % elemBits f) / 2 ^ elemBits f % 2 ^ elemBits f, 0)
def laneFsr (f : BitVec 4) : Lane := fun _ a b c => ((a * 2 ^ elemBits f + b) / 2 ^ (c % elemBits f) % 2 ^ elemBits f, 0)

/-- VMULH, VAVG, VCLZ, VPOPC (R139). -/
def laneMulh (f : BitVec 4) : Lane := fun _ a b _ => (intBits f (decodeInt f a * decodeInt f b / (2 ^ elemBits f : Nat)), 0)
def laneAvg (f : BitVec 4) : Lane := fun _ a b _ => (intBits f ((decodeInt f a + decodeInt f b + 1) / 2), 0)
def laneClz (f : BitVec 4) : Lane := fun _ a _ _ => (if a = 0 then elemBits f else elemBits f - 1 - a.log2, 0)
def popCount : Nat → Nat → Nat
  | 0, _ => 0
  | n + 1, x => x % 2 + popCount n (x / 2)
def lanePopc (f : BitVec 4) : Lane := fun _ a _ _ => (popCount (elemBits f) a, 0)

/-- VEXP (R140). -/
def laneExp (f : BitVec 4) (rnd : BitVec 3) (sat : Bool) : Lane := fun r a _ _ =>
  match decodeFloat f a with
  | .fin neg m e => roundFloat f rnd sat r false (exp2Mag neg m e)
  | .zero _ => encodeFloat f rnd sat r (.fin false 1 0)
  | .inf neg => encodeFloat f rnd sat r (if neg then .zero false else .inf false)
  | .nan => (canonNan f, 0)

/-- VRCP (R140). -/
def laneRcp (f : BitVec 4) (rnd : BitVec 3) (sat : Bool) : Lane := fun r a _ _ =>
  match decodeFloat f a with
  | .fin neg m e => roundFloat f rnd sat r neg (rcpMag m e)
  | .zero neg => (infBits f neg, 0)
  | .inf neg => (signBits f neg, 0)
  | .nan => (canonNan f, 0)

/-- VRSQ (R140). -/
def laneRsq (f : BitVec 4) (rnd : BitVec 3) (sat : Bool) : Lane := fun r a _ _ =>
  match decodeFloat f a with
  | .fin false m e => roundFloat f rnd sat r false (rsqrtMag m e)
  | .fin true _ _ => (canonNan f, flInv)
  | .zero neg => (infBits f neg, 0)
  | .inf neg => if neg then (canonNan f, flInv) else (0, 0)
  | .nan => (canonNan f, 0)

/-- I of R141 for a float format: the value of a BF16 pattern. -/
def immNum (imm : BitVec 16) : Num := decodeFloat 2 imm.toNat

/-- VADDI, VMULI, VSPLAT (R141). -/
def laneImm (f : BitVec 4) (rnd : BitVec 3) (sat : Bool) (imm : BitVec 16) (g : Num → Num → Num × Flags)
    (h : Int → Int → Int) : Lane := fun r a _ _ =>
  if fmtI f then intResult f sat (h (decodeInt f a) imm.toInt)
  else
    let (v, fl) := g (decodeFloat f a) (immNum imm)
    let (x, fl') := encodeFloat f rnd sat r v
    (x, fl ||| fl')

/-- One element converted (R142). -/
def convert (src dst : BitVec 4) (rnd : BitVec 3) (sat : Bool) (r x : Nat) : Nat × Flags :=
  if fmtI src && fmtI dst then intResult dst sat (decodeInt src x)
  else
    let v := decodeNum src x
    let (y, fl) := encodeNum dst rnd sat r v
    (y, if src == 7 && v == .nan then fl ||| flScale else fl)

/-- The elements of a word's result with the union of their flags. -/
def collect (l : List (Nat × Flags)) : List Nat × Flags := (l.map (·.1), l.foldl (fun a p => a ||| p.2) 0)

/-- The elementwise result (R136, R139): a disabled element takes `off` of its index, and sets no flag. -/
def lanes (n : Nat) (en : Nat → Bool) (draw : Nat → Nat) (g : Lane) (a b c : Nat → Nat) (off : Nat → Nat) : List Nat × Flags :=
  collect ((rangeFrom 0 n).map fun i => if en i then g (draw i) (a i) (b i) (c i) else (off i, 0))

/-! ## Reductions (R144) -/

/-- The least or the largest value of a format, as its pattern: the infinities where it has them. -/
def extreme (f : BitVec 4) (least : Bool) : Nat :=
  if fmtI f then intBits f (if least then intMin f else intMax f)
  else if hasInf f then infBits f least
  else maxBits f least

/-- The greatest or the least of some elements; NaN where one is; the extreme of the format where there is none. -/
def pick (f : BitVec 4) (greatest : Bool) (l : List Nat) : Nat :=
  match l with
  | [] => extreme f greatest
  | x :: r =>
    if (x :: r).any (isNan f) then canonNan f
    else r.foldl (fun a b => if (if greatest then below2 f a b else below2 f b a) then b else a) x

/-- The exact sum of some elements, rounded once. -/
def sumOf (f : BitVec 4) (rnd : BitVec 3) (sat : Bool) (r : Nat) (l : List Nat) : Nat × Flags :=
  if fmtI f then intResult f sat (l.foldl (fun a x => a + decodeInt f x) 0)
  else
    let (v, fl) := sumNum rnd (l.map (decodeFloat f))
    let (x, fl') := encodeFloat f rnd sat r v
    (x, fl ||| fl')

/-- The enabled elements among indices `lo` to `lo + n - 1`. -/
def enabledOf (en : Nat → Bool) (a : Nat → Nat) (lo n : Nat) : List Nat := ((rangeFrom lo n).filter en).map a

/-- Each enabled element takes the result of its group of 2^e; the others keep their own. -/
def groups (n e : Nat) (en : Nat → Bool) (a : Nat → Nat) (g : Nat → List Nat → Nat × Flags) : List Nat × Flags :=
  collect ((rangeFrom 0 n).map fun i =>
    if en i then g i (enabledOf en a (i / 2 ^ e * 2 ^ e) (2 ^ e)) else (a i, 0))

/-- An index put before the first one whose value is less: descending order, ties by ascending index (R144, R156). -/
def insertDesc (f : BitVec 4) (a : Nat → Nat) : List Nat → Nat → List Nat
  | [], i => [i]
  | j :: l, i => if ltNum false (decodeNum f (a j)) (decodeNum f (a i)) then i :: j :: l else j :: insertDesc f a l i

/-- The enabled indices whose element is no NaN, by value descending, ties by ascending index (R156). -/
def topOrder (f : BitVec 4) (en : Nat → Bool) (a : Nat → Nat) (n : Nat) : List Nat :=
  ((rangeFrom 0 n).filter fun i => en i && !isNan f (a i)).foldl (insertDesc f a) []

/-! ## Compares (R145), confidence (R147) -/

/-- A comparison of two elements: false for a NaN or an invalid scale. -/
def compare2 (f : BitVec 4) (g : Num → Num → Bool) (a b : Nat) : Bool :=
  let x := decodeNum f a
  let y := decodeNum f b
  x != .nan && y != .nan && g x y

/-- A mask of 256 bits from a Boolean for each byte. -/
def maskOf (g : Nat → Bool) : BitVec 256 := BitVec.ofNat 256 (packElems 1 ((rangeFrom 0 256).map fun j => if g j then 1 else 0))

/-- Whether a token exits: X[2t] - X[2t+1] ≥ θ exactly; a NaN or ∞ - ∞ gives false (R147). -/
def exits (x y : Num) (theta : Num) : Bool :=
  match addNum 0 x (negNum y) with
  | (.nan, _) => false
  | (d, _) => theta != .nan && !ltNum false d theta

end Sys2Proof.Machine
end

