-- ==== Sys2Proof/Machine/Vector.lean ====
section
/-!
DEFINITION. The vector words that access no tile SRAM: reads, delivery and latencies (R128 to R138), elementwise and immediate
words (R139 to R141), conversion and repacking (R142, R143), reductions (R144), compares and condition vectors (R145 to
R147), conditional queues (R152 to R155) and top-k (R156).
-/
namespace Sys2Proof.Machine

/-! ## Reads (R129, R131) -/

/-- A source of a word: its register, its peek bit, and the tag it must carry, none where any is accepted (R95). -/
structure Src where
  reg : Reg
  pk : BitVec 1
  need : Option (BitVec 4)

/-- Whether a bypass slot holds an unconsumed transient for register `r`. -/
def Bypass.live (b : Option Bypass) (r : Reg) : Bool := b.any fun b => b.t && !b.used && b.reg == r

/-- One read: the entry and the state it leaves, or its cause and TVAL (R129, R350). -/
def readOne (v : VState) (r : Reg) (pk : Bool) : Except (BitVec 8 × Word) (Entry × VState) :=
  match [2, 1, 0].find? fun i => Bypass.live (vget none v.byp i) r with
  | some i =>
    match vget none v.byp i with
    | some b =>
      .ok (b.entry, if pk then v else { v with byp := vput v.byp i (some { b with used := true }) })
    | none => .error (0x21, BitVec.setWidth 64 r)
  | none =>
    if v.lost.getLsbD r.toNat then .error (0x23, BitVec.setWidth 64 r)
    else match vget [] v.q r.toNat with
      | [] => .error (0x21, BitVec.setWidth 64 r)
      | e :: rest => .ok (e, if pk then v else { v with q := vput v.q r.toNat rest })

/-- TVAL of FMT_MISMATCH (R350). -/
def tagVal (need found : BitVec 4) : Word := BitVec.setWidth 64 (need ++ found)

/-- The reads of a word in order, with the tag check after each (R95, R130). -/
def readAll (v : VState) : List Src → Except (BitVec 8 × Word) (List Entry × VState)
  | [] => .ok ([], v)
  | x :: r =>
    match readOne v x.reg (x.pk == 1) with
    | .error c => .error c
    | .ok (e, v) =>
      if x.need.any (· != e.tag) then .error (0x20, tagVal (x.need.getD 0) e.tag)
      else match readAll v r with
        | .error c => .error c
        | .ok (es, v) => .ok (e :: es, v)

/-- The beat from which every entry that a word reads may be read (R134). -/
def readyBeat (v : VState) : List Src → Nat
  | [] => 0
  | x :: r =>
    match readOne v x.reg (x.pk == 1) with
    | .error _ => 0
    | .ok (e, v) => max e.ready (readyBeat v r)

/-- A word that reads some sources, the masks `ms` and the conditional queues `cs`: it stalls until their producers have
passed their latency; then its reads are checked, and `k` takes the entries and the state after the reads. -/
def vWord (s : State) (src : List Src) (ms cs : List Nat) (k : List Entry → VState → WRes) : WRes :=
  let v := s.me.vec
  let beat := s.here.beat
  if decide (beat < readyBeat v src) || ms.any (fun i => decide (beat < vget 0 v.mReady i))
      || cs.any (fun i => decide (beat < vget 0 v.cqReady i)) then .stall s 0 0
  else match readAll v src with
    | .error (c, t) => .trap c t
    | .ok (es, v) => k es v

/-- The tag that a source of a word in format `fmt` must carry: none under .b (R95). -/
def needTag (fmt : BitVec 4) : Option (BitVec 4) := if fmt = 0 then none else some fmt

/-- The masks a word reads. -/
def maskIdx (m : BitVec 3) (me : BitVec 1) : List Nat := if me == 1 then [m.toNat] else []

/-- The mask that enables a word's elements, if one does (R128). -/
def VState.enable (v : VState) (m : BitVec 3) (me : BitVec 1) : Option (BitVec 256) :=
  if me == 1 then some (vget 0 v.m m.toNat) else none

/-! ## Delivery (R130) -/

/-- A vector result delivered: pushed unless it is transient, and put in the bypass. -/
def VState.deliver (v : VState) (vd : Reg) (tag : BitVec 4) (data : BitVec 2048) (tr : Bool) (ready : Nat) : VState :=
  let e : Entry := ⟨tag, data, ready⟩
  let gone := vget none v.byp 2
  let lost := match gone with
    | some b => if b.t && !b.used then setBit v.lost b.reg.toNat true else v.lost
    | none => v.lost
  { v with
    q := if tr then v.q else vupd v.q vd.toNat (· ++ [e])
    byp := #v[some ⟨tr, false, vd, e⟩, vget none v.byp 0, vget none v.byp 1]
    lost := setBit lost vd.toNat false }

/-- The overflow check of `n` pushes to vd after the pops (R130, R131). -/
def roomFor (v : VState) (vd : Reg) (n : Nat) (r : WRes) : WRes :=
  if 4 < (vget [] v.q vd.toNat).length + n then .trap 0x22 (BitVec.setWidth 64 vd) else r

/-- What a V word leaves to land: its flags, loads, stores, and whether it writes kw, after `lat` beats (R134, R279). -/
def State.flyV (s : State) (flags : Flags) (loads stores : Nat) (kw : Bool) (lat : Nat) : State :=
  s.updTile s.cur.at_ fun x =>
    let c := x.ctx
    let c := { c with
      vec := { c.vec with fly := c.vec.fly ++ [⟨flags, loads, stores, kw, x.beat, x.cnt, x.beat + lat⟩] }
      oc := { c.oc with ocl := c.oc.ocl + BitVec.ofNat 32 loads, ocs := c.oc.ocs + BitVec.ofNat 32 stores } }
    { x with ctx := c }

/-- The stochastic draw of element `i` of a word of stream `e` (R80). -/
def State.drawOf (s : State) (e : Strm) (i : Nat) : Nat :=
  let c := s.me
  let (sdc, code) := match e with
    | .x => (c.sdcx, 2)
    | .s => (c.sdcs, 3)
    | _ => (c.sdcv, 1)
  (keyed c.seed (BitVec.setWidth 32 s.here.ctxno) sdc (BitVec.ofNat 32 (s.cur.at_ * 2 ^ 24 + code * 2 ^ 22 + i / 4))
    (i % 4)).toNat

/-- SDCV advanced by a word with rnd = .rs (R81). -/
def State.drewV (s : State) (rnd : BitVec 3) : State :=
  if rnd == 4 then s.updMe fun c => { c with sdcv := c.sdcv + 1 } else s

/-- The vector state replaced. -/
def State.setVec (s : State) (v : VState) : State := s.updMe fun c => { c with vec := v }

/-- The word's one vector result, delivered after `lat` beats with its flags. -/
def vResult (s : State) (v : VState) (vd : Reg) (tag : BitVec 4) (data : BitVec 2048) (tr : BitVec 1) (lat : Nat)
    (rnd : BitVec 3) (fl : Flags) : WRes :=
  roomFor v vd (if tr == 1 then 0 else 1)
    (.next (((s.setVec (v.deliver vd tag data (tr == 1) (s.here.beat + lat))).drewV rnd).flyV fl 0 0 false lat))

/-! ## Elementwise words (R139) -/

/-- Element `i` of the k-th entry read. -/
def srcElem (fmt : BitVec 4) (es : List Entry) (k i : Nat) : Nat := elemOf fmt ((es[k]?.map (·.data)).getD 0) i

/-- The sources of a VR word that reads `n` of va, vb, vc. -/
def srcVR (f : FVR) (n : Nat) : List Src :=
  [⟨f.va, f.pka, needTag f.fmt⟩, ⟨f.vb, f.pkb, needTag f.fmt⟩, ⟨f.vc, f.pkc, needTag f.fmt⟩].take n

/-- An elementwise word of `n` sources (R136, R139). -/
def opElem (s : State) (f : FVR) (n lat : Nat) (g : Lane) : WRes :=
  vWord s (srcVR f n) (maskIdx f.m f.me) [] fun es v =>
    let en := enabledIn f.fmt (v.enable f.m f.me)
    let (y, fl) := lanes (elemCount f.fmt) en (s.drawOf .v) g (srcElem f.fmt es 0) (srcElem f.fmt es 1)
      (srcElem f.fmt es 2) (srcElem f.fmt es 0)
    vResult s v f.vd f.fmt (entryOf f.fmt y) f.tr lat f.rnd fl

/-- VADD (R139). -/
def execVadd (f : FVR) (s : State) : Out := runWord s (opElem s f 2 3 (laneAdd f.fmt f.rnd (f.sat == 1)))
/-- VSUB (R139). -/
def execVsub (f : FVR) (s : State) : Out := runWord s (opElem s f 2 3 (laneSub f.fmt f.rnd (f.sat == 1)))
/-- VMUL (R139). -/
def execVmul (f : FVR) (s : State) : Out := runWord s (opElem s f 2 4 (laneMul f.fmt f.rnd (f.sat == 1)))
/-- VFMA (R139). -/
def execVfma (f : FVR) (s : State) : Out := runWord s (opElem s f 3 4 (laneFma f.fmt f.rnd (f.sat == 1) false false))
/-- VFMS (R139). -/
def execVfms (f : FVR) (s : State) : Out := runWord s (opElem s f 3 4 (laneFma f.fmt f.rnd (f.sat == 1) false true))
/-- VNFMA (R139). -/
def execVnfma (f : FVR) (s : State) : Out := runWord s (opElem s f 3 4 (laneFma f.fmt f.rnd (f.sat == 1) true false))
/-- VMIN (R139, R140). -/
def execVmin (f : FVR) (s : State) : Out := runWord s (opElem s f 2 3 (laneMin f.fmt))
/-- VMAX (R139, R140). -/
def execVmax (f : FVR) (s : State) : Out := runWord s (opElem s f 2 3 (laneMax f.fmt))
/-- VABS (R139, R140). -/
def execVabs (f : FVR) (s : State) : Out := runWord s (opElem s f 1 3 (laneAbs f.fmt (f.sat == 1)))
/-- VNEG (R139, R140). -/
def execVneg (f : FVR) (s : State) : Out := runWord s (opElem s f 1 3 (laneNeg f.fmt (f.sat == 1)))
/-- VAND (R139). -/
def execVand (f : FVR) (s : State) : Out := runWord s (opElem s f 2 2 (laneBits (· &&& ·)))
/-- VOR (R139). -/
def execVor (f : FVR) (s : State) : Out := runWord s (opElem s f 2 2 (laneBits (· ||| ·)))
/-- VXOR (R139). -/
def execVxor (f : FVR) (s : State) : Out := runWord s (opElem s f 2 2 (laneBits (· ^^^ ·)))
/-- VANDN (R139). -/
def execVandn (f : FVR) (s : State) : Out := runWord s (opElem s f 2 2 (laneBits fun a b => a &&& (a ^^^ b)))
/-- VSLL (R139). -/
def execVsll (f : FVR) (s : State) : Out := runWord s (opElem s f 2 2 (laneSll f.fmt))
/-- VSRL (R139). -/
def execVsrl (f : FVR) (s : State) : Out := runWord s (opElem s f 2 2 (laneSrl f.fmt))
/-- VSRA (R139). -/
def execVsra (f : FVR) (s : State) : Out := runWord s (opElem s f 2 2 (laneSra f.fmt))
/-- VFSL (R139). -/
def execVfsl (f : FVR) (s : State) : Out := runWord s (opElem s f 3 2 (laneFsl f.fmt))
/-- VFSR (R139). -/
def execVfsr (f : FVR) (s : State) : Out := runWord s (opElem s f 3 2 (laneFsr f.fmt))
/-- VMULH (R139). -/
def execVmulh (f : FVR) (s : State) : Out := runWord s (opElem s f 2 4 (laneMulh f.fmt))
/-- VAVG (R139). -/
def execVavg (f : FVR) (s : State) : Out := runWord s (opElem s f 2 2 (laneAvg f.fmt))
/-- VCLZ (R139). -/
def execVclz (f : FVR) (s : State) : Out := runWord s (opElem s f 1 2 (laneClz f.fmt))
/-- VPOPC (R139). -/
def execVpopc (f : FVR) (s : State) : Out := runWord s (opElem s f 1 2 (lanePopc f.fmt))
/-- VEXP (R139, R140). -/
def execVexp (f : FVR) (s : State) : Out := runWord s (opElem s f 1 10 (laneExp f.fmt f.rnd (f.sat == 1)))
/-- VRCP (R139, R140). -/
def execVrcp (f : FVR) (s : State) : Out := runWord s (opElem s f 1 10 (laneRcp f.fmt f.rnd (f.sat == 1)))
/-- VRSQ (R139, R140). -/
def execVrsq (f : FVR) (s : State) : Out := runWord s (opElem s f 1 10 (laneRsq f.fmt f.rnd (f.sat == 1)))

/-- VSEL (R139): a where enabled, b where not. -/
def execVsel (f : FVR) (s : State) : Out :=
  runWord s (vWord s (srcVR f 2) (maskIdx f.m f.me) [] fun es v =>
    let en := enabledIn f.fmt (v.enable f.m f.me)
    let y := (rangeFrom 0 (elemCount f.fmt)).map fun i => srcElem f.fmt es (if en i then 0 else 1) i
    vResult s v f.vd f.fmt (entryOf f.fmt y) f.tr 2 0 0)

/-- VMOV (R139): the entry; under .b it keeps its tag. -/
def execVmov (f : FVR) (s : State) : Out :=
  runWord s (vWord s (srcVR f 1) (maskIdx f.m f.me) [] fun es v =>
    let e := es.headD ⟨0, 0, 0⟩
    vResult s v f.vd (if f.fmt = 0 then e.tag else f.fmt) e.data f.tr 2 0 0)

/-! ## Immediate words (R141) -/

/-- An immediate word; it reads va unless it is VSPLAT, whose disabled elements are 0. -/
def opImm (s : State) (f : FVI) (reads : Bool) (lat : Nat) (g : Lane) (b c : Nat → Nat → Nat) : WRes :=
  vWord s (if reads then [⟨f.va, f.pka, needTag f.fmt⟩] else []) (maskIdx f.m f.me) [] fun es v =>
    let en := enabledIn f.fmt (v.enable f.m f.me)
    let a := srcElem f.fmt es 0
    let (y, fl) := lanes (elemCount f.fmt) en (s.drawOf .v) g a (fun i => b (a i) f.imm.toNat)
      (fun i => c (a i) f.imm.toNat) a
    vResult s v f.vd f.fmt (entryOf f.fmt y) f.tr lat f.rnd fl

/-- VADDI (R141). -/
def execVaddi (f : FVI) (s : State) : Out :=
  runWord s (opImm s f true 3 (laneImm f.fmt f.rnd (f.sat == 1) f.imm (addNum f.rnd) (· + ·)) (fun _ _ => 0) fun _ _ => 0)
/-- VMULI (R141). -/
def execVmuli (f : FVI) (s : State) : Out :=
  runWord s (opImm s f true 4 (laneImm f.fmt f.rnd (f.sat == 1) f.imm mulNum (· * ·)) (fun _ _ => 0) fun _ _ => 0)
/-- VSLLI (R141). -/
def execVslli (f : FVI) (s : State) : Out := runWord s (opImm s f true 2 (laneSll f.fmt) (fun _ k => k) fun _ _ => 0)
/-- VSRLI (R141). -/
def execVsrli (f : FVI) (s : State) : Out := runWord s (opImm s f true 2 (laneSrl f.fmt) (fun _ k => k) fun _ _ => 0)
/-- VSRAI (R141). -/
def execVsrai (f : FVI) (s : State) : Out := runWord s (opImm s f true 2 (laneSra f.fmt) (fun _ k => k) fun _ _ => 0)
/-- VFSLI (R141): a rotate left. -/
def execVfsli (f : FVI) (s : State) : Out := runWord s (opImm s f true 2 (laneFsl f.fmt) (fun a _ => a) fun _ k => k)
/-- VFSRI (R141): a rotate right. -/
def execVfsri (f : FVI) (s : State) : Out := runWord s (opImm s f true 2 (laneFsr f.fmt) (fun a _ => a) fun _ k => k)
/-- VSPLAT (R141). -/
def execVsplat (f : FVI) (s : State) : Out :=
  runWord s (opImm s f false 2
    (laneImm f.fmt f.rnd (f.sat == 1) f.imm (fun _ i => (i, 0)) (fun _ i => i)) (fun _ _ => 0) fun _ _ => 0)

/-! ## Conversion and repacking (R142, R143) -/

/-- VCVT (R142). -/
def execVcvt (f : FVR) (s : State) : Out :=
  runWord s (vWord s [⟨f.va, f.pka, none⟩] (maskIdx f.m f.me) [] fun es v =>
    let e := es.headD ⟨0, 0, 0⟩
    let g := e.tag
    let p := f.vc.toNat
    let ns := elemCount g
    let nd := elemCount f.fmt
    if g = 0 || g = 12 then .trap 0x20 (tagVal f.fmt g)
    else if max ns nd / min ns nd ≤ p then .trap 0x03 0
    else
      let en := enabledIn g (v.enable f.m f.me)
      let one := fun (src i : Nat) =>
        if en src then convert g f.fmt f.rnd (f.sat == 1) (s.drawOf .v i) (elemOf g e.data src) else (0, 0)
      let (y, fl) := collect ((rangeFrom 0 nd).map fun i =>
        if nd ≤ ns then one (p * nd + i) i
        else if p * ns ≤ i && i < p * ns + ns then one (i - p * ns) i
        else (0, 0))
      vResult s v f.vd f.fmt (entryOf f.fmt y) f.tr 3 f.rnd fl)

/-- VPACK and VUNPK (R143): byte 0 of each source's half. -/
def opHalves (s : State) (f : FVR) (lo : Nat) : WRes :=
  vWord s (srcVR f 2) [] [] fun es v =>
    let half := fun (k : Nat) => bits ((es[k]?.map (·.data)).getD 0) (8 * lo) 1024
    vResult s v f.vd f.fmt (half 1 ++ half 0) f.tr 3 0 0

/-- VPACK (R143). -/
def execVpack (f : FVR) (s : State) : Out := runWord s (opHalves s f 0)
/-- VUNPK (R143). -/
def execVunpk (f : FVR) (s : State) : Out := runWord s (opHalves s f 128)

/-! ## Reductions (R144) -/

/-- A reduction: `g` gives the elements of the result, in format `tag`, from the enabling and the elements of va. -/
def opReduce (s : State) (f : FVR) (tag : BitVec 4) (g : (Nat → Bool) → (Nat → Nat) → List Nat × Flags) : WRes :=
  vWord s (srcVR f 1) (maskIdx f.m f.me) [] fun es v =>
    let (y, fl) := g (enabledIn f.fmt (v.enable f.m f.me)) (srcElem f.fmt es 0)
    vResult s v f.vd tag (entryOf tag y) f.tr 6 f.rnd fl

/-- VRSUM (R144). -/
def execVrsum (f : FVR) (s : State) : Out :=
  runWord s (opReduce s f f.fmt fun en a =>
    let (x, fl) := sumOf f.fmt f.rnd (f.sat == 1) (s.drawOf .v 0) (enabledOf en a 0 (elemCount f.fmt))
    ([x], fl))
/-- VRMAX (R144). -/
def execVrmax (f : FVR) (s : State) : Out :=
  runWord s (opReduce s f f.fmt fun en a => ([pick f.fmt true (enabledOf en a 0 (elemCount f.fmt))], 0))
/-- VRMIN (R144). -/
def execVrmin (f : FVR) (s : State) : Out :=
  runWord s (opReduce s f f.fmt fun en a => ([pick f.fmt false (enabledOf en a 0 (elemCount f.fmt))], 0))

/-- The exponent of the groups of VGMAX and VGSUM within its range (R144). -/
def groupOk (f : FVR) : Bool := f.vb != 0 && decide (f.vb.toNat ≤ elemLog f.fmt)

/-- VGMAX (R144). -/
def execVgmax (f : FVR) (s : State) : Out :=
  runWord s (if groupOk f then
      opReduce s f f.fmt fun en a => groups (elemCount f.fmt) f.vb.toNat en a fun _ l => (pick f.fmt true l, 0)
    else .trap 0x03 0)
/-- VGSUM (R144). -/
def execVgsum (f : FVR) (s : State) : Out :=
  runWord s (if groupOk f then
      opReduce s f f.fmt fun en a =>
        groups (elemCount f.fmt) f.vb.toNat en a fun i l => sumOf f.fmt f.rnd (f.sat == 1) (s.drawOf .v i) l
    else .trap 0x03 0)
/-- VRARG (R144): the index of the greatest enabled element, as INT32. -/
def execVrarg (f : FVR) (s : State) : Out :=
  runWord s (opReduce s f 10 fun en a =>
    ([match topOrder f.fmt en a (elemCount f.fmt) with | [] => 2 ^ 32 - 1 | i :: _ => i], 0))

/-! ## Masks (R145, R147) -/

/-- A mask written, readable after `lat` beats. -/
def VState.setMask (v : VState) (i : Nat) (m : BitVec 256) (ready : Nat) : VState :=
  { v with m := vput v.m i m, mReady := vupd v.mReady i (max ready) }

/-- A compare (R145). -/
def opCompare (s : State) (f : FVR) (g : Num → Num → Bool) : WRes :=
  vWord s (srcVR f 2) (maskIdx f.m f.me) [] fun es v =>
    let en := enabledIn f.fmt (v.enable f.m f.me)
    let w := elemBits f.fmt / 8
    let res := maskOf fun j =>
      en (j / w) && compare2 f.fmt g (srcElem f.fmt es 0 (j / w)) (srcElem f.fmt es 1 (j / w))
    .next ((s.setVec (v.setMask f.vd.toNat res (s.here.beat + 2))).flyV 0 0 0 false 2)

/-- VCMPEQ (R145). -/
def execVcmpeq (f : FVR) (s : State) : Out := runWord s (opCompare s f eqNum)
/-- VCMPLT (R145). -/
def execVcmplt (f : FVR) (s : State) : Out := runWord s (opCompare s f (ltNum false))
/-- VCMPLE (R145). -/
def execVcmple (f : FVR) (s : State) : Out := runWord s (opCompare s f fun a b => !ltNum false b a)

/-- VCONF (R147). -/
def execVconf (f : FVI) (s : State) : Out :=
  runWord s (vWord s [⟨f.va, f.pka, needTag f.fmt⟩] (maskIdx f.m f.me) [] fun es v =>
    let en := enabledIn 1 (v.enable f.m f.me)
    let x := fun i => decodeFloat 1 (srcElem 1 es 0 i)
    let res := maskOf fun j => en (2 * (j / 8)) && exits (x (2 * (j / 8))) (x (2 * (j / 8) + 1)) (immNum f.imm)
    .next ((s.setVec (v.setMask f.vd.toNat res (s.here.beat + 6))).flyV 0 0 0 false 6))

/-! ## Condition vectors (R146) -/

/-- VKSET (R146). -/
def execVkset (f : FVR) (s : State) : Out :=
  let j := f.vd.toNat
  let n := elemCount f.fmt
  runWord s (vWord s [] (maskIdx f.m f.me) [] fun _ v =>
    let p := (vget 0 v.kwcur j).toNat
    if 1024 < p + n then .trap 0x26 0
    else
      let en := enabledIn f.fmt (v.enable f.m f.me)
      let ones := packElems 1 ((rangeFrom 0 n).map fun i => if en i then 1 else 0)
      let old := (vget 0 v.kw j).toNat
      let new := old % 2 ^ p + ones * 2 ^ p + old / 2 ^ (p + n) * 2 ^ (p + n)
      .next ((s.setVec { v with kw := vput v.kw j (BitVec.ofNat 1024 new), kwcur := vput v.kwcur j (BitVec.ofNat 11 (p + n)) }
        ).flyV 0 0 0 true 2))

/-- VKCLR (R146). -/
def execVkclr (f : FVR) (s : State) : Out :=
  let j := f.vd.toNat
  runWord s (vWord s [] [] [] fun _ v =>
    .next ((s.setVec { v with kw := vput v.kw j 0, kwcur := vput v.kwcur j 0 }).flyV 0 0 0 true 2))

/-! ## Conditional queues (R152 to R155) -/

/-- A conditional queue. -/
def VState.cond (v : VState) (q : Nat) : CondQueue := vget ⟨[], 0, 0⟩ v.cq q

/-- The bytes of some elements of an entry. -/
def elemBytes (fmt : BitVec 4) (data : BitVec 2048) (l : List Nat) : List Byte :=
  l.flatMap fun i => toBytes (elemBits fmt / 8) (elemOf fmt data i)

/-- Bytes appended to a conditional queue with their format (R153). -/
def VState.append (v : VState) (q : Nat) (fmt : BitVec 4) (b : List Byte) (ready : Nat) : VState :=
  if b.isEmpty then v
  else { v with
    cq := vupd v.cq q fun c => { c with data := c.data ++ b, tag := fmt }
    cqReady := vupd v.cqReady q (max ready) }

/-- VCPUSH (R153): the checks go through both queues in turn. -/
def execVcpush (f : FVR) (s : State) : Out :=
  runWord s (vWord s [⟨f.va, f.pka, needTag f.fmt⟩] (maskIdx f.m f.me) [0, 1] fun es v =>
    let e := es.headD ⟨0, 0, 0⟩
    let en := enabledIn f.fmt (v.enable f.m f.me)
    let route := (bits v.rtw (4 * f.vd.toNat) 4 : BitVec 4)
    let all := rangeFrom 0 (elemCount f.fmt)
    let t := if route.getLsbD 3 then elemBytes f.fmt e.data (all.filter en) else []
    let d := if route.getLsbD 1 then elemBytes f.fmt e.data (all.filter (!en ·)) else []
    let tq := if route.getLsbD 2 then 1 else 0
    let dq := if route.getLsbD 0 then 1 else 0
    let add := fun (q : Nat) => (if tq = q then t.length else 0) + (if dq = q then d.length else 0)
    let bad := fun (q : Nat) => add q != 0 && !(v.cond q).data.isEmpty && (v.cond q).tag != f.fmt
    let full := fun (q : Nat) => decide (512 < (v.cond q).data.length + add q)
    let beat := s.here.beat + 3
    if bad 0 then .trap 0x20 (tagVal f.fmt (v.cond 0).tag)
    else if full 0 then .trap 0x25 0
    else if bad 1 then .trap 0x20 (tagVal f.fmt (v.cond 1).tag)
    else if full 1 then .trap 0x25 1
    else .next ((s.setVec ((v.append tq f.fmt t beat).append dq f.fmt d beat)).flyV 0 0 0 false 3))

/-- VCPOP (R154). -/
def execVcpop (f : FVR) (s : State) : Out :=
  let q := (bits f.va 0 1).toNat
  runWord s (vWord s [] (maskIdx f.m f.me) [q] fun _ v =>
    let en := enabledIn f.fmt (v.enable f.m f.me)
    let w := elemBits f.fmt / 8
    let n := elemCount f.fmt
    let need := ((rangeFrom 0 n).filter en).length
    let c := v.cond q
    if need != 0 && c.tag != f.fmt then .trap 0x20 (tagVal f.fmt c.tag)
    else if c.data.length < need * w then .trap 0x24 (BitVec.ofNat 64 q)
    else
      let y := (rangeFrom 0 n).map fun i =>
        if en i then ofBytes ((c.data.drop (w * ((rangeFrom 0 i).filter en).length)).take w) else 0
      let rest := c.data.drop (need * w)
      let v := { v with
        cq := vput v.cq q
          ⟨rest, c.head + BitVec.ofNat 9 (need * w), if rest.isEmpty then 0 else c.tag⟩
        cqReady := vupd v.cqReady q (max (s.here.beat + 3)) }
      vResult s v f.vd f.fmt (entryOf f.fmt y) f.tr 3 0 0)

/-- VSWCFG (R155). -/
def execVswcfg (f : FVR) (s : State) : Out :=
  runWord s (vWord s [⟨f.va, f.pka, some 10⟩] [] [] fun es v =>
    let x := fun i => BitVec.ofNat 32 (srcElem 10 es 0 i)
    let v := if (x 2).getLsbD 0 then { v with rtw := bits (x 0) 0 16 } else v
    let v := if (x 2).getLsbD 1 then { v with vsoff := bits (x 1) 0 24 } else v
    .next ((s.setVec v).flyV 0 0 0 false 2))

/-- VSWGET (R155). -/
def execVswget (f : FVR) (s : State) : Out :=
  runWord s (vWord s [] [] [0, 1] fun _ v =>
    let y := [(v.cond 0).data.length, (v.cond 1).data.length, (v.cond 0).tag.toNat, (v.cond 1).tag.toNat, v.rtw.toNat,
      v.vsoff.toNat]
    vResult s v f.vd 10 (entryOf 10 y) f.tr 2 0 0)

/-! ## Top-k (R156) -/

/-- VTOPK (R156): two pushes, the values and their indices. -/
def execVtopk (f : FVI) (s : State) : Out :=
  runWord s (vWord s [⟨f.va, f.pka, needTag f.fmt⟩] (maskIdx f.m f.me) [] fun es v =>
    let n := elemCount f.fmt
    let a := srcElem f.fmt es 0
    let k := (bits f.imm 0 7).toNat
    let base := (bits f.imm 7 8).toNat
    let l := (topOrder f.fmt (enabledIn f.fmt (v.enable f.m f.me)) a n).take k
    let vals := (rangeFrom 0 n).map fun j => (l[j]?.map a).getD (extreme f.fmt true)
    let idx := (rangeFrom 0 64).map fun j => (l[j]?.map (base * n + ·)).getD (2 ^ 32 - 1)
    let ready := s.here.beat + 24
    roomFor v f.vd 2
      (.next ((s.setVec ((v.deliver f.vd f.fmt (entryOf f.fmt vals) false ready).deliver f.vd 10 (entryOf 10 idx) false ready)
        ).flyV 0 0 0 false 24)))

end Sys2Proof.Machine
end

