-- ==== Sys2Proof/Machine/VMem.lean ====
section
/-!
DEFINITION. Tile addresses and leases (R45, R148, R177, R178), and the vector words that load and store tile SRAM (R148 to
R151).
-/
namespace Sys2Proof.Machine

/-! ## Tile addresses (R45, R178) -/

/-- ea of R45: the iteration index is that of the innermost repeat level. -/
def State.ea (s : State) (gidx : BitVec 20) (step : BitVec 6) : Nat :=
  let it := match (s.me.strm s.cur.strm).levels with
    | [] => 0
    | l :: _ => l.it
  (gidx.toNat * 16 + it * step.toNat * 16) % 2 ^ 24

/-- The first tile address outside the accessible part of the lease (R178). -/
def Tile.leaseEnd (x : Tile) : Nat := (x.lsize.toNat - x.lsave.toNat) * 4096

/-- Addresses `a` to `a + n - 1`, wrapping at 2^24 (R45). -/
def eaRun (a n : Nat) : List Nat := (rangeFrom a n).map (· % 2 ^ 24)

/-- The location of a tile address of the running context. -/
def State.eaLoc (s : State) (a : Nat) : Nat := sramPa s.cur.at_ (s.here.lbase.toNat * 4096 + a)

/-- An access to tile addresses: the lease check (R178), the stall on the first empty granule where `wait` holds (R148,
R177), and, where `read` holds, the uncorrectable error of a row (R176); then `k` on the locations. -/
def tileAccess (s : State) (as : List Nat) (wait read : Bool) (k : State → List Nat → WRes) : WRes :=
  match as.find? (s.here.leaseEnd ≤ ·) with
  | some a => .trap 0x50 (BitVec.ofNat 64 a)
  | none =>
    match if wait then as.find? (fun a => s.emptyAt (s.eaLoc a)) else none with
    | some a => .stall s 0x06 (BitVec.ofNat 64 (a / 16 * 16))
    | none =>
      let locs := as.map s.eaLoc
      match if read then s.sramUe locs else none with
      | some i => .trap 0xD0 (BitVec.ofNat 64 ((as[i]?).getD 0 / 64 * 64))
      | none => k (if read then s.correct s.cur.at_ locs else s) locs

/-- Bytes written by a stream at locations of its tile's SRAM; full bits set unless `nf` (R177). -/
def State.tileWrite (s : State) (locs : List Nat) (b : List Byte) (nf : Bool) : State :=
  let s := s.putBytes (locs.zip b) 0
  if nf then s else s.fillLocs true locs 0

/-! ## Loads (R149, R150) -/

/-- The byte lanes that a mask enables in format `fmt` (R148). -/
def laneBytes (fmt : BitVec 4) (mask : Option (BitVec 256)) : List Nat :=
  (rangeFrom 0 256).filter fun j => enabledIn fmt mask (j * 8 / elemBits fmt)

/-- The entry with bytes at some lanes, 0 elsewhere. -/
def entryBytes (l : List (Nat × Byte)) : BitVec 2048 :=
  BitVec.ofNat 2048 (l.foldl (fun x p => x + p.2.toNat * 2 ^ (8 * p.1)) 0)

/-- A load with its lanes, after the check of room: granules kept, or cleared under .fc (R148, R149). -/
def loadLanes (s : State) (f : FVM) (v : VState) (as : List (Nat × Nat)) : WRes :=
  tileAccess s (as.map (·.2)) (f.fq == 1 || f.fq == 2) true fun s locs => roomL s 1 (
    let data := entryBytes ((as.map (·.1)).zip (s.getBytes locs))
    let s := if f.fq == 2 then s.fillLocs false locs 0 else s
    .next ((s.setVec (v.deliver f.v f.fmt data false (s.here.beat + 6))).flyV 0 1 0 false 6))

/-- A load under .ht: it reports the bytes in empty granules in mask m, and reads them as 0 (R149). -/
def loadReport (s : State) (f : FVM) (v : VState) (as : List (Nat × Nat)) : WRes :=
  tileAccess s (as.map (·.2)) false true fun s locs =>
    let hole := locs.map (s.emptyAt)
    let b := (s.getBytes locs).zipWith (fun b h => if h then (0 : Byte) else b) hole
    let v := v.setMask f.m.toNat (maskOf fun j => (hole[j]?).getD false) (s.here.beat + 6)
    let v := v.deliver f.v f.fmt (entryBytes ((as.map (·.1)).zip b)) false (s.here.beat + 6)
    roomL s 1 (.next ((s.setVec v).flyV 0 1 0 false 6))

/-- VLD (R149). -/
def execVld (f : FVM) (s : State) : Out :=
  let base := s.ea f.gidx f.step
  let at_ := fun (j : Nat) => (j, (base + j) % 2 ^ 24)
  runWord s (vWord s [] (if f.fq == 3 then [] else maskIdx f.m f.me) [] fun _ v =>
    roomFor v f.v 1
      (if f.fq == 3 then loadReport s f v ((rangeFrom 0 256).map at_)
       else loadLanes s f v ((laneBytes f.fmt (v.enable f.m f.me)).map at_)))

/-- VLDM (R150). -/
def execVldm (f : FVM) (s : State) : Out :=
  runWord s (vWord s [] [] [] fun _ v =>
    tileAccess s (eaRun (s.ea f.gidx f.step) 32) (f.fq != 0) true fun s locs => roomL s 1 (
      let m := BitVec.ofNat 256 (ofBytes (s.getBytes locs))
      let s := if f.fq == 2 then s.fillLocs false locs 0 else s
      .next ((s.setVec (v.setMask f.v.toNat m (s.here.beat + 6))).flyV 0 1 0 false 6)))

/-! ## Stores (R150, R151) -/

/-- A store of the enabled bytes of an entry at a byte address; `after` is what else it changes (R150, R151). -/
def storeEntry (s : State) (f : FVM) (base : Nat) (after : List Nat → VState → VState) : WRes :=
  vWord s [⟨f.v, f.pk, needTag f.fmt⟩] (maskIdx f.m f.me) [] fun es v =>
    let data := (es.headD ⟨0, 0, 0⟩).data
    let js := laneBytes f.fmt (v.enable f.m f.me)
    tileAccess s (js.map fun j => (base + j) % 2 ^ 24) false false fun s locs =>
      let b := js.map fun j => (bits data (8 * j) 8 : Byte)
      roomS s 1 (.next (((s.tileWrite locs b (f.fq == 1)).setVec (after js v)).flyV 0 0 1 false 0))

/-- VST (R150). -/
def execVst (f : FVM) (s : State) : Out :=
  runWord s (storeEntry s f (s.ea f.gidx f.step) fun _ v => v)

/-- VSTU (R151): at ea + VSOFF, which moves past the highest enabled byte. -/
def execVstu (f : FVM) (s : State) : Out :=
  runWord s (storeEntry s f ((s.ea f.gidx f.step + s.me.vec.vsoff.toNat) % 2 ^ 24) fun js v =>
    { v with vsoff := v.vsoff + BitVec.ofNat 24 ((js.getLast?.map (· + 1)).getD 0) })

/-- VSTM (R150). -/
def execVstm (f : FVM) (s : State) : Out :=
  runWord s (vWord s [] [f.v.toNat] [] fun _ v =>
    tileAccess s (eaRun (s.ea f.gidx f.step) 32) false false fun s locs =>
      roomS s 1 (.next ((s.tileWrite locs (toBytes 32 (vget 0 v.m f.v.toNat).toNat) (f.fq == 1)).flyV 0 0 1 false 0)))

end Sys2Proof.Machine
end

