-- ==== Sys2Proof/Machine/Matrix.lean ====
section
/-!
DEFINITION. The matrix engine: operand slots, accumulator buffers and nest records (R180 to R187), the X words (R193 to
R200), the checks and the start of XGO (R189, R195, R196), and its steps (R184, R188, R90 to R92).
-/
namespace Sys2Proof.Machine

/-! ## Shapes (R181, R182) -/

/-- Bytes of an operand row of 64 elements; a sparse one holds 32 (R181). -/
def rowBytes (fmt : BitVec 4) (sparse : Bool) : Nat := if sparse then 4 * elemBits fmt else 8 * elemBits fmt

/-- Rows of a slot (R181). -/
def slotRows (fmt : BitVec 4) (sparse : Bool) : Nat := 32768 / rowBytes fmt sparse

/-- Slot `o` of the engine. -/
def XState.slotAt (m : XState) (o : Nat) : Slot := vget ⟨false, 0, 0, 0, false, []⟩ m.slot o

/-- Buffer `a` of the engine. -/
def XState.accAt (m : XState) (a : Nat) : Acc := vget ⟨false, 0, false, []⟩ m.acc a

/-- The descriptor of a slot (R180). -/
def Slot.desc (x : Slot) : BitVec 16 := bit x.cl ++ x.role ++ x.tag ++ x.fq ++ bit x.busy ++ (0 : BitVec 4)

/-- The descriptor of a buffer (R182). -/
def Acc.desc (x : Acc) : BitVec 16 := bit x.wr ++ x.tag ++ bit x.busy ++ (0 : BitVec 10)

/-- SCLCFG and SPRCFG of a record (R183). -/
def NestRec.sclCfg (r : NestRec) : BitVec 16 := (0 : BitVec 6) ++ r.scl ++ r.sclA ++ r.sclB
def NestRec.sprCfg (r : NestRec) : BitVec 16 := (0 : BitVec 10) ++ r.spa ++ r.spaM

/-- The matrix state changed. -/
def State.updMat (s : State) (f : XState → XState) : State := s.updMe fun c => { c with mat := f c.mat }

/-- The active record changed. -/
def State.updNest (s : State) (f : NestRec → NestRec) : State := s.updMat fun m => { m with active := f m.active }

/-- What an X word leaves to complete: one tile operation with its flags (R191, R279). -/
def State.flyX (s : State) (fl : Flags) : State :=
  s.updTile s.cur.at_ fun x =>
    let c := x.ctx
    { x with ctx := ({ c with mat := { c.mat with fly := c.mat.fly ++ [(⟨fl, 0, 0, false, x.beat, x.cnt, x.beat⟩ : WordFly)] } }).incT }

/-! ## The active record (R193, R194) -/

/-- One field of a level set by sel (R193). -/
def NestLevel.set (l : NestLevel) (sel : Nat) (v : BitVec 32) : NestLevel :=
  match sel with
  | 0 => { l with cnt := v }
  | 1 => { l with da := v }
  | 2 => { l with db := v }
  | 3 => { l with dc := v }
  | 4 => { l with dsa := v }
  | _ => { l with dsb := v }

/-- XLNT (R193). -/
def execXlnt (f : FXT) (s : State) : Out :=
  runWord s (.next (s.updNest fun r =>
    if f.sel = 6 then { r with org := vput r.org f.lvl.toNat f.val }
    else { r with levels := vupd r.levels f.lvl.toNat fun l => l.set f.sel.toNat f.val }))

/-- XSCALE (R194). -/
def execXscale (f : FXC) (s : State) : Out :=
  runWord s (.next (s.updNest fun r => { r with scl := f.scl, sclA := f.oa, sclB := f.ob }))

/-- XSPAR (R194). -/
def execXspar (f : FXC) (s : State) : Out :=
  runWord s (.next (s.updNest fun r => { r with spa := f.spa, spaM := f.ob }))

/-! ## Slots and buffers (R197 to R200) -/

/-- XCLAIM (R197). -/
def execXclaim (f : FXS) (s : State) : Out :=
  runWord s
    (if (s.me.mat.slotAt f.o.toNat).cl then .trap 0x60 0
     else .next (s.updMat fun m => { m with slot := vput m.slot f.o.toNat ⟨true, 0, 0, 0, false, []⟩ }))

/-- XREL (R197). -/
def execXrel (f : FXS) (s : State) : Out :=
  let x := s.me.mat.slotAt f.o.toNat
  runWord s
    (if x.busy then .stall s 0 0
     else if !x.cl then .trap 0x60 0
     else .next (s.updMat fun m => { m with slot := vput m.slot f.o.toNat ⟨false, 0, 0, 0, false, []⟩ }))

/-- A fill of quarter qq of a slot in a role (R198). -/
def opFillSlot (s : State) (f : FXS) (role : BitVec 2) : WRes :=
  let x := s.me.mat.slotAt f.o.toNat
  if x.busy then .stall s 0 0
  else if !x.cl then .trap 0x60 0
  else if x.role ≠ 0 && (x.role != role || x.tag != f.fmt) then .trap 0x20 (tagVal f.fmt x.tag)
  else tileAccess s (eaRun (s.ea f.gidx f.step) 8192) true true fun s locs =>
    let b := s.getBytes locs
    roomT s (.next ((s.updMat fun m =>
      { m with slot := vupd m.slot f.o.toNat fun x =>
          { x with
            role := role, tag := f.fmt, fq := setBit x.fq f.a.toNat true
            data := overlay 0 x.data (8192 * f.a.toNat) b } }).flyX 0))

/-- XFILL (R198). -/
def execXfill (f : FXS) (s : State) : Out := runWord s (opFillSlot s f 1)
/-- XSCLD (R198). -/
def execXscld (f : FXS) (s : State) : Out := runWord s (opFillSlot s f 2)
/-- XMETA (R198). -/
def execXmeta (f : FXS) (s : State) : Out := runWord s (opFillSlot s f 3)

/-- XZERO (R197). -/
def execXzero (f : FXS) (s : State) : Out :=
  runWord s
    (if (s.me.mat.accAt f.a.toNat).busy then .stall s 0 0
     else roomT s (.next ((s.updMat fun m => { m with acc := vput m.acc f.a.toNat ⟨true, f.fmt, false, []⟩ }).flyX 0)))

/-- The elements of column group `cg` of a buffer, row by row (R199). -/
def groupOf (x : Acc) (cg : Nat) : List (BitVec 32) :=
  (rangeFrom 0 128).flatMap fun i => sparseRun 0 x.data (512 * i + 32 * cg) 32

/-- Elements of `w` bits as bytes, 32 of them at a time (R199). -/
def blockBytes (w : Nat) (l : List Nat) : List Byte :=
  (rangeFrom 0 128).flatMap fun i => toBytes (4 * w) (packElems w ((l.drop (32 * i)).take 32))

/-- A column group written to tile SRAM, its elements through `g` in format `f.fmt`; an error of the rows that it writes
reaches it (R199, R201). Where FMT_MISMATCH and LEASE_RANGE both apply no rule orders them: FMT_MISMATCH comes first (DESIGN
CHOICE, notes/assumptions/74.md). -/
def opDrain (s : State) (f : FXS) (tags : BitVec 4 → Bool) (need : BitVec 4) (g : BitVec 4 → Nat → BitVec 32 → Nat × Flags) :
    WRes :=
  let x := s.me.mat.accAt f.a.toNat
  let w := elemBits f.fmt
  if x.busy then .stall s 0 0
  else if !tags x.tag then .trap 0x20 (tagVal need x.tag)
  else tileAccess s (eaRun (s.ea f.gidx f.step) (512 * w)) false true fun s locs => roomT s (
    let (y, fl) := collect ((groupOf x f.o.toNat).mapIdx (g x.tag))
    let s := s.tileWrite locs (blockBytes w y) false
    let s := if f.rnd == 4 then s.updMe fun c => { c with sdcx := c.sdcx + 1 } else s
    .next (s.flyX fl))

/-- XDRAIN (R199). -/
def execXdrain (f : FXS) (s : State) : Out :=
  runWord s (opDrain s f (· == f.fmt) f.fmt fun _ _ v => (v.toNat, 0))

/-- The buffer tags that XCVT converts into a format (R199). -/
def cvtTag (fmt tag : BitVec 4) : Bool :=
  if tag = 1 then fmt = 2 || fmt = 3 || fmt = 4 || fmt = 5 || fmt = 6 else tag = 10 && (fmt = 8 || fmt = 9 || fmt = 1)

/-- One accumulator element converted (R199). -/
def cvtElem (fmt tag : BitVec 4) (rnd : BitVec 3) (r : Nat) (v : BitVec 32) : Nat × Flags :=
  if fmtI fmt then intResult fmt true v.toInt else encodeFloat fmt rnd false r (decodeNum tag v.toNat)

/-- XCVT (R199). -/
def execXcvt (f : FXS) (s : State) : Out :=
  runWord s (opDrain s f (cvtTag f.fmt) (if cvtTag f.fmt 1 then 1 else 10) fun tag i v =>
    cvtElem f.fmt tag f.rnd (s.drawOf .x i) v)

/-- XSTAT (R200). -/
def execXstat (f : FXS) (s : State) : Out :=
  let m := s.me.mat
  let b := m.slot.toList.flatMap (fun x => toBytes 2 x.desc.toNat) ++ m.acc.toList.flatMap (fun x => toBytes 2 x.desc.toNat)
    ++ toBytes 8 (m.steps % 2 ^ 40 + if m.shadow.run then 2 ^ 63 else 0)
    ++ toBytes 2 m.active.sclCfg.toNat ++ toBytes 2 m.active.sprCfg.toNat ++ List.replicate 12 0
  runWord s (tileAccess s (eaRun (s.ea f.gidx f.step) 64) false false fun s locs =>
    roomT s (.next ((s.tileWrite locs b false).flyX 0)))

/-! ## Pointers (R184, R196) -/

/-- The five pointers of a nest: which field of a level advances each, and its origin (R184). -/
inductive Ptr where
  | a | b | c | p | q
  deriving DecidableEq, Repr

/-- The advance of a pointer at a level. -/
def NestLevel.adv (l : NestLevel) (x : Ptr) : Int :=
  sx (match x with | .a => l.da | .b => l.db | .c => l.dc | .p => l.dsa | .q => l.dsb)

/-- The base of a pointer: the first row of its slot, for the operands, and its origin (R184). -/
def NestRec.base (r : NestRec) (f : FXC) (x : Ptr) : Int :=
  match x with
  | .a => f.oa.toNat * slotRows f.fa false + (vget 0 r.org 0).toNat
  | .b => f.ob.toNat * slotRows f.fb (f.spa != 0) + (vget 0 r.org 1).toNat
  | .c => (vget 0 r.org 2).toNat
  | .p => (vget 0 r.org 3).toNat
  | .q => (vget 0 r.org 4).toNat

/-- A pointer at the step of an index tuple (R184). -/
def NestRec.ptr (r : NestRec) (f : FXC) (x : Ptr) (idx : Vector (BitVec 32) 6) : Int :=
  (r.levels.toList.zip idx.toList).foldl (fun v p => v + p.2.toNat * p.1.adv x) (r.base f x)

/-- The least and the greatest value of a pointer (R196). -/
def NestRec.envelope (r : NestRec) (f : FXC) (x : Ptr) : Int × Int :=
  r.levels.toList.foldl (fun v l =>
    let d : Int := ((l.cnt.toNat - 1 : Nat) : Int) * l.adv x
    if d < 0 then (v.1 + d, v.2) else (v.1, v.2 + d)) (r.base f x, r.base f x)

/-- Every value that a pointer takes, given that the least is `lo`, no less than 0 (R196). -/
def NestRec.values (r : NestRec) (x : Ptr) (lo : Nat) : List Nat :=
  let m := r.levels.toList.foldl (fun m l =>
    let d := (l.adv x).natAbs
    if d = 0 then m else iter (fun m => m ||| (m <<< d)) (l.cnt.toNat - 1) m) 1
  ((rangeFrom 0 (m.log2 + 1)).filter (m.testBit ·)).map (lo + ·)

/-- Columns of a step: N = 64 × 2^shape (R189). -/
def colsOf (f : FXC) : Nat := 64 * 2 ^ f.shape.toNat

/-- B's row range as metadata rows (R186). -/
def metaBase (f : FXC) : Int := f.ob.toNat * slotRows f.fb (f.spa != 0)

/-- Whether every pointer of a nest stays in its range (R196). -/
def NestRec.inRange (r : NestRec) (f : FXC) : Bool :=
  let n : Int := colsOf f
  let within := fun (x : Ptr) (len top : Int) =>
    let e := r.envelope f x
    decide (0 ≤ e.1) && decide (e.2 + len ≤ top)
  let b := r.envelope f .b
  within .a 128 (16 * slotRows f.fa false) && within .b n (16 * slotRows f.fb (f.spa != 0)) && within .c n 512
    && (match f.scl.toNat with
        | 1 => within .p 1 64 && within .q ((n + 127) / 128) 8192
        | 2 => within .p 1 64 && within .q n 8192
        | _ => true)
    && (f.spa == 0 || (decide (metaBase f ≤ b.1) && decide (b.2 - metaBase f + n ≤ 4096)))

/-- The bytes of the slots that a nest reads through one pointer at each of its values: the slots' role and tag, and, by
value, the first byte and the number of bytes, slots counted on from o0 (R181, R185, R186). -/
structure Reads where
  role : BitVec 2
  tag : BitVec 4
  at_ : List Nat
  len : Nat

/-- What a nest in range reads (R196). -/
def NestRec.reads (r : NestRec) (f : FXC) : List Reads :=
  let vals := fun (x : Ptr) => r.values x (r.envelope f x).1.toNat
  let n := colsOf f
  let ra := rowBytes f.fa false
  let rb := rowBytes f.fb (f.spa != 0)
  let tag : BitVec 4 := if f.scl = 1 then 1 else 7
  let rows := vals .b
  [⟨1, f.fa, (vals .a).map (ra * ·), 128 * ra⟩, ⟨1, f.fb, rows.map (rb * ·), n * rb⟩]
    ++ (if f.scl = 0 then []
        else [⟨2, tag, (vals .p).map (fun v => 32768 * r.sclA.toNat + 512 * v), 512⟩,
              ⟨2, tag, (vals .q).map (fun v => 32768 * r.sclB.toNat + 4 * v), if f.scl = 1 then 4 * ((n + 127) / 128) else 4 * n⟩])
    ++ (if f.spa = 0 then []
        else [⟨3, 0, rows.map (fun v => 32768 * r.spaM.toNat + 8 * (v - (metaBase f).toNat)), 8 * n⟩])

/-- The quarters that are read, slots' quarters counted on from o0 (R196). -/
def Reads.quarters (x : Reads) : List Nat :=
  (rangeFrom 0 64).filter fun q => x.at_.any fun a => decide (a < 8192 * (q + 1)) && decide (8192 * q < a + x.len)

/-! ## XGO (R189, R195) -/

/-- Whether R189 allows a combination. -/
def comboOk (f : FXC) : Bool :=
  let e8 := fun (x : BitVec 4) => x == 4 || x == 5
  let i8 := fun (x : BitVec 4) => x == 8 || x == 9
  if e8 f.fa && e8 f.fb then f.scl == 0 || f.scl == 1
  else if f.fa == 6 && f.fb == 6 then f.scl == 2
  else if i8 f.fa && i8 f.fb then f.scl == 0
  else f.fa == f.fb && (f.fa == 2 || f.fa == 3) && f.scl == 0 && f.spa == 0 && decide (f.shape.toNat ≤ 2)

/-- The tag that an accumulator takes (R195). -/
def accTag (f : FXC) : BitVec 4 := if fmtI f.fa then 10 else 1

/-- The quarters of one kind with a slot that is not claimed, or in another role, or not filled there (R195). -/
def XState.unready (m : XState) (x : Reads) : Bool :=
  x.quarters.any fun q =>
    let o := m.slotAt (q / 4)
    !(o.cl && o.role == x.role && o.fq.getLsbD (q % 4))

/-- The tag of the first slot of one kind that does not fit (R195). -/
def XState.misfit (m : XState) (x : Reads) : Option Word :=
  (x.quarters.find? fun q => (m.slotAt (q / 4)).tag != x.tag).map fun q => tagVal x.tag (m.slotAt (q / 4)).tag

/-- The start of a nest: the shadow, the descriptors, BUSY (R195). -/
def XState.start (m : XState) (f : FXC) (w : Word) (slots : List Nat) : XState :=
  { m with
    shadow := { m.active with xgow := w, idx := Vector.replicate 6 0, run := true }
    acc := vupd m.acc f.a.toNat fun x => { x with tag := accTag f, wr := true, busy := true }
    slot := slots.foldl (fun v o => vupd v o fun x => { x with busy := true }) m.slot
    steps := 0 }

/-- XGO (R195). -/
def execXgo (f : FXC) (s : State) : Out :=
  let m := s.me.mat
  let r := m.active
  runWord s
    (if m.shadow.run then .stall s 0 0
     else if !comboOk f then .trap 0x61 0
     else if f.scl != r.scl || f.spa != r.spa then .trap 0x62 0
     else if 2 ^ 40 < r.levels.toList.foldl (fun p l => p * l.cnt.toNat) 1 then .trap 0x63 0
     else if !r.inRange f then .trap 0x63 0
     else
       let rs := r.reads f
       if rs.any m.unready then .trap 0x60 0
       else match rs.findSome? m.misfit with
         | some t => .trap 0x20 t
         | none =>
           let tag := (m.accAt f.a.toNat).tag
           if tag != 0 && tag != accTag f then .trap 0x20 (tagVal (accTag f) tag)
           else roomT s
             (.next ((s.updMat fun m => m.start f s.cur.word (rs.flatMap fun x => x.quarters.map (· / 4))).updMe Ctx.incT)))

/-! ## The step (R187, R188, R90 to R92) -/

/-- `n` bytes of the slots from byte `g`, slots counted on from o0. -/
def XState.slotBytes (m : XState) (g n : Nat) : List Byte := sparseRun 0 (m.slotAt (g / 32768)).data (g % 32768) n

/-- The elements of a row, or, of a sparse one, its 32 stored elements (R181). -/
def XState.rowElems (m : XState) (fmt : BitVec 4) (sparse : Bool) (row : Nat) : List Num :=
  let b := ofBytes (m.slotBytes (row * rowBytes fmt sparse) (rowBytes fmt sparse))
  (rangeFrom 0 (if sparse then 32 else 64)).map fun t => decodeNum fmt (nbits b (elemBits fmt * t) (elemBits fmt))

/-- An element with the fine scale of its group of 16; an invalid scale makes it a NaN under SCALE_INV (R89, R185). -/
def XState.fine (m : XState) (slot i t : Nat) (v : Num) : Num × Flags :=
  let x := decodeFloat 7 (ofBytes (m.slotBytes (32768 * slot + 4 * i + t / 16) 1))
  if x == .nan then (.nan, flScale) else ((mulNum v x).1, 0)

/-- The 64 elements of A's row for output row `i` (R188). -/
def XState.rowA (m : XState) (f : FXC) (i : Nat) : List (Num × Flags) :=
  let r := m.shadow
  let row := (r.ptr f .a r.idx).toNat + i
  let p := (r.ptr f .p r.idx).toNat
  (m.rowElems f.fa false row).mapIdx fun t v => if f.scl = 2 then m.fine r.sclA.toNat (p * 128 + i) t v else (v, 0)

/-- For output column `j`, the elements that B holds at each of the 64 positions: one each, or, of a sparse row, those
that its metadata puts there, none where the row is marked zero under .sp2 (R187, R188). -/
def XState.rowB (m : XState) (f : FXC) (j : Nat) : List (List (Num × Flags)) :=
  let r := m.shadow
  let row := (r.ptr f .b r.idx).toNat + j
  let q := (r.ptr f .q r.idx).toNat
  let scale := fun (t : Nat) (v : Num) => if f.scl = 2 then m.fine r.sclB.toNat (q + j) t v else (v, 0)
  if f.spa = 0 then (m.rowElems f.fb false row).mapIdx fun t v => [scale t v]
  else
    let pos := ofBytes (m.slotBytes (32768 * r.spaM.toNat + 8 * (row - (metaBase f).toNat)) 8)
    if f.spa = 2 && pos = 2 ^ 64 - 1 then List.replicate 64 []
    else
      let es := (m.rowElems f.fb true row).mapIdx fun e v => (4 * (e / 2) + nbits pos (2 * e) 2, v)
      (rangeFrom 0 64).map fun t => (es.filter (·.1 = t)).map fun p => scale t p.2

/-- The exact sum of a block's products, with the flags of its operands and products (R90, R91). The spec gives the exact
zeros that pruned products count as no sign; they are left out of the sum, which is +0 where nothing is left (DESIGN CHOICE,
notes/assumptions/65.md). -/
def blockSum (a : List (Num × Flags)) (b : List (List (Num × Flags))) : Num × Flags :=
  let ps := (a.zip b).flatMap fun p => p.2.map fun y =>
    let (v, fl) := mulNum p.1.1 y.1
    (v, fl ||| p.1.2 ||| y.2)
  let (v, fl) := sumNum 0 (ps.map (·.1))
  (v, ps.foldl (fun a p => a ||| p.2) fl)

/-- A value rounded to FP32 by nearest-even, added to the flags so far (R90). -/
def rne32 (v : Num × Flags) : Num × Flags :=
  let (x, fl) := encodeFloat 1 0 false 0 v.1
  (decodeFloat 1 x, v.2 ||| fl)

/-- The FP32 entry `e` of a scale slot (R185). -/
def XState.coarse (m : XState) (slot e : Nat) : Num := decodeFloat 1 (ofBytes (m.slotBytes (32768 * slot + 4 * e) 4))

/-- One accumulator element after a step (R90 to R92). -/
def XState.element (m : XState) (f : FXC) (i j : Nat) (a : List (Num × Flags)) (b : List (List (Num × Flags)))
    (acc : BitVec 32) : Nat × Flags :=
  let (v, fl) := blockSum a b
  if fmtI f.fa then intResult 10 false (acc.toInt + multipleOf 0 v)
  else
    let r := m.shadow
    let p := rne32 (v, fl)
    let p :=
      if f.scl = 1 then
        let sx := m.coarse r.sclA.toNat ((r.ptr f .p r.idx).toNat * 128 + i)
        let sw := m.coarse r.sclB.toNat ((r.ptr f .q r.idx).toNat + j / 128)
        let sc := rne32 (mulNum sx sw)
        let (y, g) := mulNum p.1 sc.1
        rne32 (y, p.2 ||| sc.2 ||| g)
      else p
    let (y, g) := addNum 0 (decodeFloat 1 acc.toNat) p.1
    let (x, g') := encodeFloat 1 0 false 0 y
    (x, p.2 ||| g ||| g')

/-- The index tuple after one, innermost fastest (R184). -/
def nextIdx : List NestLevel → List (BitVec 32) → List (BitVec 32) × Bool
  | l :: ls, i :: is =>
    match nextIdx ls is with
    | (r, false) => (i :: r, false)
    | (r, true) => if i.toNat + 1 < l.cnt.toNat then ((i + 1) :: r, false) else (0 :: r, true)
  | _, _ => ([], true)

/-- The word of the XGO that runs. -/
def XState.running (m : XState) : Option FXC :=
  match decode .x m.shadow.xgow with
  | .ok (.xgo f) => if m.shadow.run then some f else none
  | _ => none

/-- The accumulator after a step, with the step's flags (R188). -/
def XState.stepAcc (m : XState) (f : FXC) : Sparse (BitVec 32) × Flags :=
  let n := colsOf f
  let c := (m.shadow.ptr f .c m.shadow.idx).toNat
  let old := (m.accAt f.a.toNat).data
  let bs := (rangeFrom 0 n).map (m.rowB f)
  (rangeFrom 0 128).foldl (fun d i =>
    let a := m.rowA f i
    let (y, fl) := collect (((sparseRun 0 old (512 * i + c) n).zip bs).mapIdx fun j p => m.element f i j a p.2 p.1)
    (overlay 0 d.1 (512 * i + c) (y.map (BitVec.ofNat 32)), d.2 ||| fl)) (old, 0)

/-- XGO_STEP (R188): one step of the XGO that runs on the tile; after the last, it completes (R195). -/
def execXgoStep (s : State) : Out :=
  match s.me.mat.running with
  | none => .next { s with last := .event }
  | some f =>
    let (d, fl) := s.me.mat.stepAcc f
    let (idx, done) := nextIdx s.me.mat.shadow.levels.toList s.me.mat.shadow.idx.toList
    let s := s.updMat fun m =>
      { m with
        acc := vupd m.acc f.a.toNat fun x => { x with data := d, busy := x.busy && !done }
        slot := m.slot.map fun x => { x with busy := x.busy && !done }
        shadow := { m.shadow with idx := Vector.ofFn fun i => (idx[i.val]?).getD 0, run := !done }
        steps := m.steps + 1 }
    let s := s.updMe fun c => (if done then c.decT else c).flag fl
    .next { s with last := .event }

end Sys2Proof.Machine
end

