-- ==== Sys2Proof/Machine/Branch.lean ====
section
/-!
DEFINITION. Branches, jumps, hardware loops and the read side of the condition vectors (R113 to R125).
-/
namespace Sys2Proof.Machine

/-- Words in the C section. -/
def State.cWords (s : State) : Nat := (vget ⟨0, 0⟩ s.here.sect 0).words

/-- A level of the loop state is active and ends at index `p` (R119). -/
def CRegs.endsAt (c : CRegs) (n p : Nat) : Bool := c.lpact.getLsbD n && (vget 0 c.lpend n).toNat == p

/-- A word that R119 forbids at the end of an active body: LOOP_STATE before the word's other causes, an order that the
spec does not state (DESIGN CHOICE, notes/assumptions/60.md). -/
def notAtEnd (s : State) (r : WRes) : WRes :=
  if [0, 1, 2].any fun n => s.me.c.endsAt n s.cur.idx then .trap 0x07 0 else r

/-- The levels whose body does not hold the target of a taken branch closed (R119). -/
def CRegs.leaveLoops (c : CRegs) (t : Nat) : CRegs :=
  [0, 1, 2].foldl (fun c n =>
    if c.lpact.getLsbD n && (decide (t < (vget 0 c.lpbeg n).toNat) || decide ((vget 0 c.lpend n).toNat < t)) then
      { c with lpcnt := vput c.lpcnt n 0, lpact := setBit c.lpact n false }
    else c) c

/-- A taken branch to `t`, with what else the word does (R113, R119). -/
def branchTo (s : State) (t : Int) (eff : State → State) : WRes :=
  if t < 0 || (s.cWords : Int) ≤ t then .trap 0x05 (BitVec.ofInt 64 t)
  else .goto ((eff s).updC (·.leaveLoops t.toNat)) t.toNat true

/-- A conditional branch (R114). -/
def opBranch (s : State) (f : FCB) (taken : Word → Word → Bool) : WRes :=
  gated s (reading s [f.sa, f.sb] (notAtEnd s
    (if taken (s.reg f.sa) (s.reg f.sb) then branchTo s (s.cur.idx + f.disp.toInt) id else .next s)))

/-- BEQ (R114). -/
def execBeq (f : FCB) (s : State) : Out := runWord s (opBranch s f fun a b => a == b)
/-- BNE (R114). -/
def execBne (f : FCB) (s : State) : Out := runWord s (opBranch s f fun a b => a != b)
/-- BLT (R114). -/
def execBlt (f : FCB) (s : State) : Out := runWord s (opBranch s f fun a b => a.slt b)
/-- BGE (R114). -/
def execBge (f : FCB) (s : State) : Out := runWord s (opBranch s f fun a b => !a.slt b)
/-- BLTU (R114). -/
def execBltu (f : FCB) (s : State) : Out := runWord s (opBranch s f fun a b => a.ult b)
/-- BGEU (R114). -/
def execBgeu (f : FCB) (s : State) : Out := runWord s (opBranch s f fun a b => !a.ult b)

/-- The link of JAL and JALR (R115). -/
def link (f : FCB) (s : State) : State := s.wr f.sa (BitVec.ofNat 64 (s.cur.idx + 1)) false 1

/-- JAL (R115). -/
def execJal (f : FCB) (s : State) : Out :=
  runWord s (gated s (notAtEnd s (branchTo s (s.cur.idx + f.disp.toInt) (link f))))

/-- JALR (R115): its target is s[sb] + disp, computed exactly; s[sb] is taken as an unsigned number, which the rule does
not say (DESIGN CHOICE, notes/assumptions/61.md). -/
def execJalr (f : FCB) (s : State) : Out :=
  runWord s (gated s (reading s [f.sb] (notAtEnd s (branchTo s ((s.reg f.sb).toNat + f.disp.toInt) (link f)))))

/-- The read cursor of condition vector `j` (R123). -/
def State.kcur (s : State) (j : Nat) : Nat := (vget 0 s.me.c.kcur j).toNat

/-- The cursor of condition vector `j` moved on by `n`. -/
def State.kmove (s : State) (j n : Nat) : State :=
  s.updC fun c => { c with kcur := vupd c.kcur j (· + BitVec.ofNat 11 n) }

/-- KBR (R125). -/
def execKbr (f : FCB) (s : State) : Out :=
  let j := (bits f.sa 0 2).toNat
  runWord s (gated s (notAtEnd s
    (if !s.me.c.kvalid.getLsbD j || s.kcur j == 1024 then .trap 0x28 0
     else if (vget 0 s.me.c.kr j).getLsbD (s.kcur j) != f.q.getLsbD 0 then
       branchTo s (s.cur.idx + f.disp.toInt) (·.kmove j 1)
     else .next (s.kmove j 1))))

/-- KPOP (R124). -/
def execKpop (f : FCR) (s : State) : Out :=
  let j := (bits f.sa 0 2).toNat
  let n := f.q.toNat + 1
  runWord s
    (if !s.me.c.kvalid.getLsbD j || 1024 < s.kcur j + n then .trap 0x28 0
     else .next ((s.wr f.sd (BitVec.ofNat 64 (nbits (vget 0 s.me.c.kr j).toNat (s.kcur j) n)) false 1).kmove j n))

/-! ## Hardware loops -/

/-- The body that a LOOP at index `p` activates: from its fields, or from the staged copy, none where that is not
written (R117). -/
def loopBody (c : CRegs) (f : FCL) (p : Nat) : Option (Int × Int) :=
  if f.q.getLsbD 0 then
    let g := vget ⟨false, 0, 0⟩ c.lpstg f.lvl.toNat
    if g.v then some (g.beg.toNat, g.fin.toNat) else none
  else
    let b := (p : Int) + f.beg.toInt
    some (b, b + f.len.toNat - 1)

/-- LOOP (R117). -/
def opLoop (s : State) (f : FCL) : WRes :=
  let c := s.me.c
  let n := f.lvl.toNat
  let p := s.cur.idx
  reading s [f.sa] (notAtEnd s
    (if (rangeFrom n (3 - n)).any (c.lpact.getLsbD ·) then .trap 0x07 0
     else match loopBody c f p with
      | none => .trap 0x07 0
      | some (b, e) =>
        if b ≤ p || e < b then .trap 0x07 0
        else if (s.cWords : Int) ≤ e then .trap 0x05 (BitVec.ofInt 64 e)
        else if (rangeFrom 0 n).any fun j => c.lpact.getLsbD j && decide ((vget 0 c.lpend j).toNat < e) then .trap 0x07 0
        else if (s.reg f.sa).toNat ≥ 2 ^ 32 then .trap 0x03 0
        else gated s
          (let cnt : BitVec 32 := bits (s.reg f.sa) 0 32
           let s := s.updC fun c =>
             { c with
               lpstg := if f.q.getLsbD 0 then vupd c.lpstg n fun g => { g with v := false } else c.lpstg
               lpbeg := vput c.lpbeg n (BitVec.ofInt 24 b)
               lpend := vput c.lpend n (BitVec.ofInt 24 e)
               lpcnt := vput c.lpcnt n cnt
               lpact := setBit c.lpact n (cnt != 0) }
           if cnt = 0 then .over s e.toNat true else .goto s (p + 1) false)))

/-- LOOP (R117). -/
def execLoop (f : FCL) (s : State) : Out := runWord s (opLoop s f)

/-- A write of kw that LPROT waits for: one issued at or before this beat that has not landed (R122). -/
def State.kwFlying (s : State) : Bool := s.me.vec.fly.any fun w => w.kw && decide (s.here.beat < w.due)

/-- The hand-off of the condition vectors and the rotation (R122, R137). -/
def Ctx.handOff (c : Ctx) : Ctx :=
  { c with
    c := { c.c with kr := c.vec.kw, kcur := Vector.replicate 4 0, kvalid := 15, rrb := c.c.rrb - 1 }
    vec := { c.vec with kw := Vector.replicate 4 0, kwcur := Vector.replicate 4 0 } }

/-- LPROT (R122). -/
def execLprot (f : FCL) (s : State) : Out :=
  let c := s.me.c
  let n := f.lvl.toNat
  runWord s
    (if !c.endsAt n s.cur.idx || [0, 1, 2].any fun j => j != n && c.endsAt j s.cur.idx then .trap 0x07 0
     else if s.kwFlying then .stall s 0 0
     else .next (s.updMe Ctx.handOff))

end Sys2Proof.Machine
end

