-- ==== Sys2Proof/Machine/Special.lean ====
section
/-!
DEFINITION. The special registers: MFS and MTS (R108 to R110, R120, R121, R279, R291, R323, R341, R348, R349).
-/
namespace Sys2Proof.Machine

/-- V words of an open region at least 16 counted beats old land before SFLAGS is read or cleared; their flags were set
before the present beat (R279). -/
def Ctx.landOldV (c : Ctx) (cnt : Nat) : Ctx :=
  if c.lockstep then
    let due := fun i => (c.vec.fly[i]?).any fun f => decide (f.counted + 16 ≤ cnt)
    let z := ((rangeFrom 0 c.vec.fly.length).filter due).foldr (fun i c => c.landVAt i) c
    { z with flagNew := c.flagNew }
  else c

/-- Commands of a box queued on the six units of its die (R341). -/
def State.slPend (s : State) (b : Nat) : Nat :=
  (s.die (boxDie b)).units.toList.foldl (fun n q => n + (q.filter (·.box == b)).length) 0

/-- Backfill entries of a box queued or running (R341). -/
def State.bfPend (s : State) (b : Nat) : Nat := ((s.die (boxDie b)).backfill.filter (·.source == b)).length

/-- LPSTGn (R110). -/
def stagedWord (g : Staged) : Word := BitVec.setWidth 64 g.beg ||| (BitVec.setWidth 64 g.fin <<< 24) ||| (if g.v then 1 <<< 63 else 0)

/-- KCURn (R108). -/
def State.kcurWord (s : State) (j : Nat) : Word :=
  BitVec.ofNat 64 (s.kcur j + if s.me.c.kvalid.getLsbD j then 2 ^ 63 else 0)

/-- TSTATUS (R349). -/
def TrapRegs.status (r : TrapRegs) : Word := BitVec.ofNat 64 (r.tpend.toNat * 256 + if r.act then 1 else 0)

/-- PCKPC (R105, R108). -/
def pckpc (k : Option Checkpoint) : Word :=
  match k with
  | some k => BitVec.ofNat 64 (k.idx % 2 ^ 24 + 2 ^ 63)
  | none => 0

/-- The value of a special register at issue (R108). -/
def State.readSpr (s : State) (n : Nat) : Word :=
  let x := s.here
  let c := s.me
  let z := fun {w : Nat} (v : BitVec w) => BitVec.setWidth 64 v
  match n with
  | 0x000 => z x.ctxno
  | 0x001 => BitVec.ofNat 64 s.cur.at_
  | 0x002 => z c.c.rrb
  | 0x010 => z (vget 0 c.c.lpcnt 0)
  | 0x011 => z (vget 0 c.c.lpcnt 1)
  | 0x012 => z (vget 0 c.c.lpcnt 2)
  | 0x014 => z (vget 0 c.c.lpbeg 0)
  | 0x015 => z (vget 0 c.c.lpbeg 1)
  | 0x016 => z (vget 0 c.c.lpbeg 2)
  | 0x018 => z (vget 0 c.c.lpend 0)
  | 0x019 => z (vget 0 c.c.lpend 1)
  | 0x01A => z (vget 0 c.c.lpend 2)
  | 0x01C => stagedWord (vget ⟨false, 0, 0⟩ c.c.lpstg 0)
  | 0x01D => stagedWord (vget ⟨false, 0, 0⟩ c.c.lpstg 1)
  | 0x01E => stagedWord (vget ⟨false, 0, 0⟩ c.c.lpstg 2)
  | 0x01F => z c.c.lpact
  | 0x020 => z c.clkrq
  | 0x021 => z x.clkgr
  | 0x030 => s.timeWord
  | 0x031 => c.seed
  | 0x038 => s.kcurWord 0
  | 0x039 => s.kcurWord 1
  | 0x03A => s.kcurWord 2
  | 0x03B => s.kcurWord 3
  | 0x040 => z c.c.poison
  | 0x041 => pckpc c.ckpt
  | 0x048 => c.trap.faultpc
  | 0x049 => c.trap.tcause
  | 0x04A => c.trap.tval
  | 0x04B => c.trap.tword
  | 0x04C => c.trap.tvec
  | 0x04D => c.trap.status
  | 0x04E => c.trap.tscra
  | 0x04F => c.trap.tscrb
  | 0x050 => z c.sdcv
  | 0x051 => z c.sdcx
  | 0x052 => z c.sdcs
  | 0x060 => z c.oc.ocl
  | 0x061 => z c.oc.ocs
  | 0x062 => z c.oc.occ
  | 0x063 => z c.oc.oct
  | 0x064 => z c.sflags
  | 0x070 => z (s.box s.myBox).evpend
  | 0x071 => (s.box s.myBox).rcb
  | 0x072 => z (s.effWthr (boxDie s.myBox) (s.box s.myBox).rcb)
  | 0x073 => z (s.effPrio (boxDie s.myBox) (s.box s.myBox).rcb)
  | 0x078 => BitVec.ofNat 64 (s.slPend s.myBox)
  | 0x079 => BitVec.ofNat 64 (s.bfPend s.myBox)
  | 0x07A => z (s.clkpw s.myBox)
  | _ => 0

/-- MFS (R109): the value, clean, with latency 1; SFLAGS shows what R279 says has landed. -/
def execMfs (f : FCS) (s : State) : Out :=
  let s' := if f.spr.toNat = 0x064 then s.updMe (·.landOldV s.here.cnt) else s
  let s' := if f.spr.toNat = 0x07A then { s' with fresh := s'.fresh + 1 } else s'
  runWord s (.next (s'.wr f.sd ((if f.spr.toNat = 0x07A then s else s').readSpr f.spr.toNat) false 1))

/-- The checks of MTS before its effect (R109): SPR_ACCESS, then the park of R104. -/
def opMts (s : State) (f : FCS) (eff : Word → State → State) : WRes :=
  if sprAccess f.spr == .ro then .trap 0x29 0
  else gated s (reading s [f.sa] (.next (eff (s.reg f.sa) s)))

/-- The effect of an MTS to one of the registers that no other row names: the low bits of the value (R109, R349). -/
def writeSpr (n : Nat) (v : Word) (s : State) : State :=
  match n with
  | 0x002 => s.updC fun c => { c with rrb := bits v 0 4 }
  | 0x031 => s.updMe fun c => { c with seed := v }
  | 0x04C => s.updMe fun c => { c with trap := { c.trap with tvec := v &&& 0x8000000000FFFFFF } }
  | 0x04E => s.updMe fun c => { c with trap := { c.trap with tscra := v } }
  | 0x04F => s.updMe fun c => { c with trap := { c.trap with tscrb := v } }
  | 0x050 => s.updMe fun c => { c with sdcv := bits v 0 32 }
  | 0x051 => s.updMe fun c => { c with sdcx := bits v 0 32 }
  | 0x052 => s.updMe fun c => { c with sdcs := bits v 0 32 }
  | _ => s

/-- MTS (R109). -/
def execMts (f : FCS) (s : State) : Out := runWord s (opMts s f (writeSpr f.spr.toNat))

/-- MTS to CLKRQ: on rank 0 the arbiter of the die runs again (R323). -/
def execMtsClkrq (f : FCS) (s : State) : Out :=
  runWord s (opMts s f fun v s =>
    let s := s.updMe fun c => { c with clkrq := bits v 0 16 }
    if s.here.rank = 0 then s.rearbitrate (boxDie s.myBox) else s)

/-- MTS to LPBEGn or LPENDn: one half of the staged copy, and its V (R121). -/
def execMtsLpbegLpend (f : FCS) (s : State) : Out :=
  runWord s (opMts s f fun v s =>
    s.updC fun c => { c with lpstg := vupd c.lpstg (f.spr.toNat % 4) fun g =>
      if f.spr.toNat < 0x018 then { g with v := true, beg := bits v 0 24 } else { g with v := true, fin := bits v 0 24 } })

/-- MTS to LPCNTn: the remaining count (R120). -/
def execMtsLpcnt (f : FCS) (s : State) : Out :=
  runWord s (opMts s f fun v s => s.updC fun c => { c with lpcnt := vput c.lpcnt (f.spr.toNat % 4) (bits v 0 32) })

/-- MTS to EVPEND: the bits written as 1 are cleared, but for the events of the same beat (R290, R291). -/
def execMtsEvpend (f : FCS) (s : State) : Out :=
  runWord s (opMts s f fun v s =>
    let gone := bits v 0 32 &&& ~~~s.here.newEvents
    s.updBox s.myBox fun x => { x with evpend := x.evpend &&& ~~~gone })

/-- MTS to SFLAGS: the bits written as 1 are cleared, but for those set at the same beat; what R279 says has landed has
(R279). -/
def execMtsSflags (f : FCS) (s : State) : Out :=
  runWord s (opMts s f fun v s => s.updMe fun c =>
    let c := c.landOldV s.here.cnt
    { c with sflags := c.sflags &&& ~~~(bits v 0 5 &&& ~~~c.flagNew) })

end Sys2Proof.Machine
end

