-- ==== Sys2Proof/Machine/SumProd.lean ====
section
/-!
DEFINITION. The sum-product words: SPF32 (R83 to R87), the banks (R158 to R163), the subtree passes (R164 to R167), bank loads
and stores (R168) and the register operations of format SB (R169 to R171).
-/
namespace Sys2Proof.Machine

/-! ## SPF32 (R83 to R87) -/

/-- A lane: its word and its group exponent. -/
structure Lane32 where
  w : BitVec 32
  g : BitVec 16
  deriving DecidableEq, Repr

/-- The value of a lane, a multiple of a power of two; 0 where f is 0 (R83). -/
def Lane32.val (x : Lane32) : Nat × Int :=
  ((bits x.w 0 24 : BitVec 24).toNat, -(24 + ((bits x.w 24 8 : BitVec 8).toNat : Int) + x.g.toInt))

/-- The exact product of two values. -/
def mulVal (a b : Nat × Int) : Nat × Int := (a.1 * b.1, a.2 + b.2)

/-- The exact product of some values. -/
def prodVal (l : List (Nat × Int)) : Nat × Int := l.foldl mulVal (1, 0)

/-- The exact sum of some values; zeros are left out. -/
def sumVal (l : List (Nat × Int)) : Nat × Int :=
  match l.filter (·.1 != 0) with
  | [] => (0, 0)
  | x :: r =>
    let e := r.foldl (fun a v => min a v.2) x.2
    ((x :: r).foldl (fun a v => a + v.1 * 2 ^ (v.2 - e).toNat) 0, e)

/-- A nonzero magnitude formed as a lane (R84, R85). -/
def formMag (gref : BitVec 16) (rnd : BitVec 3) (r : Nat) (x : Mag) : Lane32 × Flags :=
  let l := x.log
  let (k, _) := roundAt x (l - 23) false rnd r
  let (f, t) := if k = 2 ^ 24 then (2 ^ 23, -2 - l) else (k, -1 - l)
  let d := t - gref.toInt
  let word := fun (e : Int) => BitVec.ofNat 32 (e.toNat * 2 ^ 24 + f)
  if 0 ≤ d && d ≤ 255 then (⟨word d, gref⟩, 0)
  else if 255 < d then
    if t - 255 ≤ 32767 then (⟨word 255, BitVec.ofInt 16 (t - 255)⟩, 0) else (⟨0, gref⟩, flUflow)
  else if -32768 ≤ t then (⟨word 0, BitVec.ofInt 16 t⟩, 0)
  else (⟨0x00FFFFFF, 0x8000⟩, flOvf)

/-- An exact value formed as a lane (R84). -/
def formVal (gref : BitVec 16) (rnd : BitVec 3) (r : Nat) (v : Nat × Int) : Lane32 × Flags :=
  if v.1 = 0 then (⟨0, gref⟩, 0) else formMag gref rnd r (.dyadic v.1 v.2)

/-! ## The banks (R159, R160) -/

/-- The lanes of a run of registers, register by register. -/
def SState.run (p : SState) (bank i n : Nat) : List Lane32 :=
  (sparseRun 0 p.word (32 * (256 * bank + i)) (32 * n)).zipWith Lane32.mk
    (sparseRun 0 p.g (32 * (256 * bank + i)) (32 * n))

/-- A run of registers written, readable from beat `ready`. -/
def SState.put (p : SState) (bank i : Nat) (l : List Lane32) (ready : Nat) : SState :=
  let k := 32 * (256 * bank + i)
  { p with
    word := overlay 0 p.word k (l.map (·.w)), g := overlay 0 p.g k (l.map (·.g))
    ready := overlay 0 p.ready (256 * bank + i) (List.replicate (l.length / 32) ready) }

/-- The mirror bank (R160). -/
def mirrorBank (bank : Nat) : Nat := if bank < 8 then bank + 8 else bank - 8

/-- A run of registers that a word names: bank, first index, count. -/
structure Run where
  bank : Nat
  i : Nat
  n : Nat
  deriving DecidableEq, Repr

/-- The mirror run. -/
def Run.mirror (r : Run) : Run := ⟨mirrorBank r.bank, r.i, r.n⟩

/-- The accesses of some runs to a bank. -/
def inBank (l : List Run) (b : Nat) : Nat := l.foldl (fun a r => if r.bank = b then a + r.n else a) 0

/-- B of R163 for an operation on registers. -/
def occupancy (reads writes : List Run) : Nat :=
  (rangeFrom 0 16).foldl (fun a b => max a (max ((inBank reads b + 3) / 4) ((inBank writes b + 1) / 2))) 1

/-- A word of the engine on runs of registers: the range check of every run (R162), the stall on a register that may not be
read yet (R163), room for one more tile operation (R271), then `k`. -/
def sWord (s : State) (reads writes : List Run) (k : WRes) : WRes :=
  if (reads ++ writes).any fun r => decide (256 < r.i + r.n) then .trap 0x2A 0
  else if reads.any fun r => (sparseRun 0 s.me.spe.ready (256 * r.bank + r.i) r.n).any fun b => decide (s.here.beat < b) then
    .stall s 0 0
  else roomT s k

/-- What an S word leaves: the engine busy for B beats, one tile operation to complete, its flags, and SDCS advanced under
.rs (R81, R161, R163, R279). No rule names the beat at which a word completes: it may from B beats after its issue on (DESIGN
CHOICE, notes/assumptions/73.md). -/
def State.flyS (s : State) (b : Nat) (rnd : BitVec 3) (fl : Flags) : State :=
  s.updTile s.cur.at_ fun x =>
    let c := x.ctx
    let c := { c with
      spe := { c.spe with fly := c.spe.fly ++ [(⟨fl, 0, 0, false, x.beat, x.cnt, x.beat + b⟩ : WordFly)] }
      sdcs := if rnd == 4 then c.sdcs + 1 else c.sdcs }
    { x with holdS := x.beat + b, ctx := c.incT }

/-- The engine's registers changed. -/
def State.updSpe (s : State) (f : SState → SState) : State := s.updMe fun c => { c with spe := f c.spe }

/-- A word that writes the run `dst` with `l`, each lane with its flags. -/
def sResult (s : State) (reads : List Run) (dst : Run) (rnd : BitVec 3) (l : List (Lane32 × Flags)) : WRes :=
  let b := occupancy reads [dst]
  let fl := l.foldl (fun a p => a ||| p.2) 0
  .next ((s.updSpe fun p => p.put dst.bank dst.i (l.map (·.1)) (s.here.beat + b + 5)).flyS b rnd fl)

/-- The lanes of a run. -/
def State.lanesOf (s : State) (r : Run) : List Lane32 := s.me.spe.run r.bank r.i r.n

/-! ## Subtree passes (R164 to R166) -/

/-- P, F and N of a shape (R164). -/
def shapeP (f : FSP) : Nat := (bits f.shape 6 2 : BitVec 2).toNat + 1
def shapeF (f : FSP) : Nat := (bits f.shape 3 3 : BitVec 3).toNat + 1
def shapeN (f : FSP) : Nat := (bits f.shape 0 3 : BitVec 3).toNat + 1

/-- The input, weight and output runs of a pass. -/
def inRun (f : FSP) : Run := ⟨f.bi.toNat, f.ii.toNat, shapeN f * shapeF f * shapeP f⟩
def wtRun (f : FSP) : Run := ⟨f.bw.toNat, f.iw.toNat, shapeN f * shapeF f⟩
def outRun (f : FSP) : Run := ⟨f.bo.toNat, f.io.toNat, shapeN f⟩

/-- Lane `lane` of register `k` of a run of lanes. -/
def laneAt (l : List Lane32) (k lane : Nat) : Lane32 := (l[32 * k + lane]?).getD ⟨0, 0⟩

/-- An upward pass (R165); without weights each is 1. -/
def opUp (s : State) (f : FSP) (weighted : Bool) : WRes :=
  let reads := inRun f :: if weighted then [wtRun f] else []
  sWord s reads [outRun f]
    (let a := s.lanesOf (inRun f)
     let w := if weighted then s.lanesOf (wtRun f) else []
     let o := s.lanesOf (outRun f)
     let res := (rangeFrom 0 (shapeN f)).flatMap fun j => (rangeFrom 0 32).map fun lane =>
       let v := sumVal ((rangeFrom 0 (shapeF f)).map fun k =>
         let t := j * shapeF f + k
         let p := prodVal ((rangeFrom 0 (shapeP f)).map fun l => (laneAt a (t * shapeP f + l) lane).val)
         if weighted then mulVal (laneAt w t lane).val p else p)
       formVal (laneAt o j lane).g 0 0 v
     sResult s reads (outRun f) 0 res)

/-- SUP (R165). -/
def execSup (f : FSP) (s : State) : Out := runWord s (opUp s f true)
/-- SSUM (R165). -/
def execSsum (f : FSP) (s : State) : Out := runWord s (opUp s f false)
/-- SMUL (R165). -/
def execSmul (f : FSP) (s : State) : Out := runWord s (opUp s f false)

/-- SDOWN (R166). -/
def execSdown (f : FSP) (s : State) : Out :=
  let reads := [inRun f, wtRun f, (outRun f).mirror, (inRun f).mirror]
  runWord s (sWord s reads [(inRun f).mirror]
    (let a := s.lanesOf (inRun f)
     let w := s.lanesOf (wtRun f)
     let dout := s.lanesOf (outRun f).mirror
     let din := s.lanesOf (inRun f).mirror
     let p := shapeP f
     let res := (rangeFrom 0 (inRun f).n).flatMap fun i => (rangeFrom 0 32).map fun lane =>
       let t := i / p
       let others := ((rangeFrom 0 p).filter (· != i % p)).map fun m => (laneAt a (t * p + m) lane).val
       let c := prodVal ((laneAt dout (t / shapeF f) lane).val :: (laneAt w t lane).val :: others)
       let old := laneAt din i lane
       formVal old.g 0 0 (sumVal [old.val, c])
     sResult s reads (inRun f).mirror 0 res))

/-! ## Bank loads and stores (R168) -/

/-- The registers of a bank load or store. -/
def memRun (f : FSM) : Run := ⟨f.b.toNat, f.i.toNat, f.n.toNat + 1⟩

/-- The bytes of a register's words and of its exponents (R159). -/
def regBytes (l : List Lane32) (withG : Bool) : List Byte :=
  l.flatMap (fun x => toBytes 4 x.w.toNat) ++ if withG then l.flatMap (fun x => toBytes 2 x.g.toNat) else []

/-- The lanes of a register from its bytes. -/
def bytesReg (b : List Byte) (withG : Bool) : List Lane32 :=
  (rangeFrom 0 32).map fun lane =>
    ⟨BitVec.ofNat 32 (ofBytes ((b.drop (4 * lane)).take 4)),
     if withG then BitVec.ofNat 16 (ofBytes ((b.drop (128 + 2 * lane)).take 2)) else 0⟩

/-- A bank load: SLD, and SLDW without the exponents (R168). -/
def opBankLoad (s : State) (f : FSM) (withG : Bool) : WRes :=
  let n := if withG then 192 else 128
  let r := memRun f
  sWord s [] [r] (tileAccess s (eaRun (s.ea f.gidx f.step) (n * r.n)) false true fun s locs =>
    let b := s.getBytes locs
    let l := (rangeFrom 0 r.n).flatMap fun j => bytesReg ((b.drop (n * j)).take n) withG
    .next ((s.updSpe fun p => p.put r.bank r.i l (s.here.beat + r.n + 5)).flyS r.n 0 0))

/-- A bank store: SST, and SSTG without the exponents (R168). -/
def opBankStore (s : State) (f : FSM) (withG : Bool) : WRes :=
  let n := if withG then 192 else 128
  let r := memRun f
  sWord s [r] [] (tileAccess s (eaRun (s.ea f.gidx f.step) (n * r.n)) false false fun s locs =>
    let l := s.lanesOf r
    let b := (rangeFrom 0 r.n).flatMap fun j => regBytes ((l.drop (32 * j)).take 32) withG
    .next ((s.tileWrite locs b false).flyS r.n 0 0))

/-- SLD (R168). -/
def execSld (f : FSM) (s : State) : Out := runWord s (opBankLoad s f true)
/-- SST (R168). -/
def execSst (f : FSM) (s : State) : Out := runWord s (opBankStore s f true)
/-- SLDW (R168). -/
def execSldw (f : FSM) (s : State) : Out := runWord s (opBankLoad s f false)
/-- SSTG (R168). -/
def execSstg (f : FSM) (s : State) : Out := runWord s (opBankStore s f false)

/-! ## Register operations (R169, R170) -/

/-- The count of an SB word. -/
def countOf (f : FSB) : Nat := (bits f.imm 0 8 : BitVec 8).toNat + 1

/-- The source and destination runs of `n` registers. -/
def srcRun (f : FSB) (n : Nat) : Run := ⟨f.bs.toNat, f.is.toNat, n⟩
def dstRun (f : FSB) (n : Nat) : Run := ⟨f.bd.toNat, f.id.toNat, n⟩

/-- A word that writes each lane of `n` registers from the same lane of its source run: `g` takes the draw, the source and
the destination's lane before. -/
def opMap (s : State) (f : FSB) (n : Nat) (g : Nat → Lane32 → Lane32 → Lane32 × Flags) (rnd : BitVec 3) : WRes :=
  let reads := [srcRun f n]
  sWord s reads [dstRun f n]
    (let a := s.lanesOf (srcRun f n)
     let o := s.lanesOf (dstRun f n)
     sResult s reads (dstRun f n) rnd
       ((rangeFrom 0 (32 * n)).map fun k => g (s.drawOf .s k) ((a[k]?).getD ⟨0, 0⟩) ((o[k]?).getD ⟨0, 0⟩)))

/-- SMOV (R169). -/
def execSmov (f : FSB) (s : State) : Out := runWord s (opMap s f (countOf f) (fun _ a _ => (a, 0)) 0)

/-- SRESC (R169). -/
def execSresc (f : FSB) (s : State) : Out :=
  runWord s (opMap s f 1 (fun _ a _ => formVal a.g 0 0 (a.val.1, a.val.2 + f.imm.toInt)) 0)

/-- SGEXP (R169). -/
def execSgexp (f : FSB) (s : State) : Out :=
  runWord s (opMap s f 1 (fun _ a _ => formVal (f.imm.signExtend 16) 0 0 a.val) 0)

/-- A float pattern as a lane (R86). -/
def fromFloat (fmt : BitVec 4) (rnd : BitVec 3) (r : Nat) (x : Nat) : Lane32 × Flags :=
  match decodeFloat fmt x with
  | .zero _ => (⟨0, 0⟩, 0)
  | .fin false m e => formVal 0 rnd r (m, e)
  | .inf false => (⟨0x00FFFFFF, 0x8000⟩, flOvf)
  | _ => (⟨0, 0⟩, flInv)

/-- SCVTI (R86, R169). -/
def execScvti (f : FSB) (s : State) : Out :=
  runWord s (opMap s f 1 (fun r a _ => fromFloat f.fmt f.rnd r (a.w.toNat % 2 ^ elemBits f.fmt)) f.rnd)

/-- A lane's value, or its log2, as a float pattern (R169). The directed modes on a negative log2 act by its sign, as R77 of
the opcode's own line, and not on magnitude, as the list of R169 that cites R84 for SPF32 results (DESIGN CHOICE,
notes/assumptions/68.md). -/
def toFloat (fmt : BitVec 4) (lg : Bool) (rnd : BitVec 3) (r : Nat) (v : Nat × Int) : Nat × Flags :=
  if v.1 = 0 then (if lg then infBits fmt true else 0, 0)
  else if lg then
    match log2Mag v.1 v.2 with
    | none => (0, 0)
    | some (neg, x) => roundFloat fmt rnd false r neg x
  else roundFloat fmt rnd false r false (.dyadic v.1 v.2)

/-- SCVTO (R86, R169). -/
def execScvto (f : FSB) (s : State) : Out :=
  runWord s (opMap s f 1 (fun r a _ =>
    let (x, fl) := toFloat f.fmt (f.imm.getLsbD 0) f.rnd r a.val
    (⟨BitVec.ofNat 32 x, 0⟩, fl)) f.rnd)

/-- SEVID (R170). -/
def execSevid (f : FSB) (s : State) : Out :=
  let n := countOf f
  let reads := [srcRun f 1]
  runWord s (sWord s reads [dstRun f n]
    (let a := s.lanesOf (srcRun f 1)
     sResult s reads (dstRun f n) 0
       ((rangeFrom 0 n).flatMap fun j => a.map fun x =>
         let fl := if x.w != 0xFFFFFFFF && decide (n ≤ x.w.toNat) then flInv else 0
         ((formVal 0 0 0 (if x.w == 0xFFFFFFFF || x.w.toNat == j then (1, 0) else (0, 0))).1, fl))))

/-- A word that writes one value to a run (R169). -/
def opFill (s : State) (f : FSB) (v : Nat × Int) : WRes :=
  let n := countOf f
  sWord s [] [dstRun f n] (sResult s [] (dstRun f n) 0 (List.replicate (32 * n) (formVal 0 0 0 v)))

/-- SZERO (R169). -/
def execSzero (f : FSB) (s : State) : Out := runWord s (opFill s f (0, 0))
/-- SONE (R169). -/
def execSone (f : FSB) (s : State) : Out := runWord s (opFill s f (1, 0))

/-- SNORM (R169): the source over br.ir. -/
def execSnorm (f : FSB) (s : State) : Out :=
  let d : Run := ⟨(bits f.imm 11 4 : BitVec 4).toNat, (bits f.imm 3 8 : BitVec 8).toNat, 1⟩
  let reads := [srcRun f 1, d]
  runWord s (sWord s reads [dstRun f 1]
    (let a := s.lanesOf (srcRun f 1)
     let b := s.lanesOf d
     let o := s.lanesOf (dstRun f 1)
     sResult s reads (dstRun f 1) f.rnd
       ((rangeFrom 0 32).map fun k =>
         let x := (laneAt a 0 k).val
         let y := (laneAt b 0 k).val
         let g := (laneAt o 0 k).g
         if y.1 = 0 then (⟨0, g⟩, flInv)
         else if x.1 = 0 then (⟨0, g⟩, 0)
         else formMag g f.rnd (s.drawOf .s k) ⟨x.1, y.1, x.2 - y.2, false⟩)))

/-- SMARG (R169): the source times its mirror. -/
def execSmarg (f : FSB) (s : State) : Out :=
  let n := countOf f
  let reads := [srcRun f n, (srcRun f n).mirror]
  runWord s (sWord s reads [dstRun f n]
    (let a := s.lanesOf (srcRun f n)
     let b := s.lanesOf (srcRun f n).mirror
     let o := s.lanesOf (dstRun f n)
     sResult s reads (dstRun f n) f.rnd
       ((rangeFrom 0 (32 * n)).map fun k =>
         formVal ((o[k]?).getD ⟨0, 0⟩).g f.rnd (s.drawOf .s k)
           (mulVal ((a[k]?).getD ⟨0, 0⟩).val ((b[k]?).getD ⟨0, 0⟩).val))))

end Sys2Proof.Machine
end

