-- ==== Sys2Proof/Machine/Image.lean ====
section
/-!
DEFINITION. The context image (R303 to R314): the sections as bytes (R305, R306, R308), the image written and encrypted
(R309, R310, R312), and an image read, checked and taken apart (R313).
-/
namespace Sys2Proof.Machine

/-! ## The C section (R306) -/

/-- A pending-write entry of 16 bytes (R102). -/
def pendBytes (w : FrozenWrite) : List Byte :=
  toBytes 16 (w.value.toNat + 2 ^ 64 * (w.reg + 32 * w.rem + if w.psn then 1024 else 0))

/-- A pending-write entry read back; none where R102 refuses it. -/
def pendOf (b : List Byte) : Option FrozenWrite :=
  let h := getN b 8 8
  let w : FrozenWrite := ⟨h % 32, BitVec.ofNat 64 (getN b 0 8), nbits h 10 1 == 1, nbits h 5 5⟩
  if w.reg = 0 || w.rem = 0 || 17 < w.rem || 2 ^ 11 ≤ h then none else some w

/-- Bytes 0x008 to 0x467 of a C section: the state that a checkpoint copies (R105, R306). -/
def regBlock (c : CRegs) (pend : List FrozenWrite) : List Byte :=
  let pend := pend.take 17
  (c.s.toList.drop 1).flatMap (fun v => toBytes 8 v.toNat)
    ++ toBytes 4 c.poison.toNat ++ toBytes 1 c.rrb.toNat ++ toBytes 3 c.lpact.toNat
    ++ c.lpcnt.toList.flatMap (fun v => toBytes 4 v.toNat) ++ c.lpbeg.toList.flatMap (fun v => toBytes 4 v.toNat)
    ++ c.lpend.toList.flatMap (fun v => toBytes 4 v.toNat) ++ toBytes 4 0
    ++ c.lpstg.toList.flatMap (fun g => toBytes 8 ((if g.v then 2 ^ 63 else 0) + 2 ^ 24 * g.fin.toNat + g.beg.toNat))
    ++ (rangeFrom 0 4).flatMap (fun j => toBytes 2 ((vget 0 c.kcur j).toNat + if c.kvalid.getLsbD j then 2048 else 0))
    ++ c.kr.toList.flatMap (fun v => toBytes 128 v.toNat)
    ++ toBytes 8 pend.length ++ padTo 272 (pend.flatMap pendBytes)

/-- A register block read back; none where an entry is refused. -/
def regBlockOf (b : List Byte) : Option (CRegs × List FrozenWrite) :=
  let n := getN b 0x348 8
  let c : CRegs :=
    { CRegs.reset with
      s := Vector.ofFn fun i => if i.val = 0 then 0 else BitVec.ofNat 64 (getN b (8 * (i.val - 1)) 8)
      poison := BitVec.ofNat 32 (getN b 0xF8 4) &&& ~~~1
      rrb := BitVec.ofNat 4 (getN b 0xFC 1)
      lpact := BitVec.ofNat 3 (getN b 0xFD 1)
      lpcnt := Vector.ofFn fun i => BitVec.ofNat 32 (getN b (0x100 + 4 * i.val) 4)
      lpbeg := Vector.ofFn fun i => BitVec.ofNat 24 (getN b (0x10C + 4 * i.val) 4)
      lpend := Vector.ofFn fun i => BitVec.ofNat 24 (getN b (0x118 + 4 * i.val) 4)
      lpstg := Vector.ofFn fun i =>
        let w := getN b (0x128 + 8 * i.val) 8
        ⟨nbits w 63 1 == 1, BitVec.ofNat 24 (nbits w 24 24), BitVec.ofNat 24 w⟩
      kcur := Vector.ofFn fun i => BitVec.ofNat 11 (getN b (0x140 + 2 * i.val) 2)
      kvalid := (rangeFrom 0 4).foldl (fun v i => setBit v i (nbits (getN b (0x140 + 2 * i) 2) 11 1 == 1)) 0
      kr := Vector.ofFn fun i => BitVec.ofNat 1024 (getN b (0x148 + 128 * i.val) 128) }
  if 17 < n then none
  else ((rangeFrom 0 n).mapM fun i => pendOf ((b.drop (0x350 + 16 * i)).take 16)).map fun l => (c, l)

/-- The remaining idle count of a due time at a save. -/
def Due.rem (d : Due) : Nat :=
  match d with
  | .left r => r
  | _ => 0

/-- A word index with a remaining idle count as the macro-PC and a checkpoint's head hold them. -/
def pcWord (idx idle : Nat) : Nat := idx % 2 ^ 24 + idle % 1024 * 2 ^ 24

/-- The 40 bytes of an engine stream's record; its levels outermost first (R306). -/
def streamBytes (y : Stream) : List Byte :=
  toBytes 4 (y.mpc % 8192 + y.due.rem % 1024 * 8192) ++ toBytes 4 y.levels.length
    ++ padTo 32 (y.levels.reverse.flatMap fun l => toBytes 2 l.beg ++ toBytes 2 l.fin ++ toBytes 4 l.left ++ toBytes 8 l.it)

/-- A stream's record read back. -/
def streamOf (b : List Byte) (running ended : Bool) : Stream :=
  let h := getN b 0 4
  ⟨running, ended, h % 8192, .left (nbits h 13 10),
   ((rangeFrom 0 (min 2 (getN b 4 1))).map fun i =>
     let o := 8 + 16 * i
     ⟨getN b o 2, getN b (o + 2) 2, getN b (o + 4) 4, getN b (o + 8) 4⟩).reverse⟩

/-- One flag of a packed word. -/
def flagAt (i : Nat) (b : Bool) : Nat := if b then 2 ^ i else 0

/-- A C section (R306). The tile's part of the launch that has ended is kept as C ended outside a region
(notes/assumptions/14.md). -/
def cSection (c : Ctx) : List Byte :=
  let pend := c.frozen ++ c.c.pend.map fun w => ⟨w.reg, w.value, w.psn, w.vis⟩
  let ck := match c.ckpt with
    | some k => toBytes 8 (pcWord k.idx k.idle + 2 ^ 63) ++ regBlock k.regs k.pend
    | none => List.replicate 1128 0
  let off := fun (e : Strm) => toBytes 4 (if c.member e then c.cntSaved else 0)
  padTo 0xA00
    (toBytes 8 (pcWord c.mpc c.due.rem) ++ regBlock c.c pend ++ ck ++ toBytes 8 c.clkrq.toNat ++ toBytes 8 c.seed.toNat
      ++ toBytes 8 c.trap.faultpc.toNat ++ toBytes 8 c.trap.tcause.toNat ++ toBytes 8 c.trap.tval.toNat
      ++ toBytes 8 c.trap.tword.toNat ++ toBytes 8 c.trap.tvec.toNat ++ toBytes 8 c.trap.status.toNat
      ++ toBytes 8 c.trap.tscra.toNat ++ toBytes 8 c.trap.tscrb.toNat
      ++ toBytes 4 c.sdcv.toNat ++ toBytes 4 c.sdcx.toNat ++ toBytes 8 c.sdcs.toNat
      ++ toBytes 4 c.oc.ocl.toNat ++ toBytes 4 c.oc.ocs.toNat ++ toBytes 4 c.oc.occ.toNat ++ toBytes 4 c.oc.oct.toNat
      ++ toBytes 8 c.sflags.toNat
      ++ toBytes 8 (flagAt 0 c.lockstep + flagAt 1 c.memV + flagAt 2 c.memX + flagAt 3 c.memS + flagAt 4 (c.cEnded || c.done)
        + flagAt 5 c.v.ended + flagAt 6 c.x.ended + flagAt 7 c.s.ended + flagAt 8 c.v.running + flagAt 9 c.x.running
        + flagAt 10 c.s.running + flagAt 11 c.spe.used)
      ++ streamBytes c.v ++ streamBytes c.x ++ streamBytes c.s ++ off .c ++ off .v ++ off .x ++ off .s)

/-- A C section read back; none where R102 refuses it. With a handler active its pending writes are the frozen ones and, after
them, the handler's own: how many are frozen the section does not say (R101, R306, R360; notes/assumptions/62.md). -/
def cSectionOf (b : List Byte) : Option Ctx :=
  let word := fun o => BitVec.ofNat 64 (getN b o 8)
  let pc := getN b 0 8
  let fl := getN b 0x948 8
  let on := fun i => nbits fl i 1 == 1
  let st := getN b 0x908 8
  let act := st % 2 == 1
  let head := getN b 0x468 8
  match regBlockOf ((b.drop 8).take 0x460), regBlockOf ((b.drop 0x470).take 0x460) with
  | some (r, pend), some (k, kpend) =>
    let frozen := if act then Config.frozenCount b % (pend.length + 1) else 0
    some
      { Ctx.reset with
        c := { r with pend := (pend.drop frozen).map fun w => ⟨w.reg, w.value, w.psn, w.rem⟩ }
        frozen := pend.take frozen
        ckpt := if nbits head 63 1 = 1 then some ⟨k, kpend, head % 2 ^ 24, nbits head 24 10⟩ else none
        mpc := pc % 2 ^ 24, due := .left (nbits pc 24 10)
        lockstep := on 0, memV := on 1, memX := on 2, memS := on 3
        cEnded := on 0 && on 4, done := !on 0 && on 4
        v := streamOf ((b.drop 0x950).take 40) (on 8) (on 5)
        x := streamOf ((b.drop 0x978).take 40) (on 9) (on 6)
        s := streamOf ((b.drop 0x9A0).take 40) (on 10) (on 7)
        trap := ⟨word 0x8E0, word 0x8E8, word 0x8F0, word 0x8F8, word 0x900, act, BitVec.ofNat 8 (st / 256), word 0x910,
          word 0x918⟩
        clkrq := BitVec.ofNat 16 (getN b 0x8D0 2), seed := word 0x8D8
        sdcv := BitVec.ofNat 32 (getN b 0x920 4), sdcx := BitVec.ofNat 32 (getN b 0x924 4)
        sdcs := BitVec.ofNat 32 (getN b 0x928 4)
        oc := ⟨BitVec.ofNat 32 (getN b 0x930 4), BitVec.ofNat 32 (getN b 0x934 4), BitVec.ofNat 32 (getN b 0x938 4),
          BitVec.ofNat 32 (getN b 0x93C 4)⟩
        sflags := BitVec.ofNat 5 (getN b 0x940 1)
        spe := { SState.reset with used := on 11 }
        cntSaved := getN b 0x9C8 4 }
  | _, _ => none

/-! ## The V section (R132, R152, R306) -/

/-- A V register's descriptor (R132). -/
def vDesc (q : List Entry) (lost : Bool) : Nat :=
  (rangeFrom 0 4).foldl (fun d j => d + ((q[j]?.map (·.tag.toNat)).getD 0) * 2 ^ (4 * j + 4)) (flagAt 23 lost + q.length * 2 ^ 20)

/-- A bypass slot's 264 bytes. -/
def bypBytes (x : Option Bypass) : List Byte :=
  match x with
  | none => List.replicate 264 0
  | some x =>
    toBytes 8 (2 ^ 12 + flagAt 11 x.t + flagAt 10 x.used + x.reg.toNat * 32 + x.entry.tag.toNat * 2)
      ++ toBytes 256 x.entry.data.toNat

/-- A conditional queue's 512 bytes in ring order (R152). A byte of the ring that holds no element, popped or never pushed, is 0
(DESIGN CHOICE, notes/assumptions/72.md). -/
def cqRing (x : CondQueue) : List Byte :=
  (rangeFrom 0 512).map fun p => (x.data[(p + 512 - x.head.toNat) % 512]?).getD 0

/-- A V section (R306). -/
def vSection (v : VState) : List Byte :=
  padTo 0x8AC0
    ((rangeFrom 0 32).flatMap (fun i => toBytes 4 (vDesc (vget [] v.q i) (v.lost.getLsbD i)))
      ++ v.q.toList.flatMap (fun q => padTo 1024 (q.flatMap fun e => toBytes 256 e.data.toNat))
      ++ v.byp.toList.flatMap bypBytes ++ v.m.toList.flatMap (fun m => toBytes 32 m.toNat)
      ++ v.kw.toList.flatMap (fun k => toBytes 128 k.toNat) ++ v.kwcur.toList.flatMap (fun k => toBytes 2 k.toNat)
      ++ v.cq.toList.flatMap (fun x =>
          toBytes 4 ((if x.data.isEmpty then 0 else x.tag.toNat * 2 ^ 20) + x.data.length * 2 ^ 10 + x.head.toNat))
      ++ v.cq.toList.flatMap cqRing ++ toBytes 4 v.rtw.toNat ++ toBytes 4 v.vsoff.toNat)

/-- A tag that R95 refuses. -/
def badTag (t : Nat) : Bool := decide (13 ≤ t)

/-- Whether R132 accepts a register's descriptor. -/
def vDescOk (d : Nat) : Bool :=
  let n := nbits d 20 3
  n ≤ 4 && d % 16 == 0 && d / 2 ^ 24 == 0
    && (rangeFrom 0 4).all fun j => let t := nbits d (4 * j + 4) 4; !badTag t && (j < n || t == 0)

/-- Whether R132 accepts a bypass descriptor. -/
def bypOk (d : Nat) : Bool := d % 2 == 0 && d / 2 ^ 13 == 0 && !badTag (nbits d 1 4)

/-- A V section read back; none where R95, R132 or R152 refuses it. R152 names no refusal for a queue with CNT = 0 and a
nonzero TAG: the image is accepted, and the tag kept (DESIGN CHOICE, notes/assumptions/67.md). -/
def vSectionOf (b : List Byte) : Option VState :=
  let d := fun i => getN b (4 * i) 4
  let bd := fun i => getN b (0x8080 + 264 * i) 2
  let cd := fun i => getN b (0x86A0 + 4 * i) 4
  if !(rangeFrom 0 32).all (fun i => vDescOk (d i)) || !(rangeFrom 0 3).all (fun i => bypOk (bd i))
      || !(rangeFrom 0 2).all (fun i => cd i / 2 ^ 24 == 0 && nbits (cd i) 9 1 == 0 && nbits (cd i) 10 10 ≤ 512
        && !badTag (nbits (cd i) 20 4)) then none
  else some
    { VState.reset with
      q := Vector.ofFn fun i => (rangeFrom 0 (nbits (d i.val) 20 3)).map fun j =>
        ⟨BitVec.ofNat 4 (nbits (d i.val) (4 * j + 4) 4), BitVec.ofNat 2048 (getN b (0x80 + 1024 * i.val + 256 * j) 256), 0⟩
      lost := (rangeFrom 0 32).foldl (fun v i => setBit v i (nbits (d i) 23 1 == 1)) 0
      byp := Vector.ofFn fun i =>
        let x := bd i.val
        if nbits x 12 1 = 1 then
          some ⟨nbits x 11 1 == 1, nbits x 10 1 == 1, BitVec.ofNat 5 (x / 32),
            ⟨BitVec.ofNat 4 (x / 2), BitVec.ofNat 2048 (getN b (0x8088 + 264 * i.val) 256), 0⟩⟩
        else none
      m := Vector.ofFn fun i => BitVec.ofNat 256 (getN b (0x8398 + 32 * i.val) 32)
      kw := Vector.ofFn fun i => BitVec.ofNat 1024 (getN b (0x8498 + 128 * i.val) 128)
      kwcur := Vector.ofFn fun i => BitVec.ofNat 11 (getN b (0x8698 + 2 * i.val) 2)
      cq := Vector.ofFn fun i =>
        let x := cd i.val
        ⟨(rangeFrom 0 (nbits x 10 10)).map fun k => BitVec.ofNat 8 (getN b (0x86A8 + 512 * i.val + (x % 512 + k) % 512) 1),
         BitVec.ofNat 9 x, BitVec.ofNat 4 (x / 2 ^ 20)⟩
      rtw := BitVec.ofNat 16 (getN b 0x8AA8 2)
      vsoff := BitVec.ofNat 24 (getN b 0x8AAC 3) }

/-! ## The X and S sections (R159, R180 to R183, R305) -/

/-- A nest record's 256 bytes (R183). -/
def nestBytes (r : NestRec) : List Byte :=
  padTo 256
    (r.levels.toList.flatMap (fun l => [l.cnt, l.da, l.db, l.dc, l.dsa, l.dsb].flatMap fun v => toBytes 4 v.toNat)
      ++ r.org.toList.flatMap (fun v => toBytes 4 v.toNat) ++ toBytes 4 0 ++ toBytes 8 r.xgow.toNat
      ++ toBytes 2 r.sclCfg.toNat ++ toBytes 2 r.sprCfg.toNat ++ toBytes 4 (flagAt 0 r.run)
      ++ r.idx.toList.flatMap (fun v => toBytes 4 v.toNat))

/-- A nest record read back; none where R183 refuses it. -/
def nestOf (b : List Byte) (shadow : Bool) : Option NestRec :=
  let f := fun o => BitVec.ofNat 32 (getN b o 4)
  let cfg := getN b 0xB0 2
  let spr := getN b 0xB2 2
  let flags := getN b 0xB4 4
  let r : NestRec :=
    { levels := Vector.ofFn fun i =>
        let o := 24 * i.val
        ⟨f o, f (o + 4), f (o + 8), f (o + 12), f (o + 16), f (o + 20)⟩
      org := Vector.ofFn fun i => f (0x90 + 4 * i.val)
      xgow := BitVec.ofNat 64 (getN b 0xA8 8)
      scl := BitVec.ofNat 2 (cfg / 256), sclA := BitVec.ofNat 4 (cfg / 16), sclB := BitVec.ofNat 4 cfg
      spa := BitVec.ofNat 2 (spr / 16), spaM := BitVec.ofNat 4 spr
      run := flags % 2 == 1
      idx := Vector.ofFn fun i => f (0xB8 + 4 * i.val) }
  let rsv := getN b 0xA4 4 == 0 && cfg / 2 ^ 10 == 0 && spr / 2 ^ 6 == 0 && flags ≤ 1 && getN b 0xD0 48 == 0
  let cnt := r.levels.toList.all fun l => decide (1 ≤ l.cnt.toNat) && decide (l.cnt.toNat ≤ 65536)
  let idx := !r.run || (r.levels.toList.zip r.idx.toList).all fun p => decide (p.2.toNat < p.1.cnt.toNat)
  let idle := shadow || (r.xgow == 0 && flags == 0 && r.idx.toList.all (· == 0))
  if rsv && cnt && idx && idle then some r else none

/-- Whether an X section is present (R305). -/
def xPresent (m : XState) : Bool :=
  m.slot.toList.any (·.desc != 0) || m.acc.toList.any (·.desc != 0) || m.active != NestRec.reset || m.shadow != NestRec.reset

/-- An X section (R305). -/
def xSection (m : XState) : List Byte :=
  padTo 0x400
      (m.slot.toList.flatMap (fun x => toBytes 2 x.desc.toNat) ++ m.acc.toList.flatMap (fun x => toBytes 2 x.desc.toNat)
        ++ toBytes 8 0 ++ nestBytes m.active ++ nestBytes m.shadow)
    ++ m.slot.toList.flatMap (fun x => if x.cl then sparseRun 0 x.data 0 32768 else List.replicate 32768 0)
    ++ m.acc.toList.flatMap (fun x =>
        if x.wr then (sparseRun 0 x.data 0 65536).flatMap fun v => toBytes 4 v.toNat else List.replicate 262144 0)

/-- Whether R180 accepts a slot's descriptor, given whether an XGO runs. -/
def slotDescOk (d : Nat) (run : Bool) : Bool :=
  let role := nbits d 13 2
  let tag := nbits d 9 4
  d % 16 == 0 && (run || nbits d 4 1 == 0) && (2 ^ 15 ≤ d || d == 0)
    && (match role with
        | 0 => tag == 0
        | 1 => fmtM (BitVec.ofNat 4 tag)
        | 2 => tag == 1 || tag == 7
        | _ => tag == 0)

/-- How many steps the running or the last XGO has completed (R200): what its shadow shows. -/
def NestRec.stepsDone (r : NestRec) : Nat :=
  if r.run then (r.levels.toList.zip r.idx.toList).foldl (fun n p => n * p.1.cnt.toNat + p.2.toNat) 0
  else if r.xgow = 0 then 0
  else r.levels.toList.foldl (fun n l => n * l.cnt.toNat) 1

/-- An X section read back; none where R95, R180 or R183 refuses it. -/
def xSectionOf (b : List Byte) : Option XState :=
  match nestOf ((b.drop 0x30).take 256) false, nestOf ((b.drop 0x130).take 256) true with
  | some a, some sh =>
    let d := fun i => getN b (2 * i) 2
    let ad := fun i => getN b (0x20 + 2 * i) 2
    if !(rangeFrom 0 16).all (fun i => slotDescOk (d i) sh.run) || (rangeFrom 0 4).any (fun i => badTag (nbits (ad i) 11 4))
    then none
    else some
      { XState.reset with
        slot := Vector.ofFn fun i =>
          let x := d i.val
          ⟨decide (2 ^ 15 ≤ x), BitVec.ofNat 2 (x / 2 ^ 13), BitVec.ofNat 4 (x / 2 ^ 9), BitVec.ofNat 4 (x / 2 ^ 5),
           nbits x 4 1 == 1,
           if 2 ^ 15 ≤ x then runEntries 0 0 ((b.drop (0x400 + 0x8000 * i.val)).take 32768) else []⟩
        acc := Vector.ofFn fun i =>
          let x := ad i.val
          ⟨decide (2 ^ 15 ≤ x), BitVec.ofNat 4 (x / 2 ^ 11), nbits x 10 1 == 1,
           if 2 ^ 15 ≤ x then
             runEntries 0 0 ((chunks 4 65536 (b.drop (0x80400 + 0x40000 * i.val))).map fun v => BitVec.ofNat 32 (ofBytes v))
           else []⟩
        active := a, shadow := sh, steps := sh.stepsDone }
  | _, _ => none

/-- An S section (R159, R305). -/
def sSection (p : SState) : List Byte :=
  (rangeFrom 0 4096).flatMap fun k => regBytes (p.run (k / 256) (k % 256) 1) true

/-- An S section read back. -/
def sSectionOf (b : List Byte) : SState :=
  let l := (chunks 192 4096 b).flatMap fun r => bytesReg r true
  { SState.reset with used := true, word := runEntries 0 0 (l.map (·.w)), g := runEntries 0 0 (l.map (·.g)) }

/-! ## The SRAM section (R308, R309) -/

/-- A run of units of a lease: its first unit, its bytes, and whether each of its granules is full. -/
structure Extent where
  unit : Nat
  data : List Byte
  full : List Bool
  deriving DecidableEq, Repr

/-- Units of an extent. -/
def Extent.units (x : Extent) : Nat := x.data.length / 4096

/-- A region record of an extent; the coder's choices start at free value `k` (R308). -/
def extentBytes (k : Nat) (x : Extent) : List Byte × Nat :=
  let (a, k) := encodeCoded k x.data
  let (f, k) := encodeCoded k (padMul 64 (toBytes (x.full.length / 8) (packElems 1 (x.full.map fun b => if b then 1 else 0))))
  (padMul 8 (toBytes 4 x.unit ++ toBytes 4 x.units ++ toBytes 4 a.length ++ toBytes 4 f.length ++ a ++ f), k)

/-- The region records of some extents. -/
def extentsBytes (k : Nat) : List Extent → List Byte × Nat
  | [] => ([], k)
  | x :: r =>
    let (a, k) := extentBytes k x
    let (b, k) := extentsBytes k r
    (a ++ b, k)

/-- The region records of a section read back, within a lease of `n` accessible units; none where a bound or a coder's
token is broken. -/
def extentsOf (n : Nat) : Nat → List Byte → Option (List Extent)
  | 0, _ => some []
  | fuel + 1, b =>
    if b.length < 16 || getN b 4 4 = 0 then some []
    else
      let u := getN b 0 4
      let m := getN b 4 4
      let cl := getN b 8 4
      let fl := getN b 12 4
      if n < u + m || b.length < 16 + cl + fl then none
      else
        match decodeCoded (64 * m) ((b.drop 16).take cl), decodeCoded ((m * 32 + 63) / 64) ((b.drop (16 + cl)).take fl) with
        | some d, some f =>
          let x : Extent := ⟨u, d, (rangeFrom 0 (256 * m)).map fun g => nbits ((f[g / 8]?).getD 0).toNat (g % 8) 1 == 1⟩
          (extentsOf n fuel (b.drop ((16 + cl + fl + 7) / 8 * 8))).map (x :: ·)
        | _, _ => none

/-- The maximal runs of the units that `p` holds of, among `n`. -/
def unitRuns (p : Nat → Bool) (n : Nat) : List (Nat × Nat) :=
  (rangeFrom 0 n).foldr (fun u l =>
    if !p u then l
    else match l with
      | (v, m) :: r => if v = u + 1 then (u, m + 1) :: r else (u, 1) :: l
      | [] => [(u, 1)]) []

/-- The extents of a rank's lease on tile `t`, that a save of a kind writes (R309). -/
def State.extents (s : State) (t lbase n : Nat) (written : BitVec 1024) (kind : Nat) : List Extent :=
  (unitRuns (fun u => kind = 2 || written.getLsbD u) n).map fun r =>
    let a := (lbase + r.1) * 4096
    ⟨r.1, sparseRun 0 s.mem (sramPa t a) (r.2 * 4096), (rangeFrom (a / 16) (r.2 * 256)).map (s.isFull t ·)⟩

/-! ## Boxes, chains, pairs, records (R255, R264, R266, R283) -/

/-- STATE of a box. -/
def stateCode (b : BoxState) : Nat :=
  match b with
  | .free => 0 | .ready => 1 | .running => 2 | .parked => 3 | .swapped => 4

/-- The 64 bytes of a box (R283). -/
def boxBytes (x : Box) : List Byte :=
  toBytes 1 (stateCode x.state) ++ toBytes 1 (x.prio.toNat + 8 * x.age) ++ toBytes 1 x.reason.toNat
    ++ toBytes 1 (flagAt 0 x.live + flagAt 1 x.img + flagAt 2 x.dl) ++ toBytes 2 x.asid.toNat ++ toBytes 2 x.imgsize.toNat
    ++ toBytes 4 (x.lsave.toNat * 2 ^ 21 + x.lsize.toNat * 2 ^ 10 + x.lbase.toNat) ++ toBytes 2 x.imggen.toNat
    ++ toBytes 2 x.psel.toNat ++ toBytes 8 x.rcb.toNat ++ toBytes 8 x.pwake.toNat ++ toBytes 8 x.image.toNat
    ++ toBytes 8 x.lqhead.toNat ++ toBytes 4 x.evpend.toNat ++ toBytes 4 x.evmask.toNat ++ toBytes 8 x.watch.toNat

/-- A chain record (R255). -/
def chainBytes (c : Chain) : List Byte :=
  toBytes 8 (c.base.toNat + c.logn.toNat) ++ toBytes 4 c.tail.toNat ++ toBytes 4 c.head.toNat ++ toBytes 8 c.seqaddr.toNat
    ++ toBytes 1 c.eng.toNat ++ toBytes 1 (flagAt 0 c.v) ++ toBytes 2 c.qmin.toNat ++ toBytes 2 c.qcap.toNat ++ toBytes 2 0

/-- A chain record read back, with no command fetched that has not completed. -/
def chainOf (b : List Byte) : Chain :=
  let w := getN b 0 8
  let h := getN b 0x0C 4
  { Chain.reset with
    v := nbits (getN b 0x19 1) 0 1 == 1, base := BitVec.ofNat 64 (w / 4096 * 4096), logn := BitVec.ofNat 4 w
    tail := BitVec.ofNat 32 (getN b 8 4), head := BitVec.ofNat 32 h, seqaddr := BitVec.ofNat 64 (getN b 0x10 8)
    eng := BitVec.ofNat 6 (getN b 0x18 1), qmin := BitVec.ofNat 16 (getN b 0x1A 2), qcap := BitVec.ofNat 16 (getN b 0x1C 2)
    complete := h, reported := h }

/-- A pair record (R264). -/
def pairBytes (p : Pair) : List Byte :=
  toBytes 4 p.sseq.toNat ++ toBytes 4 p.rseq.toNat ++ toBytes 2 p.pbox.toNat
    ++ toBytes 2 (flagAt 7 p.v + p.ppair.toNat * 16 + boxDie p.pbox.toNat) ++ toBytes 2 p.qmin.toNat ++ toBytes 2 p.qcap.toNat

/-- A message (R264). -/
def msgBytes (m : Msg) : List Byte := toBytes 8 m.w0.toNat ++ toBytes 4 m.w1.toNat ++ toBytes 4 m.seq.toNat

/-- The held messages of a pair in an image: its count, then the messages. A message still on the link is in no image, and a
halt does not wait for it: it reaches the box as before (DESIGN CHOICE, notes/assumptions/79.md). -/
def heldBytes (p : Pair) : List Byte := toBytes 4 p.held.length ++ p.held.flatMap msgBytes

/-- The held messages of `n` pairs read back; none where the section is too short. -/
def heldOf : Nat → List Byte → Option (List (List Msg))
  | 0, _ => some []
  | n + 1, b =>
    let k := getN b 0 4
    if b.length < 4 + 16 * k then none
    else
      let ms := (rangeFrom 0 k).map fun i =>
        let o := 4 + 16 * i
        (⟨BitVec.ofNat 64 (getN b o 8), BitVec.ofNat 32 (getN b (o + 8) 4), BitVec.ofNat 32 (getN b (o + 12) 4)⟩ : Msg)
      (heldOf n (b.drop (4 + 16 * k))).map (ms :: ·)

/-- A pair record read back. -/
def pairOf (b : List Byte) (held : List Msg) : Pair :=
  let f := getN b 0x0A 1
  ⟨nbits f 7 1 == 1, BitVec.ofNat 32 (getN b 0 4), BitVec.ofNat 32 (getN b 4 4), BitVec.ofNat 16 (getN b 8 2),
   BitVec.ofNat 3 (f / 16), BitVec.ofNat 16 (getN b 0x0C 2), BitVec.ofNat 16 (getN b 0x0E 2), held, []⟩

/-- The outstanding records of an image, for box `b` (R266). -/
def faultsOf (b : Nat) (x : List Byte) : List FaultRec :=
  (rangeFrom 0 8).filterMap fun i =>
    let r := (x.drop (32 * i)).take 32
    if getN r 4 1 = 0 then none
    else some ⟨b, BitVec.ofNat 16 (getN r 2 2), getN r 4 1, getN r 5 1, getN r 6 1, getN r 7 1, BitVec.ofNat 64 (getN r 8 8),
      BitVec.ofNat 32 (getN r 16 4), BitVec.ofNat 64 (getN r 24 8), none⟩

/-! ## The image (R303, R304, R310) -/

/-- A rank of a context off its tiles: its live state and the extents of its lease. -/
structure ImgRank where
  ctx : Ctx
  ext : List Extent
  deriving DecidableEq, Repr

/-- A section: type, rank, coder, raw length and stored bytes. -/
structure Sect where
  type : Nat
  rank : Nat
  coder : Nat
  rawlen : Nat
  data : List Byte
  deriving DecidableEq, Repr

/-- A section of a raw stream, coded or not by a free choice (R304). -/
def sectOf (k type rank : Nat) (raw : List Byte) : Sect × Nat :=
  if Config.freeBits k % 2 = 0 then (⟨type, rank, 0, raw.length, raw⟩, k + 1)
  else
    let (b, k') := encodeCoded (k + 1) raw
    (⟨type, rank, 1, raw.length, b⟩, k')

/-- The sections of the ranks, rank by rank (R305). -/
def rankSects (k : Nat) : Nat → List ImgRank → List Sect × Nat
  | _, [] => ([], k)
  | r, x :: rest =>
    let (c, k) := sectOf k 1 r (cSection x.ctx)
    let (v, k) := sectOf k 2 r (vSection x.ctx.vec)
    let (xs, k) := if xPresent x.ctx.mat then let (y, k) := sectOf k 3 r (xSection x.ctx.mat); ([y], k) else ([], k)
    let (ss, k) := if x.ctx.spe.used then let (y, k) := sectOf k 4 r (sSection x.ctx.spe); ([y], k) else ([], k)
    let (e, k) := extentsBytes k x.ext
    let m := padMul 64 (toBytes 128 x.ctx.written.toNat ++ e)
    let (t, k) := rankSects k (r + 1) rest
    ([c, v] ++ xs ++ ss ++ [⟨5, r, 0, m.length, m⟩] ++ t, k)

/-- A section of the context (R305). -/
def ctxSect (type : Nat) (b : List Byte) : Sect := let b := padMul 64 b; ⟨type, 0xFF, 0, b.length, b⟩

/-- The sections of a box's context, but for the trailer. -/
def boxSects (x : Box) : List Sect :=
  [ctxSect 8 (boxBytes x), ctxSect 9 (x.chains.toList.flatMap chainBytes),
   ctxSect 10 (x.pairs.toList.flatMap pairBytes ++ x.pairs.toList.flatMap heldBytes),
   ctxSect 11 (padTo 256 (x.faults.flatMap faultBytes))]

/-- Sections laid one after the other from offset `o`, each at a multiple of 8: directory entries and bytes. -/
def layOut : Nat → List Sect → List Byte × List Byte
  | _, [] => ([], [])
  | o, x :: r =>
    let b := padMul 8 x.data
    let (d, rest) := layOut (o + b.length) r
    (toBytes 2 x.type ++ toBytes 1 x.rank ++ toBytes 1 x.coder ++ toBytes 4 x.rawlen ++ toBytes 8 o
      ++ toBytes 8 x.data.length ++ d, b ++ rest)

/-- The header of an image (R303). -/
def headerBytes (nsec gen team kind lease iso asid total nonce : Nat) (dir : List Byte) : List Byte :=
  padTo 4096
    ([0x43, 0x58, 0x49, 0x1A] ++ toBytes 2 1 ++ toBytes 2 nsec ++ toBytes 4 0x004000A1 ++ toBytes 2 gen ++ toBytes 1 team
      ++ toBytes 1 kind ++ toBytes 4 lease ++ toBytes 2 iso ++ toBytes 2 asid ++ toBytes 8 total ++ toBytes 8 nonce
      ++ List.replicate 24 0 ++ dir)

/-- The body of an image through AES-256-XTS, unit by unit from unit `i` (R310). The mode takes two keys: the region key
is the first, the second is a free function of it (notes/assumptions/15.md). -/
def xtsBody (dec : Bool) (key : List Byte) (nonce : Nat) (b : List Byte) : List Byte :=
  let k1 := roundKeys key
  let k2 := roundKeys (toBytes 32 (Config.xtsSecondKey (ofBytes key)))
  let n := b.length / 4096
  ((rangeFrom 1 n).zip (chunks 4096 n b)).flatMap fun p => xtsUnit dec k1 k2 (nonce * 2 ^ 64 + p.1) p.2

/-- The image of a box with its ranks: header and encrypted body; in clear where no key is given (R376). -/
def imageBytes (x : Box) (ranks : List ImgRank) (kind iso nonce k : Nat) (key : Option (List Byte)) : List Byte × Nat :=
  let (rs, k) := rankSects k 0 ranks
  let ss := rs ++ boxSects x
  let n := ss.length + 1
  let (_, body) := layOut 4096 ss
  let total := (4096 + body.length + 64 + 4095) / 4096 * 4096
  let (dir, _) := layOut 4096 (ss ++ [⟨15, 0xFF, 0, 64, List.replicate 64 0⟩])
  let lease := x.lsave.toNat * 2 ^ 21 + x.lsize.toNat * 2 ^ 10 + x.lbase.toNat
  let head := headerBytes n ((x.imggen + 1 : BitVec 16).toNat) ranks.length kind lease iso x.asid.toNat total nonce dir
  let digest := sha256 (head ++ ss.flatMap (·.data))
  let plain := padTo (total - 4096) (body ++ digest)
  (head ++ (match key with | some y => xtsBody false y nonce plain | none => plain), k)

/-! ## Writing an image (R312) -/

/-- The key of an isolation domain. -/
def State.keyOf (s : State) (iso : BitVec 16) : Option (List Byte) := (s.keys.find? (·.1 == iso)).map (·.2)

/-- The ranks of box `b` off its tiles, whose live state lies in the save areas (R22, R309). -/
def State.liveRanks (s : State) (b : Nat) (kind : Nat) : List ImgRank :=
  let x := s.box b
  (x.saved.zip x.tiles).map fun p =>
    let m := ((s.tile p.2).owners.find? (·.1 == b)).elim 0 (·.2)
    ⟨{ p.1 with written := m }, s.extents p.2 x.lbase.toNat (x.lsize.toNat - x.lsave.toNat) m kind⟩

/-- The tiles of a context's team: those of the launch in progress, or of the last one; 1 where none has run (R303, R313). -/
def Box.team (x : Box) : Nat := max 1 x.tiles.length

/-- The ranks of a box whose state lies on its tiles, or nowhere yet (R309). -/
def State.tileRanks (s : State) (b kind : Nat) : List ImgRank :=
  let l := s.liveRanks b kind
  if l.isEmpty then ((s.box b).saved.take 1).map fun c => ⟨c, []⟩ else l

/-- A save of the context reported whose latency a wait for a stack in forced self-refresh has taken past 20 µs: the stages
before the fourth, and the wait of the fourth (R28, R380). -/
def State.reportSr (s : State) (b : Nat) : State :=
  match (s.box b).srSince with
  | none => s
  | some (t, k) =>
    let s := if t + 20000 < s.timeb + (s.box b).spent then s.ras (k / 3) 0xD5 b (unitHbm (k % 3)) (8 + 2 * (k % 3)) else s
    s.updBox b fun x => { x with srSince := none }

/-- Whether a save of a kind for box `b` reads location `l` in tile `t`'s SRAM (R309). -/
def State.saves (s : State) (b t kind l : Nat) : Bool :=
  let x := s.box b
  let written := ((s.tile t).owners.find? (·.1 == b)).elim 0 (·.2)
  match placeOf l with
  | .window u off =>
    let k := off / 4096 - x.lbase.toNat
    u == t && decide (x.lbase.toNat ≤ off / 4096) && decide (k < x.lsize.toNat - x.lsave.toNat) && (kind == 2 || written.getLsbD k)
  | _ => false

/-- The errors that a save corrects in the lease bytes that it reads, tile by tile, where the state lies on tiles (R176,
R345). -/
def State.correctSaved (s : State) (b kind : Nat) : State :=
  let x := s.box b
  if x.live || !x.img then
    x.tiles.foldl (fun s t => s.correctIn (tileDie t) b (unitTile t) (s.saves b t kind)) s
  else s

/-- The image of box `b` written, its generation advanced; TOTAL is returned. None where its key is gone, or its area
cannot be written, or its write waits (R28, R213). Where `clear` holds the body stays in clear (R376). -/
def State.writeImage (s : State) (b : Nat) (ranks : List ImgRank) (kind : Nat) (clear : Bool) : Option (Nat × State) :=
  let x := s.box b
  let iso := s.effIso (boxDie b) x.rcb
  let key := s.keyOf iso
  if !clear && key.isNone then none
  else
    let (n, s) := s.draw
    let (img, k) := imageBytes x ranks kind (if clear then 0xFFFF else iso.toNat) (n % 2 ^ 64) s.fresh (if clear then none else key)
    let s := { s with fresh := k }
    if s.writeWaits 0 x.image.toNat img.length then none
    else
      (s.writeFrom (boxDie b) 0 x.image img).map fun s =>
        (img.length, ((s.correctSaved b kind).updBox b fun y => { y with imggen := y.imggen + 1, img := true }).reportSr b)

/-- A save of the context cannot write its image yet: where its area lies in a stack in forced self-refresh, the wait is
timed (R28); else the RSE is asked for the area's pages. -/
def State.blockedSave (s : State) (b : Nat) : State :=
  let x := s.box b
  let n := x.imgsize.toNat * 4096
  match (s.reach 0 x.image.toNat n true).1 with
  | .ok locs _ =>
    match s.srStack locs with
    | some k => s.updBox b fun y => { y with srSince := some (y.srSince.getD (s.timeb, k)) }
    | none => s
  | .absent ps => ps.foldl (fun s p => s.wantPage (boxDie b) 0 (BitVec.ofNat 64 p)) s
  | _ => s

/-! ## Reading an image (R313) -/

/-- A directory entry. -/
structure DirEnt where
  type : Nat
  rank : Nat
  coder : Nat
  rawlen : Nat
  off : Nat
  len : Nat
  deriving DecidableEq, Repr

/-- What an image holds. -/
structure Image where
  kind : Nat
  ranks : List ImgRank
  box : List Byte
  chains : List Chain
  pairs : List Pair
  faults : List FaultRec
  deriving DecidableEq, Repr

/-- The directory of an image. -/
def dirOf (b : List Byte) : List DirEnt :=
  (rangeFrom 0 (min 168 (getN b 6 2))).map fun i =>
    let o := 0x40 + 24 * i
    ⟨getN b o 2, getN b (o + 2) 1, getN b (o + 3) 1, getN b (o + 4) 4, getN b (o + 8) 8, getN b (o + 16) 8⟩

/-- The raw length that a section of a type has, none where it is not fixed (R305, R306). -/
def rawLen (type : Nat) : Option Nat :=
  match type with
  | 1 => some 0xA00 | 2 => some 0x8AC0 | 3 => some 0x180400 | 4 => some 786432 | 8 => some 64 | 9 => some 256
  | 11 => some 256 | 15 => some 64 | _ => none

/-- Whether a directory of an image of `team` ranks and `total` bytes is sound (R304, R305). -/
def dirOk (es : List DirEnt) (nsec team total : Nat) : Bool :=
  let count := fun (t r : Nat) => (es.filter fun e => e.type == t && e.rank == r).length
  2 ≤ nsec && nsec ≤ 168
    && es.all (fun e =>
      ((1 ≤ e.type && e.type ≤ 5 && e.rank < team) || ((8 ≤ e.type && e.type ≤ 11 || e.type == 15) && e.rank == 0xFF))
        && e.coder ≤ (if e.type ≤ 4 then 1 else 0) && e.rawlen % 64 == 0 && (rawLen e.type).all (· == e.rawlen)
        && (e.coder == 1 || e.len == e.rawlen) && e.off % 8 == 0 && 0x1000 ≤ e.off && e.off + e.len ≤ total)
    && (rangeFrom 0 team).all (fun r => count 1 r == 1 && count 2 r == 1 && count 3 r ≤ 1 && count 4 r ≤ 1 && count 5 r == 1)
    && [8, 9, 10, 11, 15].all (fun t => count t 0xFF == 1) && (es.getLast?).any (·.type == 15)
    && decide (es.Pairwise fun a b => a.off + a.len ≤ b.off ∨ b.off + b.len ≤ a.off)

/-- The raw bytes of a section of an image in clear. -/
def rawOf (img : List Byte) (e : DirEnt) : Option (List Byte) :=
  let d := (img.drop e.off).take e.len
  if e.coder = 1 then decodeCoded (e.rawlen / 64) d else some d

/-- The raw bytes of the section of a type and rank. -/
def findSect (raws : List (DirEnt × List Byte)) (t r : Nat) : Option (List Byte) :=
  (raws.find? fun p => p.1.type == t && p.1.rank == r).map (·.2)

/-- The ranks of an image: LAYOUT (4) where a region record breaks its bounds, CONTENT (5) where a section's content is
refused. -/
def ranksOf (raws : List (DirEnt × List Byte)) (units : Nat) : Nat → Nat → Except Nat (List ImgRank)
  | 0, _ => .ok []
  | n + 1, r =>
    let sram := (findSect raws 5 r).getD []
    match extentsOf units units (sram.drop 128) with
    | none => .error 4
    | some ext =>
      match ranksOf raws units n (r + 1) with
      | .error e => .error e
      | .ok rest =>
        match (findSect raws 1 r).bind cSectionOf, (findSect raws 2 r).bind vSectionOf,
            (match findSect raws 3 r with | some b => xSectionOf b | none => some XState.reset) with
        | some c, some v, some x =>
          let p := match findSect raws 4 r with
            | some b => if c.spe.used then sSectionOf b else c.spe
            | none => c.spe
          .ok (⟨{ c with vec := v, mat := x, spe := p, written := BitVec.ofNat 1024 (getN sram 0 128) }, ext⟩ :: rest)
        | _, _, _ => .error 5

/-- The sections of an image in clear, decoded and checked (R313, orders 4 and 5). -/
def openSects (b team units : Nat) (head plain : List Byte) (es : List DirEnt) (total : Nat) : Except Nat Image :=
  if !dirOk es (getN head 6 2) team total then .error 4
  else match es.mapM fun e => (rawOf plain e).map fun x => (e, x) with
    | none => .error 4
    | some raws =>
      let sect := fun t => (findSect raws t 0xFF).getD []
      match heldOf 8 ((sect 10).drop 128) with
      | none => .error 4
      | some held =>
        match ranksOf raws units team 0 with
        | .error e => .error e
        | .ok ranks =>
          let st := getN (sect 8) 0 1
          if st < 1 || 4 < st then .error 5
          else .ok ⟨getN head 0x0F 1, ranks, sect 8, (chunks 32 8 (sect 9)).map chainOf,
            (rangeFrom 0 8).map fun i => pairOf (((sect 10).drop (16 * i)).take 16) ((held[i]?).getD []), faultsOf b (sect 11)⟩

/-- An image at a VA of an ASID read for box `b` with a team of `team` ranks, or the status of its refusal (R313). -/
def State.openImage (s : State) (b team asid : Nat) (va : Word) : Except Nat Image :=
  let x := s.box b
  match s.readVa asid va 4096 with
  | none => .error 1
  | some head =>
    let total := getN head 0x18 8
    if head.take 4 != [0x43, 0x58, 0x49, 0x1A] || getN head 4 2 != 1 || getN head 8 4 != 0x004000A1
        || x.imgsize.toNat * 4096 < total || total % 4096 != 0 || total < 8192 then .error 1
    else match s.readVa asid (va + 4096) (total - 4096) with
      | none => .error 1
      | some body =>
        let iso := getN head 0x14 2
        let key := s.keyOf (BitVec.ofNat 16 iso)
        match (if iso = 0xFFFF then some body else key.map fun k => xtsBody true k (getN head 0x20 8) body) with
        | none => .error 2
        | some plain =>
          let img := head ++ plain
          let es := dirOf head
          let digest := match es.getLast? with
            | some e => (img.drop e.off).take 32
            | none => []
          let lease := getN head 0x10 4
          if sha256 (head ++ es.dropLast.flatMap fun e => (img.drop e.off).take e.len) != digest then .error 2
          else if getN head 0x0E 1 != team || nbits lease 10 11 != x.lsize.toNat || nbits lease 21 11 != x.lsave.toNat then
            .error 3
          else openSects b team (x.lsize.toNat - x.lsave.toNat) head img es total

/-- The extents of a rank put on tile `t` at a lease base: bytes and full bits (R308). -/
def State.putExtents (s : State) (t lbase : Nat) : List Extent → State
  | [] => s
  | x :: r =>
    let a := (lbase + x.unit) * 4096
    let s := { s with mem := overlay 0 s.mem (sramPa t a) x.data }
    let s := s.updTile t fun y =>
      { y with full :=
          y.full.filter (fun g => decide (g < a / 16) || decide (a / 16 + x.full.length ≤ g))
            |> fun l => ((rangeFrom (a / 16) x.full.length).zip x.full).foldl (fun l p => if p.2 then insertNat l p.1 else l) l }
    s.putExtents t lbase r

end Sys2Proof.Machine
end

