-- ==== Sys2Proof/Machine/Stable.lean ====
section
/-!
DEFINITION. The Stable and the scheduler core: run lists and eligibility (R294, R295), selection and ageing (R296, R297),
lease grants and the images they write (R22, R179, R297), the start of a team (R35, R71, R286), launch ends (R288) and the
launch queue in memory (R369).
-/
namespace Sys2Proof.Machine

/-! ## Launch blocks and teams -/

/-- The registered launch block of a handle (R70). -/
def State.block (s : State) (h : BitVec 32) : Option BlockReg := s.blocks.find? (·.handle == h)

/-- The launch at the head of a box's work: the one in progress, else the first queued. -/
def Box.work (x : Box) : Option Launch := if x.resume then x.current else x.queue.head?

/-- Tiles that box `b` starts on: the team of its launch block, or that of the launch in progress (R65, R286). -/
def State.teamOf (s : State) (b : Nat) : Nat :=
  let x := s.box b
  if x.resume then x.tiles.length else ((x.work.bind fun l => s.block l.lbh).map (·.team)).getD 1

/-- The sections of a launch block (R35, R70). -/
def blockSects (k : BlockReg) : Vector Section 4 :=
  #v[⟨k.cbase, k.cwords⟩, ⟨k.vbase.getD 0, k.vwords⟩, ⟨k.xbase.getD 0, k.xwords⟩, ⟨k.sbase.getD 0, k.swords⟩]

/-! ## The launch queue in memory (R369) -/

/-- Bytes put in memory of ASID 0 by die `die`; a page that cannot be written keeps what it holds. -/
def State.put0 (s : State) (die : Nat) (va : Word) (b : List Byte) : State := (s.writeFrom die 0 va b).getD s

/-- The head of a box's launch queue written: HEAD, TAIL and the launches that are held (R369). -/
def State.syncQueue (s : State) (b : Nat) : State :=
  let x := s.box b
  let head := x.lqtail - BitVec.ofNat 32 x.queue.length
  if x.state == .free then s
  else s.put0 (boxDie b) x.lqhead (toBytes 4 head.toNat ++ toBytes 4 x.lqtail.toNat
    ++ toBytes 4 (x.queue.filter fun l => l.held || !l.timed).length ++ toBytes 4 0)

/-- A launch appended to a box's queue, its packet put in its slot (R369). -/
def State.enqueue (s : State) (b : Nat) (l : Launch) : State :=
  let k := (s.box b).lqtail
  let s := s.updBox b fun x => { x with queue := x.queue ++ [l], lqtail := k + 1 }
  (s.put0 (boxDie b) ((s.box b).lqhead + BitVec.ofNat 64 (16 + 64 * (k.toNat % 64))) (toBytes 64 l.raw.toNat)).syncQueue b

/-! ## What a launch may ask (R20, R65, R285, R311) -/

/-- MINSAVE of a launch block (R65). -/
def minSave (k : BlockReg) : Nat := 40960 + (if k.xbase.isSome then 1572864 else 0) + (if k.sbase.isSome then 786432 else 0)

/-- Whether a block's sections keep the limits of R35: 2^24 words of C, 8,192 of each engine. -/
def wordsOk (k : BlockReg) : Bool :=
  decide (k.cwords ≤ 2 ^ 24) && decide (k.vwords ≤ 8192) && decide (k.xwords ≤ 8192) && decide (k.swords ≤ 8192)

/-- Whether a launch block keeps the bounds of R35 and R65. -/
def blockSound (k : BlockReg) : Bool :=
  wordsOk k && decide (k.args.length ≤ 8) &&
  1 ≤ k.team && k.team ≤ 16 && k.lease.toNat % 4096 == 0 && decide (k.lease.toNat ≤ 4194304) && k.save.toNat % 4096 == 0
    && decide (minSave k ≤ k.save.toNat) && decide (k.save.toNat ≤ k.lease.toNat) && decide (k.centry.toNat < k.cwords)

/-- Tiles that a region may hold on one die (R20): the least effective budget among the charged blocks, over the root's
PERIOD. -/
def State.regionTiles (s : State) (die : Nat) (va : Word) : Nat :=
  let b := (s.charged die va).foldl (fun n r => min n (s.effBudget die r.va)) (s.effBudget die va)
  let p := s.rootPeriod die va
  min 40 ((b + p - 1) / p)

/-- WORST of R311 for box `b` with a largest team of `team` and pairs of summed QCAP `qcap`. -/
def worst (team qcap : Nat) : Nat := 81920 + 16 * qcap + team * 6815744

/-- The sum of QCAP over a box's bound pairs. -/
def Box.qcaps (x : Box) : Nat := x.pairs.toList.foldl (fun n p => if p.v then n + p.qcap.toNat else n) 0

/-- The largest TEAM in a box's launch queue, and that of the launch in progress, of which an image may yet be written
(R311). -/
def State.maxTeam (s : State) (b : Nat) : Nat :=
  let x := s.box b
  x.queue.foldl (fun n l => max n (((s.block l.lbh).map (·.team)).getD 1)) (if x.resume then x.team else 1)

/-- Whether box `b` can take a launch of block `k` (R20, R65, R285, R311, R369). -/
def State.admits (s : State) (b : Nat) (k : BlockReg) : Bool :=
  let x := s.box b
  blockSound k && decide (k.team ≤ s.regionTiles (boxDie b) x.rcb)
    && decide (k.save.toNat ≤ x.lsave.toNat * 4096)
    && decide (k.lease.toNat - k.save.toNat ≤ (x.lsize.toNat - x.lsave.toNat) * 4096)
    && decide (worst (max k.team (s.maxTeam b)) x.qcaps ≤ x.imgsize.toNat * 4096)
    && decide (x.queue.length < 64)

/-- A launch queued on box `b`: a context parked IDLE becomes READY (R287). -/
def State.queueLaunch (s : State) (b : Nat) (l : Launch) : State :=
  let s := s.enqueue b l
  let x := s.box b
  if (x.state == .parked || x.state == .swapped) && x.reason == 0x0B && !x.stopping then s.wake b else s

/-! ## Eligibility (R294) -/

/-- The budget that a charged block is held to. -/
def State.budgetOf (s : State) (r : Region) : Nat := if r.budgetOvr then r.budget else s.effBudget r.die r.va

/-- Whether every block that a context of region `va` charges has USED below its budget (R294). -/
def State.inBudget (s : State) (die : Nat) (va : Word) : Bool :=
  (s.charged die va).all fun r => decide (r.used < s.budgetOf r)

/-- USED written to a region control block in memory (R292). -/
def State.putUsed (s : State) (r : Region) : State := s.put0 r.die (r.va + 0x28) (toBytes 8 r.used)

/-- Whether nothing holds a launch: no edge, and TIMEB has reached its start (R281, R369). -/
def State.unheld (s : State) (l : Launch) : Bool := !l.held && l.timed && decide (l.start.toNat ≤ s.timeb)

/-- A READY context that may start: eligible, not to stop, and with a point to resume at or a launch that nothing holds
(R281, R296, R369). -/
def State.startable (s : State) (b : Nat) : Bool :=
  let x := s.box b
  x.state == .ready && !x.stopping && !x.halting && s.inBudget (boxDie b) x.rcb
    && (if x.resume then x.current.all s.unheld else x.queue.head?.any s.unheld)

/-- A context that a selection considers: it may start, and no CXSW has handed it tiles (R296, R299). -/
def State.candidate (s : State) (b : Nat) : Bool := s.startable b && (s.box b).handed.isNone

/-- The order of a die's run lists: priority, highest first, then entry into READY (R295). -/
def State.before (s : State) (a b : Nat) : Bool :=
  let x := s.box a
  let y := s.box b
  decide (y.prio.toNat < x.prio.toNat) || (x.prio == y.prio && decide (x.readySeq < y.readySeq))

/-- The candidates of a die in the order of its run lists (R296). -/
def State.runList (s : State) (die : Nat) : List Nat :=
  (((s.boxes.map (·.1)).filter fun b => boxDie b == die && s.candidate b).foldl (insertTeam s.before) [])

/-- Whether a tile is on its way to the context that a CXSW named (R299). -/
def State.isHanded (s : State) (t : Nat) : Bool := s.boxes.any fun p => p.2.handed.any (·.1.contains t)

/-- Whether the scheduler core may grant a tile: no context runs on it, and none is to. -/
def State.tileFree (s : State) (t : Nat) : Bool := (s.tile t).box.isNone && !s.isHanded t

/-- The free tiles of a die. -/
def State.freeTiles (s : State) (die : Nat) : List Nat := (rangeFrom (40 * die) 40).filter s.tileFree

/-- Whether a waiting context at AGE 8 keeps candidate `b` from starting (R297). -/
def State.ageBlocked (s : State) (run : List Nat) (b : Nat) : Bool :=
  let x := s.box b
  run.any fun a =>
    let y := s.box a
    a != b && y.age == 8 && decide (x.prio.toNat ≤ y.prio.toNat)
      && (x.age != 8 || decide (x.prio.toNat < y.prio.toNat) || s.before a b)

/-- `n` of the tiles of a list, by a free choice of the scheduler core (R284). -/
def pickTiles : Nat → List Nat → State → List Nat × State
  | 0, _, s => ([], s)
  | n + 1, l, s =>
    match l with
    | [] => ([], s)
    | a :: r =>
      let (k, s) := s.draw
      let t := (l[k % l.length]?).getD a
      let (ts, s) := pickTiles n (if t = a then r else l.filter (· != t)) s
      (t :: ts, s)

/-! ## Lease grants (R179, R297) -/

/-- Whether two boxes' leases overlap (R22). -/
def leasesMeet (x y : Box) : Bool :=
  decide (x.lbase.toNat < y.lbase.toNat + y.lsize.toNat) && decide (y.lbase.toNat < x.lbase.toNat + x.lsize.toNat)

/-- The lease bytes of box `o` on tile `t` are no longer its own. -/
def State.dropOwner (s : State) (o t : Nat) : State := s.updTile t fun x => { x with owners := x.without o }

/-- The lease of box `o` released on every tile (R286, R399). -/
def State.dropOwners (s : State) (o : Nat) : State :=
  { s with tiles := s.tiles.map fun x => { x with owners := x.without o } }

/-- The state of a box gone to its image: no tile holds it (R286, R297). -/
def State.leaveTiles (s : State) (o : Nat) : State := (s.updBox o fun y => { y with live := false }).dropOwners o

/-- A context goes to its image: the writes of its streams performed, the image written, its tiles left; the box itself
where the image cannot be written, or in the security state W, which gives no key for it (R28, R252, R297, R378). -/
def State.toImage (s : State) (o : Nat) : Except Nat State :=
  if s.security == .w then .error o
  else
    let s := s.performEvery (·.box == o)
    match s.writeImage o (s.liveRanks o 1) 1 false with
    | some p => .ok (p.2.leaveTiles o)
    | none => .error o

/-- Box `o` loses its lease on tile `t` to another grant: its image is written first, unless it is current or the bytes
are those of an earlier team; a PARKED context becomes SWAPPED (R297). A HALTED one, whose image is current, has its live
state on tiles no more. -/
def State.evict (s : State) (o t : Nat) : Except Nat State :=
  let y := s.box o
  if y.tiles.contains t && !y.img then
    (s.toImage o).map fun s =>
      s.updBox o fun z => if z.state == .parked && z.reason != 0x0D then { z with state := .swapped } else z
  else if y.tiles.contains t && y.live then .ok (s.leaveTiles o)
  else .ok (s.dropOwner o t)

/-- The lease of box `b` granted on tile `t`: other leases over it give way, and its bytes are zero and empty unless the
box held them when it last ran there (R179). -/
def State.grantTile (s : State) (b : Nat) (anew : Bool) (t : Nat) : Except Nat State :=
  let os := ((s.tile t).owners.map (·.1)).filter fun o => o != b && leasesMeet (s.box b) (s.box o)
  (os.foldlM (fun (s : State) o => s.evict o t) s).map fun s =>
    if !anew && (s.tile t).owners.any (·.1 == b) then s
    else
      let x := s.box b
      ((s.clearLease t x.lbase.toNat x.lsize.toNat).dropOwner b t).updTile t fun y =>
        { y with owners := y.owners ++ [(b, 0)] }

/-! ## Starts -/

/-- The context of a rank that resumes: from its save area or from the image, with the counters and pending causes that
the box has kept meanwhile (R29, R272, R352). -/
def resumeCtx (old : Ctx) (img : Option ImgRank) (back : Bool) : Ctx :=
  match img with
  | none => old
  | some k =>
    let c := { k.ctx with oc := old.oc, trap := { k.ctx.trap with tpend := old.trap.tpend } }
    if back then c.rollback else c

/-- Rank `r` of box `b` put on tile `t` with its lease granted. -/
def State.startRank (s : State) (b : Nat) (img : Option Image) (l : Option Launch) (r t : Nat) : State :=
  let x := s.box b
  let k := img.bind fun i => i.ranks[r]?
  let old := (x.saved[r]?).getD Ctx.reset
  let held := (((s.tile t).owners.find? (·.1 == b)).map (·.2)).getD 0
  let written := (k.map (·.ctx.written)).getD held
  let c := if x.resume then resumeCtx old k (x.rewind == some r)
    else match l.bind fun l => (s.block l.lbh).map fun blk => (blk, l.args) with
      | some (blk, args) => launchCtx blk args r (s.tile t).beat old
      | none => old
  let s := match k with
    | some k => s.putExtents t x.lbase.toNat k.ext
    | none => s
  (s.dropOwner b t).resumeOn b r t { c with written := written }

/-- The ranks of box `b` put on their tiles, rank by rank. -/
def State.startRanks (s : State) (b : Nat) (img : Option Image) (l : Option Launch) : Nat → List Nat → State
  | _, [] => s
  | r, t :: ts => (s.startRank b img l r t).startRanks b img l (r + 1) ts

/-- Box `b` RUNNING on tiles `ts`, whose leases are granted: sections, ranks, order of start, grants; records of kinds 1, 2
and 5 whose page is resident cease (R267, R286, R312, R323). -/
def State.runOn (s : State) (b : Nat) (ts : List Nat) (img : Option Image) : State :=
  let x := s.box b
  let l := x.work
  let sects := match (if x.resume then none else l.bind fun l => s.block l.lbh) with
    | some k => blockSects k
    | none => x.sects
  let s := s.updBox b fun y =>
    { y with
      sects := sects, current := l, queue := if y.resume then y.queue else y.queue.tail, tiles := ts, handed := none
      keyless := false, chains := y.chains.map fun c => { c with fetches := [] } }
  let s := s.cease b fun r => recFamily r.kind == 0 && s.pageResident x.asid.toNat r.page
  let s := s.startRanks b img l 0 ts
  let s := s.updBox b fun y =>
    { y with
      state := .running, reason := 0, live := false, img := false, everRan := true, resume := true, rewind := none, age := 0
      preempt := l.any (·.step), oneStep := l.any (·.step), startSeq := s.seq, demoted := [] }
  ({ s with seq := s.seq + 1, ran := true }.syncQueue b).startGrant b

/-- The image of a context refused at its start: PARKED, reason IMGBAD, the status reported (R313, R314, R344). -/
def State.imgBad (s : State) (b : Nat) (st : Nat) : State :=
  let s := s.updBox b fun x => { x with state := .parked, reason := 0x0E, watch := BitVec.ofNat 64 st }
  (s.report b (BitVec.ofNat 8 st)).ras (boxDie b) 0xE0 b unitFront st

/-- The launch that names the image from which a box resumes that has not run here (R317). -/
def Box.imageBy (x : Box) : Option Launch := if x.everRan then none else x.current.filter (·.image != 0)

/-- The VA of the image that box `b` resumes from: the one that its launch names before it has run here (R317). -/
def Box.imageVa (x : Box) : Word := (x.imageBy.map (·.image)).getD x.image

/-- The ASID of that VA: QASID of the launch's queue, else 0 (R283, R364). -/
def Box.imageAsid (x : Box) : Nat := (x.imageBy.map (·.qasid.toNat)).getD 0

/-- Box `b` started on tiles `ts`, restored from its image where its state lies there; else the box whose image the start
needs and cannot have: that of a context that loses its lease, or in the security state W its own (R296, R297, R313,
R378). -/
def State.startOn (s : State) (b : Nat) (ts : List Nat) : Except Nat State :=
  let x := s.box b
  let anew := x.img && !x.live
  if anew && s.security == .w then .error b
  else match (if anew then (s.openImage b x.team x.imageAsid x.imageVa).map some else .ok none) with
    | .error st => .ok (s.imgBad b st)
    | .ok img => (ts.foldlM (fun (s : State) t => s.grantTile b anew t) s).map fun s => s.runOn b ts img

/-- A start of box `b` that the image of box `o` holds up: in the security state W it gets no key, and the launch that it was
to begin completes with KEY (R378); else the image's area is waited for. -/
def State.startBlocked (s : State) (b o : Nat) : State :=
  if s.security == .w then s.updBox b fun x => { x with keyless := !x.resume } else s.blockedSave o

/-! ## Selection (R296, R297) -/

/-- The tiles that candidate `b` starts on, where it fits: its own where its live state stands there, else free ones. -/
def State.fits (s : State) (b : Nat) : Option (List Nat × State) :=
  let x := s.box b
  if x.live then (if x.tiles.all s.tileFree then some (x.tiles, s) else none)
  else
    let l := s.freeTiles (boxDie b)
    let n := s.teamOf b
    if n ≤ l.length then some (pickTiles n l s) else none

/-- Every waiting context of `b`'s priority that entered READY before it ages (R297). -/
def State.ageOthers (s : State) (run : List Nat) (b : Nat) : State :=
  let x := s.box b
  run.foldl (fun s a =>
    if (s.box a).prio == x.prio && decide ((s.box a).readySeq < x.readySeq) then
      s.updBox a fun y => { y with age := min 8 (y.age + 1) }
    else s) s

/-- The running teams of a die that may give way to candidate `b`, lowest priority and latest start first. -/
def State.victims (s : State) (b : Nat) : List Nat :=
  ((s.teams (boxDie b)).filter fun a => decide ((s.box a).prio.toNat < (s.box b).prio.toNat)).reverse

/-- The teams to pre-empt so that `need` tiles become free beyond those on their way to it. -/
def takeVictims (s : State) : Nat → List Nat → Option (List Nat)
  | 0, _ => some []
  | _, [] => none
  | need + 1, a :: l => (takeVictims s (need + 1 - (s.box a).tiles.length) l).map (a :: ·)

/-- The teams that a candidate which does not fit has pre-empted, if they make room for it (R296). -/
def State.roomFor (s : State) (b : Nat) : Option (List Nat) :=
  let x := s.box b
  if x.live then
    let hs := (x.tiles.filterMap fun t => (s.tile t).box).eraseDups
    if hs.all fun a => decide ((s.box a).prio.toNat < x.prio.toNat) || (x.age == 8 && (s.box a).prio == x.prio) then some hs
    else none
  else
    let going := (s.teams (boxDie b)).filter fun a => (s.box a).preempt
    let soon := (s.freeTiles (boxDie b)).length + going.foldl (fun n a => n + (s.box a).tiles.length) 0
    takeVictims s (s.teamOf b - soon) ((s.victims b).filter fun a => !(s.box a).preempt)

/-- A pre-emption request for the running teams of a list (R28). -/
def State.preemptAll (s : State) (l : List Nat) : State :=
  l.foldl (fun s a => s.updBox a fun x => { x with preempt := true, asked := some (x.asked.getD s.timeb) }) s

/-- A selection over the candidates in order: the first that fits starts; one that does not fit and can be given room has
teams pre-empted for it (R296). -/
def State.selectFrom (s : State) (run : List Nat) : List Nat → State
  | [] => s
  | b :: l =>
    if s.ageBlocked run b then s.selectFrom run l
    else match s.fits b with
      | some (ts, s') =>
        match s'.startOn b ts with
        | .ok s'' => if (s''.box b).state == .running then s''.ageOthers run b else s''
        | .error o => (s.startBlocked b o).selectFrom run l
      | none =>
        match s.roomFor b with
        | some vs => (s.preemptAll vs).selectFrom run l
        | none => s.selectFrom run l

/-- A selection on a die; a die in PS2, or a package in PS3, starts nothing (R295, R377). -/
def State.select (s : State) (die : Nat) : State :=
  if (s.die die).ps2 || s.ps3 then s else let run := s.runList die; s.selectFrom run run

/-! ## Launch ends (R288) -/

/-- Whether every tile of a running team has ended its part and has no X word outstanding. -/
def State.teamEnded (s : State) (b : Nat) : Bool :=
  let x := s.box b
  x.state == .running && x.tiles.all fun t => (s.ctx t).done && (s.ctx t).oc.oct == 0

/-- The launch of box `b` ends: its tiles go back, its lease bytes stay, its completion waits for the counters (R288). -/
def State.endLaunch (s : State) (b : Nat) : State :=
  let (cs, s) := s.saveTiles (s.box b).tiles
  let s := s.updBox b fun x =>
    { x with
      saved := cs ++ x.saved.drop cs.length, live := false, img := false, resume := false, preempt := false, asked := none
      keyless := false, current := none
      ending := x.ending ++ (x.current.map fun l => (l, cs.length)).toList }
  let s := if (s.box b).queue.isEmpty then
      s.updBox b fun x => { x with state := .parked, reason := 0x0B, watch := 0 }
    else s.makeReady b
  ((s.charged (boxDie b) (s.box b).rcb).foldl (fun s r => s.putUsed r) s).rearbitrate (boxDie b)

end Sys2Proof.Machine
end

