-- ==== Sys2Proof/Machine/Streams.lean ====
section
/-!
DEFINITION. The words that act on streams: NOP, TEND, SREP, TGO (R40 to R43) and WAITC (R274).
-/
namespace Sys2Proof.Machine

/-- NOP (R40). -/
def execNop (s : State) : Out := runWord s (.next s)

/-- Whether every member of the open region has ended (R41). -/
def Ctx.allEnded (c : Ctx) : Bool :=
  c.cEnded && (!c.memV || c.v.ended) && (!c.memX || c.x.ended) && (!c.memS || c.s.ended)

/-- The region of tile `t` closes when every member has ended: C counts its IDLE from this beat, and the V words of the
region land (R41, R279). -/
def State.closeRegion (s : State) (t : Nat) : State :=
  s.updTile t fun x =>
    let c := x.ctx
    if c.lockstep && c.allEnded then
      let c := iter Ctx.landV c.vec.fly.length c
      { x with ctx := { c with lockstep := false, cEnded := false, memV := false, memX := false, memS := false
                               due := .after x.beat } }
    else x

/-- TEND (R41). -/
def execTend (s : State) : Out :=
  let t := s.cur.at_
  let c := s.me
  runWord s
    (match s.cur.strm with
    | .c =>
      gated s
        (if !c.lockstep then .trap 0x04 0
         else .exact (((s.moveOn t .c s.cur.idx).updMe fun c => { c with cEnded := true }).closeRegion t))
    | e =>
      if (c.strm e).levels != [] then .trap 0x04 0
      else
        .exact (((s.moveOn t e s.cur.idx).updMe fun c =>
          c.updStrm e fun y => { y with running := false, ended := c.lockstep && c.member e }).closeRegion t))

/-- SREP (R43). -/
def opSrep (s : State) (f : FP) : WRes :=
  let t := s.cur.at_
  let e := s.cur.strm
  let p := s.cur.idx
  let n := f.len.toNat
  let y := s.me.strm e
  let words := (vget ⟨0, 0⟩ (s.tile t).sect e.num).words
  if 2 ≤ y.levels.length then .trap 0x06 0
  else if n = 0 then .trap 0x03 0
  else if words ≤ p + n then .trap 0x05 (BitVec.ofNat 64 (p + n))
  else if y.levels.any fun l => decide (l.fin < p + n) then .trap 0x05 (BitVec.ofNat 64 (p + n))
  else
    let go := fun (c : Nat) =>
      if c = 0 then WRes.over s (p + n) false
      else .goto (s.updMe fun x => x.updStrm e fun y => { y with levels := ⟨p + 1, p + n, c, 0⟩ :: y.levels }) (p + 1) false
    if f.src == 1 then
      if s.me.waits [f.sa] || s.me.c.psn f.sa then .stall s 0 0
      else if (s.reg f.sa).toNat ≥ 2 ^ 32 then .trap 0x03 0
      else go (s.reg f.sa).toNat
    else go f.cnt.toNat

/-- SREP (R43). -/
def execSrep (f : FP) (s : State) : Out := runWord s (opSrep s f)

/-- The engine streams that a TGO joins, with their entries (R42). -/
def joined (f : FT) : List (Strm × Nat) :=
  (if f.jv == 1 then [(.v, f.ve.toNat)] else []) ++ (if f.jx == 1 then [(.x, f.xe.toNat)] else [])
    ++ (if f.js == 1 then [(.s, f.se.toNat)] else [])

/-- The streams a TGO starts, and the region it opens (R35, R37, R42). -/
def State.startStreams (s : State) (f : FT) : State :=
  let l := f.l == 1
  s.updTile s.cur.at_ fun x =>
    let p := if l then 0 else x.beat
    let c := (joined f).foldl (fun (c : Ctx) je => c.updStrm je.1 fun _ => ⟨true, false, je.2, .after p, []⟩) x.ctx
    if l then
      { x with
        cnt := 0
        stores := x.stores.map fun p => { p with counted := none }
        ctx := { c with lockstep := true, cEnded := false, memV := f.jv == 1, memX := f.jx == 1, memS := f.js == 1 } }
    else { x with ctx := c }

/-- TGO (R42). -/
def execTgo (f : FT) (s : State) : Out :=
  runWord s (gated s
    (if s.me.lockstep || (joined f).any fun je => (s.me.strm je.1).running then .trap 0x04 0
     else match (joined f).find? fun je => decide ((vget ⟨0, 0⟩ s.here.sect je.1.num).words ≤ je.2) with
      | some je => .trap 0x05 (BitVec.ofNat 64 je.2)
      | none => .next (s.startStreams f)))

/-- WAITC (R273, R274): it tests the counters as they stood at the start of the beat. -/
def execWaitc (f : FW) (s : State) : Out :=
  runWord s
    (if allowOk s.here.oc0 f.nl.toNat f.ns.toNat f.nc.toNat f.nt.toNat then .next s
     else .stall s 0x04 (BitVec.setWidth 64 (f.nl ++ f.ns ++ f.nc ++ f.nt)))

end Sys2Proof.Machine
end

