-- ==== Sys2Proof/Machine/TileEvents.lean ====
section
/-!
DEFINITION. The events of a tile: landings, performed stores, absent code pages, the wait threshold and the delivery of an
asynchronous cause (R26, R53, R99, R134, R161, R191, R224, R228, R230, R236, R239, R352).
-/
namespace Sys2Proof.Machine

/-- The step of an event that leaves state `s`. -/
abbrev event (s : State) : Out := .next { s with last := .event }

/-- LOAD_VALUE_LAND (R228): the value of an LD, or of a queue, barrier or selection word, lands; one that a stack in forced
self-refresh has not answered does not (R219). -/
def execLoadValueLand (t : Nat) (i : Nat) (s : State) : Out :=
  match (s.ctx t).loads[i]? with
  | some f => event (if f.kind = .atomic || s.srHeld f.locs then s else s.landLoad t i)
  | none => event s

/-- ATOMIC_OLD_VALUE_LAND (R230). -/
def execAtomicOldValueLand (t : Nat) (i : Nat) (s : State) : Out :=
  match (s.ctx t).loads[i]? with
  | some f => event (if f.kind = .atomic && !s.srHeld f.locs then s.landLoad t i else s)
  | none => event s

/-- PENDING_WRITE_LAND (R99): the writes that the present beat makes visible. -/
def execPendingWriteLand (s : State) : Out := event (s.landPending s.cur.at_)

/-- V_WORD_LAND (R134, R239, R279): the oldest V word whose latency has passed. -/
def execVWordLand (s : State) : Out :=
  let x := s.tile s.cur.at_
  event (s.updCtx s.cur.at_ fun c => c.landVAt (c.vec.fly.findIdx fun f => f.due ≤ x.beat))

/-- S_WORD_COMPLETE (R161, R279): after the word's occupancy. -/
def execSWordComplete (s : State) : Out :=
  let x := s.tile s.cur.at_
  event (s.updCtx s.cur.at_ fun c => if (c.spe.fly.head?).any fun f => f.due ≤ x.beat then c.landS else c)

/-- X_WORD_COMPLETE (R191, R279). -/
def execXWordComplete (s : State) : Out := event (s.updCtx s.cur.at_ Ctx.landX)

/-- Whether tile `t`'s oldest store may be performed by itself now: its stack answers; and one through the tile's own
window comes before the words of a beat (R219, R237). -/
def State.storeFree (s : State) (t : Nat) (p : PendStore) : Bool :=
  !s.srHeld p.locs && (!(s.tile t).midBeat || !p.locs.any (inWindow t ·))

/-- STORE_PERFORMED (R239): the tile's oldest store, where its home lies on the tile's own die or off the package. -/
def execStorePerformed (s : State) : Out :=
  let t := s.cur.at_
  match (s.tile t).stores with
  | p :: _ => event (if p.cross.isEmpty && s.storeFree t p then s.performStore t else s)
  | [] => event s

/-- Whether a store that crosses dies has arrived before one that its stamp names: the home has not performed that one
(R236). -/
def State.early (s : State) (t : Nat) (p : PendStore) : Bool :=
  (rangeFrom 0 160).any fun u => u != t && (s.tile u).stores.any (namedBy p.stamp p.cross u)

/-- CROSS_DIE_WRITE_PERFORM (R236): the tile's oldest store, where another die homes it, once the home has performed every
write that its stamp names. -/
def execCrossDieWritePerform (s : State) : Out :=
  let t := s.cur.at_
  match (s.tile t).stores with
  | p :: _ => event (if !p.cross.isEmpty && s.storeFree t p && !s.early t p then s.performStore t else s)
  | [] => event s

/-- A stream's next word lies on a page that is not resident: a record of kind 5, and the stall FETCH (R224). -/
def State.fetchAbsent (s : State) (t : Nat) (e : Strm) (page : Nat) : State :=
  match (s.tile t).box with
  | none => s
  | some b => (s.faultPages b 5 t [page]).stallWord t e 0x03 0

/-- FETCH_PAGE_ABSENT (R224): the word that the stream is about to issue. -/
def execFetchPageAbsent (t : Nat) (e : Strm) (s : State) : Out :=
  if !(s.ctx t).active e || !s.due t e then event s
  else match s.fetch t e ((s.ctx t).pcOf e) with
    | .absent page => .next (s.fetchAbsent t e page)
    | _ => event s

/-- FETCH_DISCARD (R53, R359): a word that a running stream has fetched ahead, which fails and never issues, leaves one
record. Which word was fetched ahead is a free choice, on any path and also beyond the section; a stream that does not run
fetches nothing (R35). -/
def execFetchDiscard (t : Nat) (e : Strm) (s : State) : Out :=
  let (n, s) := s.draw
  let k := n % 2 ^ 24
  match (s.tile t).box with
  | none => event s
  | some b =>
    if !(s.ctx t).active e || k = (s.ctx t).pcOf e then event s
    else match s.fetchAny t e k with
      | .failed va => event (s.ras (tileDie t) 0xD4 b (unitTile t) va.toNat)
      | .error va => event (s.ras (tileDie t) 0xD4 b (unitTile t) va.toNat)
      | _ => event s

/-- The stall of stream `e`'s next word where it counts, is met at the present beat of tile `t`, and is longer than the
region's threshold (R26). -/
def State.overdue (s : State) (t : Nat) (e : Strm) : Option Stall :=
  let x := s.tile t
  match x.box, vget none x.since e.num with
  | some b, some y =>
    if y.reason != 0 && y.seen == x.beat && decide ((s.effWthr (boxDie b) (s.box b).rcb).toNat < x.beat - y.start) then
      some y
    else none
  | _, _ => none

/-- WAIT_THRESHOLD_EXPIRY (R26): a stall that counts, met at this beat and longer than the region's threshold, parks the
team. -/
def execWaitThresholdExpiry (t : Nat) (e : Strm) (s : State) : Out :=
  match s.overdue t e with
  | some y => .next (s.parkTile t y.reason y.watch)
  | none => event s

/-- Whether the present beat of tile `t` is a boundary at which an asynchronous cause is delivered (R352). -/
def State.delivers (s : State) (t : Nat) : Bool :=
  let x := s.tile t
  x.box.isSome && x.issued == 0 && decide (x.holdAll ≤ x.beat) && x.ctx.deliverable && !x.ctx.done

/-- The park of the first stream of tile `t` whose wait has passed the threshold at the present beat (R26). -/
def State.parkOverdue (s : State) (t : Nat) : Option State :=
  [Strm.c, .v, .x, .s].findSome? fun e => (s.overdue t e).map fun y => s.parkTile t y.reason y.watch

/-- A stream of tile `t` has a wait standing that counts and has not been met at the present beat yet: whether the boundary
parks the team is still open (R26, R353). -/
def State.waitOpen (s : State) (t : Nat) : Bool :=
  let x := s.tile t
  [Strm.c, .v, .x, .s].any fun e =>
    s.canIssue t e && (vget none x.since e.num).any fun y => y.reason != 0 && decide (y.start < x.beat)

/-- ASYNC_CAUSE_DELIVERY (R352, R353): a park that the boundary serves comes first; while one is still open, the boundary
is not decided. -/
def execAsyncCauseDelivery (s : State) : Out :=
  let t := s.cur.at_
  if !s.delivers t || s.waitOpen t then event s
  else match s.parkOverdue t with
    | some z => .next z
    | none => .next (s.deliver t)

end Sys2Proof.Machine
end

