-- ==== Sys2Proof/Machine/Sched.lean ====
section
/-!
DEFINITION. The context instructions CXSW, CXPARK and CXYIELD (R298 to R302) and the events of the scheduler core: pre-emption,
wakes, launch ends, budgets, periods, start timestamps, timers, selections and grants (R28, R281, R288, R289, R294, R296, R300,
R323).
-/
namespace Sys2Proof.Machine

/-! ## The context instructions -/

/-- The checks of R298 before a context instruction's own, and what R119 forbids at the end of a loop body. -/
def cxWord (s : State) (r : WRes) : WRes := gated s (if s.me.lockstep then .trap 0xA1 0 else notAtEnd s r)

/-- The tile at issue goes on at the word after the context instruction, and the team is saved (R22, R298). -/
def State.cxSave (s : State) : State :=
  let b := s.myBox
  ((s.moveOn s.cur.at_ .c s.cur.idx).markIssued s.cur.at_ .c).saveTeam b

/-- Context `b` started on the tiles that a CXSW hands over: on its own where they are among them, else from its image
(R296, R299). -/
def State.handTo (s : State) (b : Nat) (ts : List Nat) : Except Nat State :=
  let x := s.box b
  if x.live && x.tiles.all (ts.contains ·) then s.startOn b x.tiles
  else if x.live then (s.toImage b).bind fun s => s.startOn b (ts.take (s.teamOf b))
  else s.startOn b (ts.take (s.teamOf b))

/-- The context that R296 would choose for the caller's tiles, other than the caller (R299). -/
def State.cxChoice (s : State) : Option Nat :=
  let b := s.myBox
  let ts := (s.box b).tiles
  let run := (s.runList (boxDie b)).filter (· != b)
  run.find? fun a =>
    !s.ageBlocked run a && decide (s.teamOf a ≤ ts.length)
      && (!(s.box a).live || (s.box a).tiles.all (ts.contains ·))

/-- The caller of a CXSW saved and READY, and its tiles on their way to context `t` (R299). -/
def State.cxSwitch (s : State) (t : Nat) (aged : Bool) : State :=
  let b := s.myBox
  let ts := (s.box b).tiles
  let s := s.cxSave.makeReady b
  (s.updBox t fun x => { x with handed := some (ts, aged) }).rearbitrate (boxDie b)

/-- The end of a CXSW for the context that it named: it starts on the tiles handed over, and those beyond its team return to
the scheduler core. One that may not start by then leaves all of them: its region's budget is spent, it is to stop, or its
launch is held (R299, R318; notes/assumptions/31.md). -/
def State.handOver (s : State) (t : Nat) : State :=
  match (s.box t).handed with
  | none => s
  | some (ts, aged) =>
    let back := s.updBox t fun x => { x with handed := none }
    if !s.startable t then back
    else match back.handTo t ts with
      | .error o => if s.security == .w then back.startBlocked t o else s.blockedSave o
      | .ok z =>
        let run := (back.runList (boxDie t)).filter (· != t)
        (if aged && (z.box t).state == .running then z.ageOthers run t else z).rearbitrate (boxDie t)

/-- Whether box `t` may be named by a CXSW of the context at issue (R299): READY, of its region's subtree, eligible, and of
a team no larger. -/
def State.cxTarget (s : State) (t : Nat) : Bool :=
  let b := s.myBox
  let y := s.box t
  boxDie t == boxDie b && t != b && y.state == .ready && s.inBudget (boxDie b) y.rcb && s.under (boxDie b) y.rcb (s.box b).rcb
    && decide (s.teamOf t ≤ (s.box b).tiles.length)

/-- CXSW (R299). -/
def execCxsw (f : FCB) (s : State) : Out :=
  runWord s (cxWord s
    (if f.sa = 0 then
       match s.cxChoice with
       | none => .next s
       | some t => .off (s.cxSwitch t true)
     else reading s [f.sa]
       (let v := s.reg f.sa
        if v.toNat ≥ 65536 || !s.cxTarget v.toNat then .trap 0xA0 0 else .off (s.cxSwitch v.toNat false))))

/-- An armed deadline that TIMEB has reached sets TIMER and is disarmed (R290, R300). -/
def State.fireTimer (s : State) (b : Nat) : State :=
  let x := s.box b
  if x.dl && decide (x.deadline.toNat ≤ s.timeb) then (s.setEvent b 31).updBox b fun x => { x with dl := false } else s

/-- The box of a CXPARK before it parks: PWAKE, the deadline and EVMASK (R300). -/
def Box.arm (x : Box) (m w : Word) (dl : Bool) : Box :=
  let x := { x with pwake := w, evmask := bits m 0 32 ||| (if dl then 1 <<< 31 else 0) }
  if dl then { x with dl := true, deadline := w } else x

/-- CXPARK (R300). -/
def execCxpark (f : FCB) (s : State) : Out :=
  runWord s (cxWord s (reading s [f.sa, f.sb]
    (let m := s.reg f.sa
     let w := s.reg f.sb
     let dl := f.q.getLsbD 0
     let b := s.myBox
     if bits m 32 32 != 0 || (m == 0 && !dl) || (dl && w == 0) then .trap 0x03 0
     else
       let s' := (s.updBox b fun x => x.arm m w dl).fireTimer b
       let x := s'.box b
       if x.evpend &&& x.evmask != 0 then .next s'
       else
         let rank : Word := BitVec.ofNat 64 s.here.rank <<< 60
         let s' := s'.cxSave.updBox b fun x =>
           { x with state := .parked, reason := 0x0A, watch := rank ||| (if x.dl then 1 else 0) }
         .off (s'.rearbitrate (boxDie b)))))

/-- CXYIELD (R301). -/
def execCxyield (_f : FCB) (s : State) : Out :=
  runWord s (cxWord s
    (let b := s.myBox
     .off (((s.cxSave.makeReady b).rearbitrate (boxDie b)).select (boxDie b))))

/-! ## Events of the scheduler core -/

/-- PREEMPT_REQUEST (R28). -/
def execPreemptRequest (box : Nat) (s : State) : Out :=
  event (if (s.box box).state = .running then s.preemptAll [box] else s)

/-- CONTEXT_WAKE (R289): the wake condition of the context's REASON holds. A swap, halt or destroy that is under way comes
first (R318). -/
def execContextWake (box : Nat) (s : State) : Out :=
  let x := s.box box
  if (x.state == .parked || x.state == .swapped) && !x.stopping && s.wakeHolds box then event (s.wake box) else event s

/-- LAUNCH_END (R288). -/
def execLaunchEnd (box : Nat) (s : State) : Out := event (if s.teamEnded box then s.endLaunch box else s)

/-- BUDGET_SPENT (R294). -/
def execBudgetSpent (rcb : Word) (s : State) : Out :=
  match s.region s.cur.at_ rcb with
  | none => event s
  | some r =>
    if r.used < s.budgetOf r then event s
    else
      let bs := (s.boxes.filter fun p =>
        p.2.state == .running && boxDie p.1 == r.die && (s.charged r.die p.2.rcb).any (·.va == rcb)).map (·.1)
      event ((s.preemptAll bs).putUsed r)

/-- PERIOD_START (R294): TIMEB has reached a further multiple of half the root's PERIOD, in nanoseconds. -/
def execPeriodStart (rcb : Word) (s : State) : Out :=
  match s.region s.cur.at_ rcb with
  | none => event s
  | some r =>
    let k := 2 * s.timeb / r.period
    if !r.root || k ≤ r.periodNo then event s
    else
      let below := s.regions.filter fun y => y.die == r.die && s.under r.die y.va rcb
      let s := (s.updRegion r.die rcb fun y => { y with periodNo := k })
      event (below.foldl (fun s y => (s.updRegion y.die y.va fun z => { z with used := 0 }).putUsed { y with used := 0 }) s)

/-- START_TIMESTAMP_REACHED (R281). -/
def execStartTimestampReached (box : Nat) (s : State) : Out :=
  let hit := fun (l : Launch) => { l with timed := l.timed || decide (l.start.toNat ≤ s.timeb) }
  event ((s.updBox box fun x => { x with queue := x.queue.map hit, current := x.current.map hit }).syncQueue box)

/-- TIMER (R300): in PS3 an armed deadline stays armed, and wakes the package (R377). -/
def execTimer (box : Nat) (s : State) : Out := event (if s.ps3 then s else s.fireTimer box)

/-- SELECTION (R295, R296), on the die that `cur` names. -/
def execSelection (s : State) : Out := event (s.select s.cur.at_)

/-- GRANT_CHANGE (R323): every changed grant of the die that `cur` names takes effect, with the CLOCK event of each. -/
def execGrantChange (s : State) : Out :=
  event (s.applyGrants s.cur.at_)

end Sys2Proof.Machine
end

