-- ==== Sys2Proof/Machine/Select.lean ====
section
/-!
DEFINITION. The token of a row (R329 to R332) and of the shards of a row (R334): the order O, the nucleus, the Gumbel argmax.
Sums of exponentials are counted in units of 2^-149.
-/
namespace Sys2Proof.Machine

/-- The value of an FP32 pattern. -/
abbrev f32 (x : Nat) : Num := decodeFloat 1 x

/-- rne(v, FP32). -/
def rneF32 (v : Num) : Nat := (encodeFloat 1 0 false 0 v).1

/-- rne(x, FP32) of a positive magnitude. -/
def rneMag (neg : Bool) (x : Mag) : Nat := (roundFloat 1 0 false 0 neg x).1

/-- A token of a row: a_v, its pattern, G(v) (R329). -/
structure Tok where
  a : Num
  pat : Nat
  g : Nat
  deriving DecidableEq, Repr

/-- a_v of R329 as a pattern, from a logit, a constraint weight and INVT. -/
def aVal (invt : Num) (logit weight : Nat) : Nat :=
  let inner := rneF32 (mulNum (f32 weight) (f32 0x3F317218)).1
  rneF32 (addNum 0 (mulNum (f32 logit) invt).1 (f32 inner)).1

/-- The order O (R329): a_v descending, then G(v) ascending. -/
def Tok.before (x y : Tok) : Bool := ltNum false y.a x.a || (eqNum x.a y.a && decide (x.g < y.g))

/-- A token in its place of a list in order O. -/
def insTok (t : Tok) : List Tok → List Tok
  | [] => [t]
  | x :: l => if t.before x then t :: x :: l else x :: insTok t l

/-- The shortlist: the first 64 tokens of O (R330). -/
def shortlist (l : List Tok) : List Tok := l.foldl (fun a t => (insTok t a).take 64) []

/-- A value that makes a row BADROW (R329). -/
def badVal (v : Num) : Bool := v == .nan || v == .inf false

/-- A nonnegative finite FP32 value in units of 2^-149. -/
def unitsOf (v : Num) : Nat :=
  match v with
  | .fin _ m e => m * 2 ^ (e + 149).toNat
  | _ => 0

/-- rne(exp(a - m), FP32) in units of 2^-149 (R331). -/
def expUnits (a m : Num) : Nat :=
  match (addNum 0 a (negNum m)).1 with
  | .fin neg x e => unitsOf (f32 (rneMag false (expMag neg x e)))
  | .zero _ => 2 ^ 149
  | _ => 0

/-- rne of a sum in units of 2^-149, in the same units. -/
def rneUnits (n : Nat) : Nat := if n = 0 then 0 else unitsOf (f32 (rneMag false (.dyadic n (-149))))

/-- How a row is chosen from: MODE, TOPK, TOPP, SEED. -/
structure PickBy where
  mode : Bool
  topk : Nat
  topp : Nat
  seed : Word
  deriving DecidableEq, Repr

/-- What a row gives. -/
inductive RowRes where
  | token (g : Nat)
  | empty
  | slow
  | bad
  deriving DecidableEq, Repr

/-- The least j with rne(S_j / Z) at least TOPP, among the tokens of the shortlist (R331). -/
def leastJ (z topp : Nat) : Nat → Nat → List Nat → Option Nat
  | _, _, [] => none
  | j, sum, e :: l =>
    if topp ≤ rneMag false ⟨sum + e, z, 0, false⟩ then some (j + 1) else leastJ z topp (j + 1) (sum + e) l

/-- J of R331; above 64 where the row needs the slow path. Where no j reaches TOPP, every token is in the nucleus. -/
def nucleus (p : PickBy) (top : List Tok) (count z : Nat) (m : Num) : Nat :=
  if !p.mode then 1
  else if p.topk != 0 then min p.topk count
  else match leastJ z p.topp 0 0 (top.map fun t => expUnits t.a m) with
    | some j => j
    | none => if 64 < count then 65 else count

/-- -ln of a positive FP32 value, rounded. -/
def negLn (v : Num) : Num :=
  match v with
  | .fin _ m e =>
    match lnMag m e with
    | none => .zero true
    | some (neg, x) => f32 (rneMag (!neg) x)
  | _ => .nan

/-- The noise g_v (R332). -/
def noise (seed : Word) (sid pos : BitVec 32) (g : Nat) : Num :=
  let w := keyed seed sid pos (BitVec.ofNat 32 (g / 4)) (g % 4)
  negLn (negLn (.fin false (2 * (w.toNat / 2 ^ 9) + 1) (-24)))

/-- The token of the greatest s_v, the earlier in O on a tie (R332). -/
def argmax (seed : Word) (sid pos : BitVec 32) : Option (Num × Nat) → List Tok → Option Nat
  | b, [] => b.map (·.2)
  | b, t :: l =>
    let v := f32 (rneF32 (addNum 0 t.a (noise seed sid pos t.g)).1)
    match b with
    | none => argmax seed sid pos (some (v, t.g)) l
    | some (x, g) => argmax seed sid pos (some (if ltNum false x v then (v, t.g) else (x, g))) l

/-- The token of a row with its shortlist, its count of tokens not excluded, and Z relative to m (R331, R332). -/
def pickRow (p : PickBy) (sid pos : BitVec 32) (top : List Tok) (count z : Nat) (m : Num) : RowRes :=
  match top with
  | [] => .empty
  | t :: _ =>
    let j := nucleus p top count z m
    if 64 < j then .slow
    else if !p.mode then .token t.g
    else match argmax p.seed sid pos none (top.take j) with
      | some g => .token g
      | none => .empty

/-- A row evaluated: its shortlist, count, Z and m; none for BADROW (R329 to R331). -/
def evalRow (invt : Num) (base : Nat) (logits weights : List Nat) : Option (List Tok × Nat × Nat × Num) :=
  let as := (logits.zip weights).map fun p => aVal invt p.1 p.2
  let ts := ((rangeFrom base as.length).zip as).map fun p => (⟨f32 p.2, p.2, p.1⟩ : Tok)
  if ts.any fun t => badVal t.a then none
  else
    let ts := ts.filter fun t => t.a != .inf true
    let top := shortlist ts
    let m := ((top.head?).map (·.a)).getD (.inf true)
    some (top, ts.length, rneUnits (ts.foldl (fun n t => n + expUnits t.a m) 0), m)

/-- The token of a row (R329 to R332). -/
def rowToken (p : PickBy) (invt : Num) (base : Nat) (sid pos : BitVec 32) (logits weights : List Nat) : RowRes :=
  match evalRow invt base logits weights with
  | none => .bad
  | some (top, count, z, m) => pickRow p sid pos top count z m

/-! ## Shards (R334) -/

/-- The first entry of an unused place of a shortlist: -∞ and no token. -/
def noEntry : List Byte := toBytes 4 0xFF800000 ++ toBytes 4 0xFFFFFFFF

/-- The 576 bytes of a shortlist record (R334). `free` stands for the words that the spec states for no BADROW row. -/
def shortRecord (free : Nat) (r : Option (List Tok × Nat × Nat × Num)) : List Byte :=
  match r with
  | none =>
    (List.replicate 64 noEntry).flatten ++ toBytes 4 0xFF800000 ++ toBytes 4 (free % 2 ^ 32) ++ toBytes 4 (free / 2 ^ 32 % 2 ^ 32)
      ++ toBytes 4 6 ++ List.replicate 48 0
  | some (top, count, z, _) =>
    let m := ((top.head?).map (·.pat)).getD 0xFF800000
    (top.flatMap fun t => toBytes 4 t.pat ++ toBytes 4 t.g) ++ (List.replicate (64 - top.length) noEntry).flatten
      ++ toBytes 4 m ++ toBytes 4 (if z = 0 then 0 else rneMag false (.dyadic z (-149))) ++ toBytes 4 count ++ toBytes 4 0
      ++ List.replicate 48 0

/-- A word of a shortlist record. -/
def recWord (b : List Byte) (o : Nat) : Nat := ofBytes ((b.drop o).take 4)

/-- The entries of a shortlist record that hold a token. -/
def recToks (b : List Byte) : List Tok :=
  ((rangeFrom 0 64).map fun i => (⟨f32 (recWord b (8 * i)), recWord b (8 * i), recWord b (8 * i + 4)⟩ : Tok)).filter
    fun t => t.a != .inf true

/-- A shortlist record that R334 does not describe: no value follows for its row. -/
def oddRecord (b : List Byte) : Bool :=
  let z := f32 (recWord b 0x204)
  badVal (f32 (recWord b 0x200)) || (recToks b).any (fun t => badVal t.a)
    || (match z with | .fin neg _ _ => neg | .zero _ => false | _ => true)

/-- The greatest M of some records. -/
def greatestM (recs : List (List Byte)) : Num :=
  recs.foldl (fun a b => let v := f32 (recWord b 0x200); if ltNum false a v then v else a) (.inf true)

/-- MERGE of the records of one row (R334); `free` stands for what no rule states of an odd record. -/
def mergeToken (p : PickBy) (sid pos : BitVec 32) (free : Nat) (recs : List (List Byte)) : RowRes :=
  if recs.any fun b => recWord b 0x20C == 6 then .bad
  else if recs.any oddRecord then .token (free % 2 ^ 32)
  else
    let m := greatestM recs
    let part := fun (b : List Byte) =>
      let e := expUnits (f32 (recWord b 0x200)) m
      let z := unitsOf (f32 (recWord b 0x204))
      if e * z = 0 then 0 else unitsOf (f32 (rneMag false (.dyadic (e * z) (-298))))
    pickRow p sid pos (shortlist (recs.flatMap recToks)) (recs.foldl (fun n b => n + recWord b 0x208) 0)
      (rneUnits (recs.foldl (fun n b => n + part b) 0)) m

end Sys2Proof.Machine
end

