-- ==== Sys2Proof/Machine/Units.lean ====
section
/-!
DEFINITION. The SL words (R340) and the commands of the selection units, the compaction engine and the backfill engine
(R326 to R339). A command runs as the oldest of its unit, for the context that `cur` names; a unit runs it in one step.
-/
namespace Sys2Proof.Machine

/-! ## The units' queues (R326) -/

/-- The commands of unit `u` of a die. -/
def State.unitQueue (s : State) (die u : Nat) : List UnitCmd := vget [] (s.die die).units u

/-- The queue of unit `u` of a die changed. -/
def State.updUnit (s : State) (die u : Nat) (f : List UnitCmd → List UnitCmd) : State :=
  s.updDie die fun d => { d with units := vupd d.units u f }

/-- Whether box `b` may put one more command in unit `u` of its die (R254, R326); every context of the die has a queue
there. -/
def State.slRoom (s : State) (b u : Nat) : Bool :=
  let die := boxDie b
  let q := s.unitQueue die u
  let held := fun (a : Nat) => (q.filter (·.box == a)).length
  let others := (s.boxes.filter fun p => p.2.state != .free && boxDie p.1 == die && p.1 != b).map fun p =>
    (⟨8, 1024, held p.1⟩ : PoolQueue)
  decide (q.length < 1024) && mayTake 1024 ⟨8, 1024, held b⟩ others

/-- Pages of a range that the unit of a die cannot reach: their promotion is requested (R213, R326). -/
def State.wantRange (s : State) (die asid : Nat) (va : Word) (n : Nat) : State :=
  (pageBases va.toNat n).foldl
    (fun s p => if s.pageResident asid (BitVec.ofNat 64 p) then s else s.wantPage die asid (BitVec.ofNat 64 p)) s

/-! ## The SL words (R340) -/

/-- A read of a C word of format CR at s[sa], aligned to `n` bytes, `n` bytes long, with the checks of LD. -/
def slAccess (s : State) (f : FCR) (n : Nat) (k : State → Word → List Nat → List Word → WRes) : WRes :=
  gated s (reading s [f.sa]
    (let x := s.reg f.sa
     if bits x 57 7 != 0 then .trap 0x40 x
     else if x.toNat % n != 0 then .trap 0xC2 0
     else cAccess s x n false noPre fun s locs ls => ueGate s x locs
       (match s.reply x.toNat locs true with
        | some r => s.refuse r
        | none => k ((s.correct s.cur.at_ locs).touch s.myAsid false (pagesOf x.toNat n)) x locs ls)))

/-- SLSUB (R240, R326, R340). -/
def execSlsub (f : FCR) (s : State) : Out :=
  let u := (bits f.q 0 3).toNat
  runWord s (slAccess s f 64 fun s _ locs _ =>
    if !s.slRoom s.myBox u then .next (s.wr f.sd 0 false 1)
    else
      let c : UnitCmd := ⟨s.myBox, s.here.rank, BitVec.ofNat 512 (s.readOwn locs)⟩
      .next (((s.performAll s.cur.at_).updUnit (boxDie s.myBox) u (· ++ [c])).wr f.sd 1 false 1))

/-- SLGET (R340): it waits for DONE, or until no command of the context is left on any unit. -/
def execSlget (f : FCR) (s : State) : Out :=
  runWord s (slAccess s f 8 fun s _ locs _ =>
    let w := BitVec.ofNat 64 (s.readOwn locs)
    if !w.getLsbD 63 && !f.q.getLsbD 0 && s.slPend s.myBox != 0 then .stall s 0 0
    else .next (s.flyTo .word [(f.sd, w)] false none))

/-- The units that a mask names (R340). -/
def unitsIn (x : Word) : List Nat := (rangeFrom 0 6).filter (x.getLsbD ·)

/-- SLCFG.drain (R340). -/
def execSlcfgDrain (f : FCR) (s : State) : Out :=
  runWord s (gated s (reading s [f.sa]
    (let x := s.reg f.sa
     if bits x 6 58 != 0 then .trap 0x03 0
     else if (unitsIn x).any fun u => (s.unitQueue (boxDie s.myBox) u).any (·.box == s.myBox) then .stall s 0 0
     else .next s)))

/-- RES of a unit's command (R327, R337, R338). -/
def UnitCmd.res (c : UnitCmd) : Word := bits c.raw 128 64

/-- A DONE word with its status (R326). -/
def doneWord (st : Nat) : Word := BitVec.ofNat 64 (2 ^ 63 + st * 2 ^ 56)

/-- The queued commands of box `b` on unit `u` of a die cancelled: their DONE words written (R340). -/
def State.flushUnit (s : State) (die b u : Nat) : State :=
  let mine := (s.unitQueue die u).filter (·.box == b)
  let s := s.updUnit die u (·.filter (·.box != b))
  mine.foldl (fun s c =>
    match s.writeFrom die (s.box b).asid.toNat c.res (toBytes 8 (doneWord 4).toNat) (fill := u == 4) with
    | some s => s
    | none => s.wantRange die (s.box b).asid.toNat c.res 8) s

/-- SLCFG.flush (R340). -/
def execSlcfgFlush (f : FCR) (s : State) : Out :=
  runWord s (gated s (reading s [f.sa]
    (let x := s.reg f.sa
     if bits x 6 58 != 0 then .trap 0x03 0
     else
       let b := s.myBox
       let die := boxDie b
       let n := (unitsIn x).foldl (fun n u => n + ((s.unitQueue die u).filter (·.box == b)).length) 0
       let s := (unitsIn x).foldl (fun s u => s.flushUnit die b u) s
       .next (s.wr f.sd (BitVec.ofNat 64 n) false 1))))

/-! ## A command in its unit -/

/-- Why a command ends without its effect: BADCMD, FULL, or FAULT at a range (R326); or why it waits. -/
inductive UnitErr where
  | bad
  | full
  | fault (va : Word) (n : Nat)
  /-- The command goes on later: a stack in forced self-refresh does not answer, a page is under move, or the words of a
  tile's beat come first (R213, R219, R237). -/
  | wait
  deriving DecidableEq, Repr

/-- The run of a command: a state, and an end without effect. -/
abbrev UnitM (α : Type) := ExceptT UnitErr (StateM State) α

/-- The ASID of the context whose command runs. -/
def State.unitAsid (s : State) : Nat := (s.box s.cur.box).asid.toNat

/-- The number of the unit at work in RAS records (R379). -/
def State.unitNo (s : State) : Nat := unitOf s.cur.sub

/-- What a unit's access meets instead of an answer: a negative reply, logged and raised on the context, or an error of a
tile's SRAM in bytes that it reads (R176, R219). -/
def State.unitNack (s : State) (va n : Nat) (w : Bool) : Option State :=
  (s.badReply s.unitAsid va n w).map fun r =>
    if r = 0 then s
    else (s.nackLog s.cur.at_ s.cur.box s.unitNo r).raiseAsync s.cur.box s.cur.rank (nackCause r)

/-- A read by the unit with the checks of LD, with the leaf of its first page (R326). -/
def unitReadLeaf (va : Word) (n : Nat) : UnitM (List Byte × Word) := do
  let s ← get
  match s.reach s.unitAsid va.toNat n false with
  | (.ok locs ls, s) =>
    if s.held locs then throw .wait
    else match s.unitNack va.toNat n false with
      | some s => set s; throw (.fault va n)
      | none =>
        set (s.didRead s.cur.at_ s.cur.box s.unitNo s.unitAsid va.toNat n)
        return (s.getBytes locs, ls.headD 0)
  | (_, s) => set s; throw (.fault va n)

/-- A read by the unit. -/
def unitRead (va : Word) (n : Nat) : UnitM (List Byte) := (·.1) <$> unitReadLeaf va n

/-- A number read by the unit. -/
def unitNat (va : Word) (n : Nat) : UnitM Nat := ofBytes <$> unitRead va n

/-- A write by the unit with the checks of ST; one of the CME sets full bits (R177). -/
def unitWrite (va : Word) (b : List Byte) : UnitM Unit := do
  let s ← get
  if s.writeWaits s.unitAsid va.toNat b.length then throw .wait
  else match s.unitNack va.toNat b.length true with
    | some s => set s; throw (.fault va b.length)
    | none =>
      match s.writeFrom s.cur.at_ s.unitAsid va b (fill := s.cur.sub == 4) with
      | some s => set s
      | none => throw (.fault va b.length)

/-- A byte changed by the unit in one indivisible action at its home, after every write that comes before it there (R236,
R331). -/
def unitUpdate (va : Word) (f : Nat → Nat) : UnitM Unit := do
  let s ← get
  match (s.reach s.unitAsid va.toNat 1 true).1 with
  | .ok locs ls => do
    if !s.writeWaits s.unitAsid va.toNat 1 && (s.unitNack va.toNat 1 true).isNone then set (s.crossLines s.cur.at_ ls locs)
    unitWrite va (toBytes 1 (f (ofBytes ((← get).nowBytes locs))))
  | _ => throw (.fault va 1)

/-- BADCMD unless `c` holds. -/
def need (c : Bool) : UnitM Unit := if c then pure () else throw .bad

/-- The command at issue complete with a status: its DONE word last, its cause, and its place in the queue free; a record
that cannot be written makes it FAULT (R326, R340, R342). -/
def State.finishUnit (s : State) (res : Word) (st : Nat) : State :=
  let b := s.cur.box
  let s := (s.unitNack res.toNat 8 true).getD s
  let (s, st) := match s.writeFrom s.cur.at_ s.unitAsid res (toBytes 8 (doneWord st).toNat) (fill := s.cur.sub == 4) with
    | some s => (s, st)
    | none => (s.wantRange s.cur.at_ s.unitAsid res 8, 5)
  let s := match st with
    | 2 => s.raiseAsync b s.cur.rank 0xC0
    | 5 => s.raiseAsync b s.cur.rank 0xC1
    | _ => s
  s.updUnit s.cur.at_ s.cur.sub (·.drop 1)

/-- A command run to its completion (R326); one that waits changes nothing, and is run again. -/
def runUnit (s : State) (res : Word) (m : UnitM Nat) : Out :=
  if s.writeWaits s.unitAsid res.toNat 8 then event s
  else match (m.run).run s with
    | (.ok st, s) => event (s.finishUnit res st)
    | (.error .bad, s) => event (s.finishUnit res 2)
    | (.error .full, s) => event (s.finishUnit res 3)
    | (.error (.fault va n), s) => event ((s.wantRange s.cur.at_ s.unitAsid va n).finishUnit res 5)
    | (.error .wait, _) => event s

/-- A command whose OP does not belong to its unit, or is no OP (R327, R340). -/
def State.badUnit (s : State) (c : UnitCmd) : Out := runUnit s c.res (throw .bad)

/-! ## The selection units (R327 to R335) -/

/-- TOPP in (0, 1] (R327). -/
def toppOk (p : BitVec 32) : Bool := p != 0 && decide (p.toNat ≤ 0x3F800000)

/-- The checks that all SLU commands share (R327). -/
def sluSound (c : SluCmd) (rows : Bool) : Bool :=
  bits c.mode 1 7 == 0 && decide (c.topk.toNat ≤ 64) && c.stride.toNat % 64 == 0 && c.res.toNat % 64 == 0 && c.src.toNat % 4 == 0
    && c.desc.toNat % 8 == 0 && decide (c.base.toNat + c.vocab.toNat ≤ 16777215) && (bits c.invt 23 8 : BitVec 8) != 0xFF
    && (if rows then c.vocab != 0 else c.vocab == 0)

/-- How a command chooses a token. -/
def sluBy (c : SluCmd) : PickBy := ⟨c.mode.getLsbD 0, c.topk.toNat, c.topp.toNat, c.seed⟩

/-- The words of a row of FP32 values. -/
def rowWords (b : List Byte) : Nat → List Nat
  | 0 => []
  | n + 1 => ofBytes (b.take 4) :: rowWords (b.drop 4) n

/-- A descriptor (R328). -/
structure Desc where
  sid : BitVec 32
  pos : BitVec 32
  rsi : BitVec 32
  cw : Word
  deriving DecidableEq, Repr

/-- Descriptor `k` of a command. -/
def readDesc (c : SluCmd) (k : Nat) : UnitM Desc := do
  let n ← unitNat (c.desc + BitVec.ofNat 64 (32 * k)) 32
  return ⟨BitVec.ofNat 32 n, BitVec.ofNat 32 (n / 2 ^ 32), BitVec.ofNat 32 (n / 2 ^ 64), BitVec.ofNat 64 (n / 2 ^ 128)⟩

/-- The logits of row `r` and its constraint weights, 0 where CW names none (R328, R329). -/
def readRow (c : SluCmd) (r : Nat) (cw : Word) : UnitM (List Nat × List Nat) := do
  let n := c.vocab.toNat
  let ls ← unitRead (c.src + BitVec.ofNat 64 (r * c.stride.toNat)) (4 * n)
  if cw = 0 then return (rowWords ls n, List.replicate n 0)
  else
    let ws ← unitRead cw (4 * n)
    return (rowWords ls n, rowWords ws n)

/-- A row with its row-state bit: one already set reports it SLOW unevaluated, and a slow row sets it by one indivisible update
(R328, R331). -/
def withState (c : SluCmd) (d : Desc) (m : UnitM RowRes) : UnitM RowRes := do
  if c.aux = 0 || d.rsi = 0xFFFFFFFF then m
  else
    let va := c.aux + BitVec.ofNat 64 (d.rsi.toNat / 8)
    let bit := 2 ^ (d.rsi.toNat % 8)
    if (← unitNat va 1) / bit % 2 = 1 then return .slow
    else
      let r ← m
      if r = .slow then unitUpdate va (· ||| bit)
      return r

/-- The 8 bytes of a row's result (R327). -/
def rowResult (r : RowRes) : List Byte :=
  match r with
  | .token g => toBytes 4 g ++ toBytes 4 0
  | .empty => toBytes 4 0xFFFFFFFF ++ toBytes 4 0
  | .slow => toBytes 4 0xFFFFFFFF ++ toBytes 4 1
  | .bad => toBytes 4 0xFFFFFFFF ++ toBytes 4 6

/-- SAMPLE (R327 to R333). -/
def execSample (c : SluCmd) (s : State) : Out :=
  runUnit s c.res do
    need (sluSound c true && 1 ≤ c.nrow.toNat && c.nrow.toNat ≤ 256 && (c.topk != 0 || toppOk c.topp))
    let rs ← (rangeFrom 0 c.nrow.toNat).mapM fun r => do
      let d ← readDesc c r
      withState c d do
        let (ls, ws) ← readRow c r d.cw
        return rowToken (sluBy c) (f32 c.invt.toNat) c.base.toNat d.sid d.pos ls ws
    unitWrite (c.res + 8) (rs.flatMap rowResult)
    return 0

/-- SHORT (R334). -/
def execShort (c : SluCmd) (s : State) : Out :=
  runUnit s c.res do
    need (sluSound c true && 1 ≤ c.nrow.toNat && c.nrow.toNat ≤ 256 && c.topk == 0 && c.topp == 0)
    (rangeFrom 0 c.nrow.toNat).forM fun r => do
      let d ← readDesc c r
      let (ls, ws) ← readRow c r d.cw
      let (n, s) := (← get).draw
      set s
      unitWrite (c.res + BitVec.ofNat 64 (64 + 576 * r)) (shortRecord n (evalRow (f32 c.invt.toNat) c.base.toNat ls ws))
    return 0

/-- MERGE (R334): its result is that of a SAMPLE of one row. -/
def execMerge (c : SluCmd) (s : State) : Out :=
  runUnit s c.res do
    need (sluSound c false && 1 ≤ c.nrow.toNat && c.nrow.toNat ≤ 16 && c.base == 0 && (c.topk != 0 || toppOk c.topp))
    let d ← readDesc c 0
    let r ← withState c d do
      let recs ← (rangeFrom 0 c.nrow.toNat).mapM fun k => unitRead (c.src + BitVec.ofNat 64 (k * c.stride.toNat)) 576
      let (n, s) := (← get).draw
      set s
      return mergeToken (sluBy c) d.sid d.pos n recs
    unitWrite (c.res + 8) (rowResult r)
    return 0

/-- The template of an index in a region's table (R325, R335). -/
def State.template (s : State) (die : Nat) (rcb : Word) (i : Nat) : Option (List (Byte × Byte)) :=
  (s.region die rcb).bind fun r => (r.templates.find? (·.1 == i)).map (·.2)

/-- The kept nodes of a template under a prune bitmap, as a bitmap (R325). -/
def keptNodes (prune : Nat) : Nat → List (Byte × Byte) → Nat → Nat
  | _, [], acc => acc
  | n, (p, _) :: l, acc =>
    let keep := prune / 2 ^ n % 2 == 1 && (n == 0 || acc / 2 ^ p.toNat % 2 == 1)
    keptNodes prune (n + 1) l (if keep then acc + 2 ^ n else acc)

/-- The walk of R335: status, BONUS, and the accepted nodes in order. -/
def verifyWalk (c : SluCmd) (d : Desc) (nodes : List (Byte × Byte)) (kept : Nat) (toks : List Nat) :
    Nat → Nat → BitVec 32 → List Nat → UnitM (Nat × Nat × List Nat)
  | 0, _, _, path => return (0, 0xFFFFFFFF, path)
  | fuel + 1, n, pos, path => do
    let (ls, ws) ← readRow c n d.cw
    match rowToken (sluBy c) (f32 c.invt.toNat) c.base.toNat d.sid pos ls ws with
    | .slow => return (1, 0xFFFFFFFF, path)
    | .bad => return (6, 0xFFFFFFFF, path)
    | r =>
      let t := match r with | .token g => g | _ => 0xFFFFFFFF
      match (rangeFrom 0 nodes.length).find? fun k =>
          k != 0 && kept / 2 ^ k % 2 == 1 && ((nodes[k]?).map (·.1.toNat)) == some n && (toks[k]?) == some t with
      | none => return (0, t, path)
      | some k => verifyWalk c d nodes kept toks fuel k (pos + 1) (path ++ [k])

/-- The verdict record after its DONE word (R335). -/
def verdict (tmpl basepos bonus : Nat) (path : List Nat) : List Byte :=
  let acc := path.foldl (fun a k => a + 2 ^ k) 0
  toBytes 8 acc ++ toBytes 1 path.length ++ toBytes 1 tmpl ++ toBytes 2 0 ++ toBytes 4 basepos ++ toBytes 4 bonus ++ toBytes 4 0
    ++ toBytes 8 acc ++ toBytes 4 (path.length * 2 ^ 24 + bonus % 2 ^ 24) ++ toBytes 4 0
    ++ path.flatMap (toBytes 1 ·) ++ List.replicate (64 - path.length) 0xFF ++ List.replicate 16 0

/-- VERIFY (R335). -/
def execVerify (c : SluCmd) (s : State) : Out :=
  runUnit s c.res do
    need (sluSound c true && c.nrow == 0 && c.aux.toNat % 64 == 0 && (c.topk != 0 || toppOk c.topp))
    let d ← readDesc c 0
    let w ← unitRead c.aux 272
    let prune := ofBytes (w.take 8)
    let tmpl := ofBytes ((w.drop 8).take 1)
    let base := ofBytes ((w.drop 12).take 4)
    let s ← get
    match s.template (boxDie s.cur.box) (s.box s.cur.box).rcb tmpl with
    | none => throw .bad
    | some nodes =>
      need (prune % 2 == 1)
      let (st, bonus, path) ← verifyWalk c d nodes (keptNodes prune 0 nodes 0) (rowWords (w.drop 16) 64) 64 0
        (BitVec.ofNat 32 (base + 1)) []
      unitWrite (c.res + 8) (verdict tmpl base bonus path)
      return st

/-! ## The compaction engine (R337) -/

/-- One copy of COMPACT checked: the siding page's HOME, and neither range beyond its page; the cache page is the one that
the block table names, and the range begins `off` bytes beyond its entry. -/
def compactCheck (src : Word) (page off tb : Nat) : UnitM Unit := do
  need (src.toNat % 65536 + tb ≤ 65536 && page % 65536 + off + tb ≤ 65536)
  let (_, l) ← unitReadLeaf src tb
  need (lfHome l == 1 || lfHome l == 2)

/-- COMPACT (R337). -/
def execCompact (c : CmeCmd) (s : State) : Out :=
  runUnit s c.res do
    let nlay := c.nlay.toNat
    let tb := c.tb.toNat
    let tpp := c.tpp.toNat
    need (c.z1 == 0 && c.z2 == 0 && 1 ≤ nlay && nlay ≤ 256 && tb % 16 == 0 && 16 ≤ tb && tb ≤ 65536 && 1 ≤ tpp && tpp ≤ 65536
      && c.res.toNat % 8 == 0)
    let v ← unitRead c.verd 128
    let done := ofBytes (v.take 8)
    let nacc := ofBytes ((v.drop 0x10).take 1)
    let base := ofBytes ((v.drop 0x14).take 4)
    need (done / 2 ^ 63 == 1 && done / 2 ^ 56 % 128 ≤ 1 && nacc ≤ 63)
    let copies ← (rangeFrom 1 nacc).mapM fun d => do
      let p := base + d
      let page ← unitNat (c.blkt + BitVec.ofNat 64 (8 * (p / tpp))) 8
      let node := ofBytes ((v.drop (0x30 + (d - 1))).take 1)
      return (rangeFrom 0 nlay).map fun (l : Nat) =>
        (c.siding + BitVec.ofNat 64 (node * c.nstr.toNat + l * c.lstrs.toNat),
         page, p % tpp * tb + l * c.lstrc.toNat)
    copies.flatten.forM fun k => compactCheck k.1 k.2.1 k.2.2 tb
    copies.flatten.forM fun k => do
      let b ← unitRead k.1 tb
      unitWrite (BitVec.ofNat 64 (k.2.1 + k.2.2)) b
    return 0

/-! ## The backfill engine (R338, R339) -/

/-- The granules of a range of a tile window, by location; BADCMD where a byte lies elsewhere (R338). -/
def windowRange (va : Word) (n : Nat) : UnitM (List Nat) := do
  if n = 0 then return []
  else
    let s ← get
    match s.reach s.unitAsid va.toNat n false with
    | (.ok locs _, s) =>
      set s
      need (locs.all fun l => match placeOf l with | .window _ _ => true | _ => false)
      if s.held locs then throw .wait else return locs
    | (_, s) => set s; throw .bad

/-- Field of an entry of a backfill list. -/
def entFld (raw : BitVec 256) (o n : Nat) : Nat := nbits raw.toNat (8 * o) (8 * n)

/-- The ranges that an entry hollows, layer by layer, as locations; BADCMD where the entry is unsound (R338). -/
def entryRanges (raw : BitVec 256) : UnitM (List (List Nat)) := do
  let lf := entFld raw 8 2
  let ll := entFld raw 10 2
  let glen := entFld raw 12 4
  let gva := entFld raw 16 8
  let gstr := entFld raw 24 4
  need (lf ≤ ll && glen % 16 == 0 && gva % 16 == 0 && gstr % 16 == 0 && entFld raw 28 4 == 0)
  (rangeFrom 0 (ll - lf + 1)).mapM fun (l : Nat) => windowRange (BitVec.ofNat 64 (gva + l * gstr)) glen

/-- BACKFILL (R338). -/
def execBackfill (c : BfeCmd) (s : State) : Out :=
  runUnit s c.res do
    let n := c.nent.toNat
    let s ← get
    let b := c.box.toNat
    need (c.z1 == 0 && c.z2 == 0 && c.z3 == 0 && c.z4 == 0 && 1 ≤ n && n ≤ 256 && c.list.toNat % 8 == 0 && c.res.toNat % 8 == 0)
    need ((s.box b).state != .free && (s.box b).asid == (s.box s.cur.box).asid
      && (s.block c.lbh).any fun k => k.asid == (s.box b).asid)
    let raws ← (rangeFrom 0 n).mapM fun k => BitVec.ofNat 256 <$> unitNat (c.list + BitVec.ofNat 64 (32 * k)) 32
    let ranges ← raws.mapM entryRanges
    let s ← get
    if 4096 < (s.die s.cur.at_).backfill.length + n then throw .full
    else
      let es := raws.map fun r => (⟨s.cur.box, s.cur.rank, b, c.lbh, r, false⟩ : BackEntry)
      set ((s.fillLocs false ranges.flatten.flatten).updDie s.cur.at_ fun d => { d with backfill := d.backfill ++ es })
      return 0

/-- The arguments of an entry's launch (R339). -/
def BackEntry.args (e : BackEntry) : List Word :=
  [entFld e.raw 0 4, entFld e.raw 4 4, entFld e.raw 8 2, entFld e.raw 10 2, entFld e.raw 16 8, entFld e.raw 24 4,
   entFld e.raw 12 4, e.source].map (BitVec.ofNat 64 ·)

/-- The last entry of a source context done: BACKFILL is set in its box (R290, R339). -/
def State.backfillDone (s : State) (die source : Nat) : State :=
  if (s.die die).backfill.any (·.source == source) || (s.box source).state == .free then s else s.setEvent source 18

/-- The first entry that `p` holds of taken from a list of entries. -/
def dropEntry (p : BackEntry → Bool) : List BackEntry → List BackEntry
  | [] => []
  | e :: l => if p e then l else e :: dropEntry p l

/-- BACKFILL_DISPATCH (R339), on the die that `cur` names: the first queued entry becomes a launch, while fewer than 16 are
in flight. It waits while its box's launch queue is full; one that its box cannot take is done with nothing run. -/
def execBackfillDispatch (s : State) : Out :=
  let die := s.cur.at_
  let q := (s.die die).backfill
  match q.find? (!·.running) with
  | none => event s
  | some e =>
    let x := s.box e.box
    if 16 ≤ (q.filter (·.running)).length || (x.state != .free && 64 ≤ x.queue.length) then event s
    else
      let here := fun (f : BackEntry) => f == e
      match (s.block e.lbh).filter fun k => x.state != .free && k.asid == x.asid && s.admits e.box k with
      | none => event ((s.updDie die fun d => { d with backfill := dropEntry here d.backfill }).backfillDone die e.source)
      | some _ =>
        let (n, s) := s.draw
        let l : Launch :=
          { die := die, queue := none, tag := 0, flags := 0, compl := 0, lbh := e.lbh, start := 0, image := 0, edge := 0
            held := false, waits := [], timed := true, args := some e.args, source := some e.source, any := [], step := false
            raw := BitVec.ofNat 512 n, qasid := 0 }
        let s := s.updDie die fun d =>
          { d with backfill := dropEntry here d.backfill |> fun r =>
              (r.filter (·.running)) ++ { e with running := true } :: r.filter (!·.running) }
        event (s.queueLaunch e.box l)

end Sys2Proof.Machine
end

