-- ==== Sys2Proof/Machine/Front.lean ====
section
/-!
DEFINITION. The queue threads of the front end: what a packet's thread makes of it, completion words and notifications (R364,
R365, R368, R386), WAIT (R367), the ends of launches (R288), LAUNCH (R369, R317), CANCEL (R366), edges (R245, R369) and
stealing (R370). A packet runs on the die and queue that `cur` names.
-/
namespace Sys2Proof.Machine

/-! ## Queues -/

/-- Mapped queue `q` of a die. -/
def State.mq (s : State) (die q : Nat) : MQueue := vget ⟨0, 0, 0, 0, 0, 0, 0, none, [], []⟩ (s.die die).queues q

/-- Mapped queue `q` of a die changed. -/
def State.updMq (s : State) (die q : Nat) (f : MQueue → MQueue) : State :=
  s.updDie die fun d => { d with queues := vupd d.queues q f }

/-- The queue whose packet is at issue. -/
def State.myQueue (s : State) : MQueue := s.mq s.cur.at_ s.cur.sub

/-- The thread of a queue goes on to the next packet. -/
def State.freeThread (s : State) (die q : Nat) : State := s.updMq die q fun m => { m with busy := none }

/-- What a packet's thread makes of it: a completion with its STATUS and RESULT, TAG where none is given; a refusal with
OWNER; a wait; or a launch that is queued (R364, R365). -/
inductive PRes where
  | done (s : State) (st : Nat) (result : Option Nat)
  | owner (s : State)
  | wait (s : State)
  | queued (s : State)

/-- A RAS record whose DETAIL no rule names: a free value. -/
def State.rasFree (s : State) (die : Nat) (code : BitVec 8) (box : Nat) : State :=
  let (n, s) := s.draw
  s.ras die code box unitFront n

/-- Pages whose promotion the RSE of a die is asked for. -/
def State.wantPages (s : State) (die asid : Nat) (ps : List Nat) : State :=
  ps.foldl (fun s p => s.wantPage die asid (BitVec.ofNat 64 p)) s

/-! ## Completions (R365, R368) -/

/-- A completion word (R365). -/
def complWord (st res : Nat) : Word := BitVec.ofNat 64 (2 ^ 63 + st % 256 * 2 ^ 48 + res % 2 ^ 32)

/-- The notification of a completion: posted at once, or after those that wait before it; one of another command than a
LAUNCH holds the thread meanwhile (R386). -/
def State.notify (s : State) (die : Nat) (d : Deferred) : State :=
  let hold := d.holds && !d.launch
  let ring := (d.box.map boxDie).getD die
  let n : Notif := ⟨1, die, d.queue, hold, BitVec.ofNat 16 (d.box.getD 0), 0, d.word⟩
  match (if (s.die ring).notifs.isEmpty then s.putNotif ring n else none) with
  | some s => if d.holds then s.freeThread die d.queue else s
  | none =>
    let s := s.updDie ring fun x => { x with notifs := x.notifs ++ [n] }
    if hold then s.updMq die d.queue fun m => { m with busy := m.busy.map fun b => { b with completing := true } }
    else if d.holds then s.freeThread die d.queue
    else s

/-- A command counts as complete: a LAUNCH's TAG with its STATUS, the notification, and the thread free (R367, R368). -/
def State.counted (s : State) (die : Nat) (d : Deferred) : State :=
  let tag : BitVec 32 := bits d.word 0 32
  let s := if d.launch then
      s.updMq die d.queue fun m =>
        { m with
          openTags := m.openTags.filter (· != tag)
          doneTags := (tag, bits d.word 48 8) :: m.doneTags.filter (·.1 != tag) }
    else s
  if d.notify then s.notify die d else if d.holds then s.freeThread die d.queue else s

/-- A completion word that waits for its page. -/
def State.defer (s : State) (die : Nat) (d : Deferred) : State :=
  let s := s.updDie die fun x => { x with deferred := x.deferred ++ [d] }
  if d.holds then s.updMq die d.queue fun m => { m with busy := m.busy.map fun b => { b with completing := true } } else s

/-- A completion word written in QASID with the checks of ST; one that cannot be written is lost (R368). A negative reply to
its write is logged, and the command counts as complete (R219). -/
def State.writeCompl (s : State) (die : Nat) (d : Deferred) : State :=
  let asid := (s.mq die d.queue).asid.toNat
  let lost := fun (s : State) => (s.ras die 0xE4 (d.box.getD 0xFFFF) unitFront d.compl.toNat).counted die d
  if d.compl = 0 then s.counted die d
  else if d.compl.toNat % 8 != 0 then lost s
  else match s.reach asid d.compl.toNat 8 true with
    | (.cause _ _, s) => lost s
    | (.absent ps, s) => (s.wantPages die asid ps).defer die d
    | (.ok _ _, s) =>
      if s.writeWaits asid d.compl.toNat 8 then s.defer die d
      else match s.writeFrom die asid d.compl (toBytes 8 d.word.toNat) with
        | some s => s.counted die d
        | none => (s.logReply die (d.box.getD 0xFFFF) unitFront asid d.compl.toNat 8 true).counted die d

/-- The completion of the packet at issue: with FAB after a release at FABRIC (R365, R387). -/
def State.complete (s : State) (p : Packet) (launch named : Bool) (st : Nat) (res : Option Nat) : State :=
  let s := if p.flags.getLsbD 1 then s.releaseFabric fun _ _ => false else s
  s.writeCompl s.cur.at_
    { queue := s.cur.sub, holds := true, launch := launch, compl := p.compl
      word := complWord st (res.getD p.tag.toNat), notify := p.flags.getLsbD 0
      box := if named then some p.box.toNat else none }

/-- The step of a packet (R364, R365); a COMPL that is not aligned makes it BADPKT. -/
def runPacket (s : State) (p : Packet) (launch named : Bool) (r : PRes) : Out :=
  if p.compl.toNat % 8 != 0 then event (s.complete p launch named 1 none)
  else match r with
    | .done s st res => event (s.complete p launch named st res)
    | .owner s =>
      event ((s.rasFree s.cur.at_ 0xE1 (if named then p.box.toNat else 0xFFFF)).complete p launch named 2 none)
    | .wait s => event s
    | .queued s => event (s.freeThread s.cur.at_ s.cur.sub)

/-- COMPLETION_WORD_WRITE (R368), on the die that `cur` names: one of the completion words that wait for their page. -/
def execCompletionWordWrite (s : State) : Out :=
  let die := s.cur.at_
  let l := (s.die die).deferred
  let (n, s) := s.draw
  match l[n % l.length]? with
  | none => event s
  | some d => event ((s.updDie die fun x => { x with deferred := l.eraseIdx (n % l.length) }).writeCompl die d)

/-- NOTIFICATION_POST (R386), on the die that `cur` names: the oldest notification that waits for its ring. -/
def execNotificationPost (s : State) : Out :=
  let die := s.cur.at_
  match (s.die die).notifs with
  | [] => event s
  | n :: r =>
    match s.putNotif die n with
    | none => event s
    | some s =>
      let s := s.updDie die fun x => { x with notifs := r }
      event (if n.holds then s.freeThread n.qdie n.queue else s)

/-! ## Checks and operands -/

/-- An operand of a packet: `n` bytes at offset 0x10 + `o` (R366). -/
def operand (p : Packet) (o n : Nat) : Nat := nbits p.ops.toNat (8 * o) (8 * n)

/-- The order of checks of R365 on a box. -/
def onBox (s : State) (b : Nat) (r : PRes) : PRes :=
  let x := s.box b
  if x.state == .free then .done s 4 none
  else if boxDie b != s.cur.at_ then .done s 4 none
  else if !s.under s.cur.at_ x.rcb s.myQueue.own then .owner s
  else r

/-- A read by the front end: its bytes; a page that is on its way; or a check of LD that fails, among them an error that
the memory reports. -/
inductive FrontRead where
  | ok (b : List Byte) (s : State)
  | wait (s : State)
  | bad (s : State)

/-- `n` bytes read by the front end of the die at issue. -/
def State.frontRead (s : State) (asid : Nat) (va : Word) (n : Nat) : FrontRead :=
  match s.reach asid va.toNat n false with
  | (.cause _ _, s) => .bad s
  | (.absent ps, s) => .wait (s.wantPages s.cur.at_ asid ps)
  | (.ok locs _, s) =>
    if s.held locs then .wait s
    else if (s.badReply asid va.toNat n false).isSome then
      .bad (s.logReply s.cur.at_ 0xFFFF unitFront asid va.toNat n false)
    else .ok (s.getBytes locs) (s.didRead s.cur.at_ 0xFFFF unitFront asid va.toNat n)

/-- A packet that goes on with bytes it reads; RANGE where they cannot be read. -/
def reads (s : State) (asid : Nat) (va : Word) (n : Nat) (k : List Byte → State → PRes) : PRes :=
  match s.frontRead asid va n with
  | .ok b s' => k b s'
  | .wait s' => .wait s'
  | .bad s' => .done s' 3 none

/-- A packet that goes on with bytes it has written; RANGE where they cannot be. -/
def writes (s : State) (asid : Nat) (va : Word) (b : List Byte) (k : State → PRes) : PRes :=
  match s.reach asid va.toNat b.length true with
  | (.cause _ _, s') => .done s' 3 none
  | (.absent ps, s') => .wait (s'.wantPages s'.cur.at_ asid ps)
  | (.ok _ _, s') =>
    if s'.writeWaits asid va.toNat b.length then .wait s'
    else match s'.writeFrom s'.cur.at_ asid va b with
      | some z => k z
      | none => .done (s'.logReply s'.cur.at_ 0xFFFF unitFront asid va.toNat b.length true) 3 none

/-! ## WAIT (R367) -/

/-- Whether a LAUNCH of a queue with this TAG has completed. -/
def MQueue.doneWith (m : MQueue) (tag : Nat) : Option (BitVec 8) :=
  if m.openTags.any (·.toNat == tag) then none else (m.doneTags.find? (·.1.toNat == tag)).map (·.2)

/-- The condition of a WAIT, none where its word cannot be read at all. -/
def State.waitCond (s : State) (p : Packet) : Option Bool × State :=
  let v := operand p 8 8
  let m := operand p 16 8
  match operand p 24 1 with
  | 3 => (some (s.myQueue.doneWith v).isSome, s)
  | 4 => (some (decide (v ≤ s.timeb)), s)
  | op =>
    match s.frontRead s.myQueue.asid.toNat (BitVec.ofNat 64 (operand p 0 8)) 8 with
    | .bad s => (none, s)
    | .wait s => (some false, s)
    | .ok b s =>
      let w := BitVec.ofNat 64 (ofBytes b) &&& BitVec.ofNat 64 m
      (some (match op with | 0 => w.toNat == v | 1 => w.toNat != v | _ => decide (v ≤ w.toNat)), s)

/-- What the thread makes of a WAIT. -/
def waitRes (s : State) (p : Packet) : PRes :=
  let op := operand p 24 1
  let t := operand p 32 8
  if 5 ≤ op || (op < 3 && operand p 0 8 % 8 != 0) then .done s 1 none
  else match s.waitCond p with
    | (none, s) => .done s 3 none
    | (some true, s) => .done s 0 none
    | (some false, s) =>
      if t != 0 && decide (((s.myQueue.busy.map (·.since)).getD s.timeb) + t ≤ s.timeb) then .done s 5 none else .wait s

/-- WAIT (R367). -/
def execWait (p : Packet) (s : State) : Out := runPacket s p false false (waitRes s p)

/-- The WAIT that a queue's thread is blocked in tested again. -/
def State.retest (s : State) (die q : Nat) : Out :=
  match (s.mq die q).busy with
  | some ⟨.wait p, _, false⟩ => execWait p { s with cur := { s.cur with at_ := die, sub := q } }
  | _ => event s

/-- WAIT_SATISFIED (R367). -/
def execWaitSatisfied (die : Nat) (q : Nat) (s : State) : Out := s.retest die q

/-- WAIT_TIMEOUT (R367). -/
def execWaitTimeout (die : Nat) (q : Nat) (s : State) : Out := s.retest die q

/-! ## The ends of launches (R288, R339, R368) -/

/-- Every store of an ASID's contexts performed: the release before a completion word (R242, R368). -/
def State.releaseAsid (s : State) (asid : BitVec 16) : State :=
  s.performEvery fun p => (s.box p.box).asid == asid

/-- A launch of box `b` reported complete with a STATUS: the release, with FAB at FABRIC, its completion word, or its backfill
entry done. -/
def State.finishLaunch (s : State) (b : Nat) (l : Launch) (st : Nat) : State :=
  let asid := (s.box b).asid
  let s := s.releaseAsid asid
  let s := if l.flags.getLsbD 1 then s.releaseFabric fun c _ => (s.box c).asid == asid else s
  match l.source with
  | some src =>
    let mine := fun (e : BackEntry) =>
      e.running && e.source == src && e.box == b && l.args == some (BackEntry.args e)
    (s.updDie l.die fun d => { d with backfill := dropEntry mine d.backfill }).backfillDone l.die src
  | none =>
    match l.queue with
    | none => s
    | some q =>
      s.writeCompl l.die
        { queue := q, holds := false, launch := true, compl := l.compl, word := complWord st l.tag.toNat
          notify := l.flags.getLsbD 0, box := some b }

/-! ## Launch queues (R369) -/

/-- The launches of a box that have not started (R366): its queue, and a launch from an image that has not run. -/
def Box.unstarted (x : Box) : List Launch := (if x.everRan then [] else x.current.toList) ++ x.queue

/-- The slots of a box's launch queue written anew, from HEAD. -/
def State.putSlots (s : State) (b : Nat) : Nat → List Launch → State
  | _, [] => s
  | k, l :: r =>
    (s.put0 (boxDie b) ((s.box b).lqhead + BitVec.ofNat 64 (16 + 64 * (k % 64))) (toBytes 64 l.raw.toNat)).putSlots b (k + 1) r

/-- A box with no launch and no point to resume at is PARKED, reason IDLE (R287, R366). -/
def Box.idle (x : Box) : Box :=
  if x.state == .ready && x.queue.isEmpty && !x.resume then { x with state := .parked, reason := 0x0B, watch := 0 } else x

/-- What stays of a rank that has no launch in progress: its counters and pending causes (R272, R352). -/
def Ctx.unlaunched (c : Ctx) : Ctx :=
  { Ctx.reset with oc := c.oc, trap := { TrapRegs.reset with tpend := c.trap.tpend }, done := true }

/-- A box whose launch from an image is taken back before it ran: PARKED, reason IDLE (R287, R366). -/
def Box.unloaded (x : Box) : Box :=
  { x with
    state := .parked, reason := 0x0B, watch := 0, dl := false
    current := none, resume := false, img := false, saved := x.saved.map Ctx.unlaunched, tiles := [], rewind := none }

/-- A launch that has not started removed from its box. -/
def State.unqueue (s : State) (b : Nat) (l : Launch) : State :=
  let x := s.box b
  if !x.everRan && x.current == some l then s.updBox b Box.unloaded
  else
    let s := s.updBox b fun x => { x with queue := x.queue.erase l }
    let y := s.box b
    ((s.putSlots b (y.lqtail.toNat + 2 ^ 32 - y.queue.length) y.queue).updBox b Box.idle).syncQueue b

/-- A launch that has not started completed with a STATUS. -/
def State.dropLaunch (s : State) (b : Nat) (l : Launch) (st : Nat) : State := (s.unqueue b l).finishLaunch b l st

/-- LAUNCH_COMPLETE (R288): the oldest ended launch of a box whose ranks have no operation outstanding; first the launch
that could not start for want of a key completes with KEY (R378). -/
def execLaunchComplete (box : Nat) (s : State) : Out :=
  let x := s.box box
  match (if x.keyless && !x.resume then x.queue.head? else none), x.ending with
  | some l, _ => event ((s.updBox box fun y => { y with keyless := false }).dropLaunch box l 8)
  | none, [] => event s
  | none, (l, n) :: r =>
    let quiet := (rangeFrom 0 n).all fun k =>
      let c := (s.rankCtx box k).oc
      c.ocl == 0 && c.ocs == 0 && c.occ == 0
    event (if quiet then (s.updBox box fun x => { x with ending := r }).finishLaunch box l 0 else s)

/-- CANCEL (R366). -/
def execCancel (p : Packet) (s : State) : Out :=
  let mine := fun (l : Launch) => l.die == s.cur.at_ && l.queue == some s.cur.sub && l.tag.toNat == operand p 0 4
  runPacket s p false false
    (match s.boxes.findSome? fun q => (q.2.unstarted.find? mine).map fun l => (q.1, l) with
      | none => .done s 4 none
      | some (b, l) => .done (s.dropLaunch b l 7) 0 none)

/-! ## Edges (R245, R369) -/

/-- The producers of a chain of edge records: RANGE where a record or its region list breaks its layout, or the chain
holds more than `n` records; OWNER where a producer's queue lies outside QOWN's subtree (R365). A record that is not
resident is waited for. -/
def State.edges (s : State) (asid : Nat) : Nat → Word → (State → List (Nat × Nat × BitVec 32 × Nat) → PRes) → PRes
  | n, va, k =>
    if va = 0 then k s []
    else match n with
      | 0 => .done s 3 none
      | n + 1 =>
        reads s asid va 32 fun b s =>
          let die := getN b 0 1
          let q := getN b 1 1
          let sc := getN b 2 1
          let own := (s.mq die q).own
          if 4 ≤ die || 32 ≤ q || sc < 2 || 4 < sc || getN b 3 1 != 0 || getN b 24 8 != 0 then .done s 3 none
          else if own != s.myQueue.own && !s.under die own s.myQueue.own then .owner s
          else
            let list := BitVec.ofNat 64 (getN b 8 8)
            reads s asid list 8 fun h s =>
              let head := ofBytes h
              reads s asid list (8 + 16 * (head % 16 + 1)) fun body s =>
                if !listOk head (body.drop 8) then .done s 3 none
                else s.edges asid n (BitVec.ofNat 64 (getN b 16 8)) fun s l =>
                  k s ((die, q, BitVec.ofNat 32 (getN b 4 4), sc) :: l)

/-- What the producers of a launch have come to: none while one is awaited, else whether all of them completed OK; one
that completed negatively decides at once. -/
def State.producers (s : State) (l : Launch) : Option Bool :=
  let rs := l.waits.map fun w => (s.mq w.1 w.2.1).doneWith w.2.2.1.toNat
  if rs.any fun r => r.any (· != 0) then some false
  else if rs.all (·.isSome) then some true
  else none

/-- EDGE_RELEASE (R245, R369): the first held launch of the box whose producers decide it: with OK from each it is released,
after every store of the producers' ASIDs is performed, and for an edge of scope FABRIC released there; else it completes with
DEPFAIL. -/
def execEdgeRelease (box : Nat) (s : State) : Out :=
  match (s.box box).unstarted.find? fun l => l.held && (s.producers l).isSome with
  | none => event s
  | some l =>
    if s.producers l == some false then event (s.dropLaunch box l 6)
    else
      let free := fun (m : Launch) => if m = l then { m with held := false } else m
      let s := s.performEvery fun _ => true
      let s := if l.waits.any (·.2.2.2 == 4) then s.releaseFabric fun _ _ => false else s
      event ((s.updBox box fun x =>
        { x with queue := x.queue.map free, current := if x.everRan then x.current else x.current.map free }).syncQueue box)

/-! ## LAUNCH (R317, R366, R369, R370) -/

/-- The boxes that BOXSET names. -/
def boxSet (p : Packet) : List Nat := (rangeFrom 0 4).map fun i => operand p (32 + 2 * i) 2

/-- Whether the boxes of BOXSET are one on each die and share one ASID and one RCB (R370). -/
def State.setOk (s : State) (l : List Nat) : Bool :=
  ((rangeFrom 0 4).zip l).all fun q =>
    boxDie q.2 == q.1 && (s.box q.2).asid == (s.box (l.headD 0)).asid
      && (s.box q.2).rcb == (s.box (l.headD 0)).rcb

/-- Whether D1 lets box `b` run a LAUNCH with STEP (R376). -/
def State.stepOk (s : State) (b : Nat) : Bool :=
  match s.debug with
  | .d1 rcb _ => s.under (boxDie b) (s.box b).rcb rcb
  | _ => false

/-- The launch that a LAUNCH packet describes. -/
def launchOf (s : State) (p : Packet) (waits : List (Nat × Nat × BitVec 32 × Nat)) : Launch :=
  let start := operand p 8 8
  { die := s.cur.at_, queue := some s.cur.sub, tag := p.tag, flags := p.flags, compl := p.compl
    lbh := BitVec.ofNat 32 (operand p 0 4), start := BitVec.ofNat 64 start, image := BitVec.ofNat 64 (operand p 16 8)
    edge := BitVec.ofNat 64 (operand p 24 8), held := !waits.isEmpty, waits := waits, timed := decide (start ≤ s.timeb)
    args := none, source := none, any := if p.flags.getLsbD 2 then boxSet p else [], step := p.flags.getLsbD 3
    raw := pkPacket 1 p, qasid := s.myQueue.asid }

/-- An image's chain bound to an engine of the die, chosen freely (R317). -/
def State.rebind (s : State) (c : Chain) : Chain × State :=
  if !c.v then (Chain.reset, s)
  else
    let (n, s) := s.draw
    ({ c with eng := BitVec.ofNat 6 n }, s)

/-- The ranks that published `n` unfetched commands, by a free choice among the ranks whose copy counters still hold
commands; and what those counters hold beyond them (R261, R317; notes/assumptions/41.md). -/
def State.drawPubs (s : State) : Nat → List Nat → List Nat × List Nat × State
  | 0, left => ([], left, s)
  | n + 1, left =>
    let (k, s) := s.draw
    let open_ := (rangeFrom 0 left.length).filter fun r => 0 < left.getD r 0
    let r := open_.getD (k % open_.length) 0
    let (rs, left, s) := s.drawPubs n (updAt (· - 1) left r)
    (r :: rs, left, s)

/-- The chains of an image bound, in order, with the publishers of their unfetched commands. -/
def State.rebindAll (s : State) (left : List Nat) : List Chain → List Chain × State
  | [] => ([], s)
  | c :: r =>
    let (d, s) := s.rebind c
    let (pubs, left, s) := s.drawPubs (if d.v then d.waiting else 0) left
    let (ds, s) := s.rebindAll left r
    ({ d with pubs := pubs } :: ds, s)

/-- A pair of the box with the sequence numbers and held messages of the image (R317). -/
def Pair.load (p q : Pair) : Pair := if q.v then { p with sseq := q.sseq, rseq := q.rseq, held := q.held } else p

/-- Whether an image holds no launch in progress: its context was parked IDLE, or C has ended its part on every rank, as
where the context was READY with queued launches alone (R317; notes/assumptions/14.md). -/
def Image.unlaunched (img : Image) : Bool := getN img.box 2 1 == 0x0B || img.ranks.all (·.ctx.done)

/-- An image loaded into box `b` (R317): chains, pairs, outstanding records posted again, and the fields of its BOX section;
the context becomes PARKED on EVENT or IDLE, else READY. Its ranks are restored when it starts. -/
def State.loadImage (s : State) (b : Nat) (l : Launch) (k : BlockReg) (img : Image) : State :=
  let fld := getN img.box
  let reason := fld 2 1
  let (cs, s) := s.rebindAll (img.ranks.map fun r => r.ctx.oc.occ.toNat) img.chains
  let s := s.updBox b fun x =>
    { x with
      chains := Vector.ofFn fun i => (cs[i.val]?).getD Chain.reset
      pairs := Vector.ofFn fun i => (vget Pair.reset x.pairs i.val).load ((img.pairs[i.val]?).getD Pair.reset)
      psel := BitVec.ofNat 10 (fld 0x0E 2), pwake := BitVec.ofNat 64 (fld 0x18 8)
      evpend := BitVec.ofNat 32 (fld 0x30 4), evmask := BitVec.ofNat 32 (fld 0x34 4)
      saved := img.ranks.map (·.ctx) }
  let s := img.faults.foldl (fun s r => s.fault b r.kind r.unit r.eng r.chain r.page r.cmd) s
  if img.unlaunched then
    s.updBox b fun x => { x with state := .parked, reason := 0x0B, watch := 0, saved := x.saved.map Ctx.unlaunched }
  else
    let watch := BitVec.ofNat 64 (fld 0x38 8)
    let s := s.updBox b fun x =>
      { x with
        current := some l, resume := true, img := true, live := false, sects := blockSects k
        tiles := List.replicate k.team 0
        rewind := if reason = 1 then some (bits watch 60 4).toNat else none }
    if reason = 0x0A then
      let dl := fld 3 1 / 4 % 2 = 1
      s.updBox b fun x =>
        { x with state := .parked, reason := 0x0A, watch := watch, dl := dl, deadline := if dl then x.pwake else x.deadline }
    else s.makeReady b

/-- The refusal of a restore by the front end, reported (R314, R345). -/
def refused (s : State) (b st : Nat) : PRes := .done (s.ras (boxDie b) 0xE0 b unitFront st) (0x10 + st) none

/-- Whether every pair that an image holds is bound in a box already (R317). -/
def pairsBound (x : Box) (img : Image) : Bool :=
  (indexed x.pairs).all fun q => q.2.v || !((img.pairs[q.1]?).map (·.v)).getD false

/-- Whether a box is one created for a launch from an image: it has never run and has nothing queued (R317). -/
def Box.fresh (x : Box) : Bool := !x.everRan && x.queue.isEmpty && !x.resume && x.reason == 0x0B

/-- A LAUNCH that names an image (R317). -/
def imageLaunch (s : State) (b : Nat) (l : Launch) (k : BlockReg) : PRes :=
  let x := s.box b
  if s.security == .w then .done s 8 none
  else if !x.fresh then .done s 4 none
  else
    let asid := l.qasid.toNat
    match s.frontRead asid l.image 4096 with
    | .wait s => .wait s
    | .bad s => refused s b 1
    | .ok head s =>
      let n := getN head 0x18 8
      match (if 4096 < n && n ≤ x.imgsize.toNat * 4096 then s.frontRead asid l.image n else .ok [] s) with
      | .wait s => .wait s
      | .bad s => refused s b 1
      | .ok _ s =>
        match s.openImage b k.team asid l.image with
        | .error st => refused s b st
        | .ok img =>
          if !pairsBound x img then refused s b 3
          else
            let s := s.loadImage b l k img
            if (s.box b).resume then .queued s else .done s 0 none

/-- What the thread makes of a LAUNCH. -/
def launchRes (s : State) (p : Packet) : PRes :=
  let any := p.flags.getLsbD 2
  let set := boxSet p
  let b := if any then (set[s.cur.at_]?).getD 0 else p.box.toNat
  if any && !s.myQueue.ctl.getLsbD 1 then .done s 1 none
  else onBox s b
    (if any && set.any fun a => (s.box a).state == .free then .done s 4 none
     else if any && !s.setOk set then .done s 3 none
     else if p.flags.getLsbD 3 && (!s.stepOk b || operand p 16 8 == 0) then .done s 4 none
     else match (s.block (BitVec.ofNat 32 (operand p 0 4))).filter fun k => k.asid == (s.box b).asid && s.admits b k with
       | none => .done s 3 none
       | some k =>
         s.edges s.myQueue.asid.toNat 8 (BitVec.ofNat 64 (operand p 24 8)) fun s waits =>
           let l := launchOf s p waits
           if l.image != 0 then imageLaunch s b l k else .queued (s.queueLaunch b l))

/-- LAUNCH (R369). -/
def execLaunch (p : Packet) (s : State) : Out := runPacket s p true (!p.flags.getLsbD 2) (launchRes s p)

/-! ## Stealing (R370) -/

/-- A launch queued on box `a`; one from an image, whose restore `imageLaunch` of the packet would take, loaded into it. None
where the box cannot take it (R317, R370). -/
def State.takeLaunch (s : State) (a : Nat) (l : Launch) (k : BlockReg) : Option State :=
  if (s.box a).state == .free || !s.admits a k then none
  else if l.image = 0 then some (s.queueLaunch a l)
  else if s.security == .w || !(s.box a).fresh then none
  else match s.openImage a k.team l.qasid.toNat l.image with
    | .error _ => none
    | .ok img =>
      if !pairsBound (s.box a) img then none
      else
        let s := s.loadImage a l k img
        some (if (s.box a).resume then s else s.finishLaunch a l 0)

/-- An unstarted ANY launch of die `d` handed over to die `u`, whose free tiles its team fits: it leaves its box, and the
box of BOXSET there takes it (R370). -/
def State.steal (s : State) (u d : Nat) : Option State :=
  s.boxes.findSome? fun q =>
    if boxDie q.1 != d then none
    else q.2.unstarted.findSome? fun (l : Launch) =>
      match l.any[u]?, s.block l.lbh with
      | some a, some k =>
        if k.team ≤ (s.freeTiles u).length then (s.unqueue q.1 l).takeLaunch a l k else none
      | _, _ => none

/-- STEAL_OFFER (R370), on the die that `cur` names: free and with an empty run list for 20 µs, it offers its tiles around
the ring, and the first die with an ANY launch that fits hands it over. -/
def execStealOffer (s : State) : Out :=
  let u := s.cur.at_
  let long := (s.die u).idleSince.any fun t => decide (t + 20000 ≤ s.timeb)
  if !long || !(s.runList u).isEmpty || (s.freeTiles u).isEmpty then event s
  else event (([(u + 1) % 4, (u + 2) % 4, (u + 3) % 4].findSome? (s.steal u)).getD s)

end Sys2Proof.Machine
end

