-- ==== Sys2Proof/Machine/Boxes.lean ====
section
/-!
DEFINITION. The commands on boxes: CREATE (R283, R366), DESTROY (R399), SWAP (R287), HALT (R316), SIGNAL (R290) and WAKEHINT;
and the save that a pre-emption makes (R27, R28), after which a D1 step halts (R376).
-/
namespace Sys2Proof.Machine

/-! ## SIGNAL and WAKEHINT -/

/-- SIGNAL (R290). -/
def execSignal (p : Packet) (s : State) : Out :=
  runPacket s p false true (onBox s p.box.toNat (.done (s.setEvent p.box.toNat 0) 0 none))

/-- WAKEHINT (R366). -/
def execWakehint (p : Packet) (s : State) : Out :=
  runPacket s p false true
    (onBox s p.box.toNat (.done (s.updBox p.box.toNat fun x => { x with pwake := BitVec.ofNat 64 (operand p 0 8) }) 0 none))

/-! ## CREATE (R366) -/

/-- The fields of a box that CREATE gives it (R283). -/
def createBox (p : Packet) : Box :=
  let lease := operand p 28 4
  { Box.reset with
    state := .parked, reason := 0x0B
    rcb := BitVec.ofNat 64 (operand p 0 8), image := BitVec.ofNat 64 (operand p 8 8), lqhead := BitVec.ofNat 64 (operand p 16 8)
    asid := BitVec.ofNat 16 (operand p 24 2), imgsize := BitVec.ofNat 16 (operand p 26 2)
    lbase := BitVec.ofNat 10 (lease % 2 ^ 10), lsize := BitVec.ofNat 11 (lease / 2 ^ 10 % 2 ^ 11)
    lsave := BitVec.ofNat 11 (lease / 2 ^ 21) }

/-- Whether the fields of a new box keep R283 and R178. -/
def Box.fieldsOk (x : Box) : Bool :=
  x.asid != 0 && x.imgsize != 0 && x.image.toNat % 4096 == 0 && x.lsize != 0
    && decide (x.lbase.toNat + x.lsize.toNat ≤ 1024) && decide (x.lsave.toNat ≤ x.lsize.toNat)

/-- The boxes of a die that are not FREE, by slot. -/
def State.usedSlots (s : State) (die : Nat) : List Nat :=
  (s.boxes.filter fun q => boxDie q.1 == die && q.2.state != .free).map (·.1 % 16384)

/-- The first number from `k` on that a list does not hold, among `n` of them. -/
def firstFree (used : List Nat) : Nat → Nat → Option Nat
  | 0, _ => none
  | n + 1, k => if used.contains k then firstFree used n (k + 1) else some k

/-- A FREE box of a die: the first one from a freely chosen slot on. -/
def State.freeBox (s : State) (die : Nat) : Option Nat × State :=
  let used := s.usedSlots die
  let (n, s) := s.draw
  let n := n % 16384
  let slot := match firstFree used (16384 - n) n with
    | some k => some k
    | none => firstFree used n 0
  (slot.map (16384 * die + ·), s)

/-- CREATE (R366): the box is PARKED, reason IDLE (R287). -/
def execCreate (p : Packet) (s : State) : Out :=
  let die := s.cur.at_
  runPacket s p false false
    (if s.security == .w && s.debug == .d2 then .done s 8 none
     else
       let x := createBox p
       match s.freeBox die with
       | (none, s) => .done s 3 none
       | (some b, s') =>
         if !x.fieldsOk || (s.region die x.rcb).isNone then .done s 3 none
         else if !s.under die x.rcb s.myQueue.own then .owner s
         else .done ((s'.updBox b fun _ => { x with prio := s.effPrio die x.rcb }).syncQueue b) 0 (some b))

/-! ## Waiting for a context's work (R252, R269, R319) -/

/-- Whether every fetched command of a box's chains has completed. -/
def Box.chainsQuiet (x : Box) : Bool := x.chains.toList.all fun c => c.cmds.isEmpty

/-- Whether a write of a box is still on its way (R252). -/
def State.storing (s : State) (b : Nat) : Bool := s.tiles.toList.any fun t => t.stores.any (·.box == b)

/-- Whether every fetched command, unit command and write of a box is complete. -/
def State.settled (s : State) (b : Nat) : Bool := (s.box b).chainsQuiet && s.slPend b == 0 && !s.storing b

/-- A save for a swap or a halt under way: the engines fetch no command of the box (R269), and it is not started. -/
def State.stopBox (s : State) (b : Nat) : State := s.updBox b fun x => { x with stopping := true }

/-- A box whose command is over. -/
def State.letGo (s : State) (b : Nat) : State := s.updBox b fun x => { x with stopping := false }

/-- A box that has never run, with one rank at its launch-start values that has no launch in progress, for an image of
it. -/
def State.someRank (s : State) (b : Nat) : State :=
  s.updBox b fun x => if x.saved.isEmpty then { x with saved := [Ctx.reset.unlaunched] } else x

/-! ## SWAP (R287, R312) -/

/-- A box gone to its image (R287): PARKED becomes SWAPPED; READY becomes SWAPPED with reason YIELD, and at once READY, as
does a box PARKED with reason IMGBAD, whose image firmware has written. -/
def State.swapped (s : State) (b : Nat) : State :=
  let bad := (s.box b).reason == 0x0E
  let back := (s.box b).state == .ready || bad
  let s := (s.leaveTiles b).letGo b
  let s := s.updBox b fun x =>
    { x with
      state := .swapped, reason := if back then 0x0C else x.reason, img := x.img || bad
      current := x.current.map fun l => { l with image := 0 } }
  if back then s.makeReady b else s

/-- The ranks of a box off its tiles for an image of a kind: from its tiles, or from its image where its state lies there,
with the counters and pending causes that the box has kept; else the status of an image that is refused (R309, R312,
R318). -/
def State.offRanks (s : State) (b kind : Nat) : Except Nat (List ImgRank) :=
  let x := s.box b
  if x.live || !x.img then .ok (s.tileRanks b kind)
  else (s.openImage b x.team x.imageAsid x.imageVa).map fun i =>
    ((rangeFrom 0 i.ranks.length).zip i.ranks).map fun p =>
      { p.2 with ctx := resumeCtx ((x.saved[p.1]?).getD p.2.ctx) (some p.2) false }

/-- What the thread makes of a SWAP. An image is written at each swap (R312); for reason IMGBAD firmware has written it. -/
def swapRes (s : State) (b : Nat) : PRes :=
  let x := s.box b
  if s.security == .w then .done s 8 none
  else if !(x.state == .ready || (x.state == .parked && x.reason != 0x0D)) then .done s 4 none
  else
    let s := s.stopBox b
    if !s.settled b then .wait s
    else if x.reason == 0x0E then .done (s.swapped b) 0 none
    else if (s.keyOf (s.effIso (boxDie b) x.rcb)).isNone then .done (s.letGo b) 8 none
    else
      let s' := s.someRank b
      match s'.offRanks b 1 with
      | .error st => .done (s.letGo b) (0x10 + st) none
      | .ok rs =>
        match s'.writeImage b rs 1 false with
        | none => .wait (s.wantRange (boxDie b) 0 x.image (x.imgsize.toNat * 4096))
        | some (_, z) => .done (z.swapped b) 0 none

/-- SWAP (R287). -/
def execSwap (p : Packet) (s : State) : Out :=
  runPacket s p false true (onBox s p.box.toNat (swapRes s p.box.toNat))

/-! ## HALT (R316, R318) -/

/-- A whole lease of `n` units from some extents of it: a unit that no extent holds is zero and empty (R309). -/
def wholeLease (n : Nat) (l : List Extent) : List Extent :=
  if n = 0 then []
  else
    let part := fun {α : Type} (d : α) (k : Nat) (f : Extent → List α) =>
      (rangeFrom 0 n).flatMap fun (u : Nat) =>
        match l.find? fun x => decide (x.unit ≤ u) && decide (u < x.unit + x.units) with
        | some x => ((f x).drop ((u - x.unit) * k)).take k
        | none => List.replicate k d
    [⟨0, part (0 : Byte) 4096 (·.data), part false 256 (·.full)⟩]

/-- The image of KIND 2 of a box written (R309, R316, R318): from its tiles, or from its image where its state lies there;
TOTAL, or the status of an image that is refused, 0 where it cannot be written. In D1 its body may be in clear (R376). -/
def State.haltImage (s : State) (b : Nat) : Except Nat (Nat × State) :=
  let s := s.someRank b
  let x := s.box b
  let n := x.lsize.toNat - x.lsave.toNat
  let (k, s) := s.draw
  match s.offRanks b 2 with
  | .error e => .error e
  | .ok rs =>
    match s.writeImage b (rs.map fun r => { r with ext := wholeLease n r.ext }) 2 (s.stepOk b && k % 2 == 1) with
    | none => .error 0
    | some r => .ok r

/-- A box PARKED with reason HALTED; its engines fetch no more commands (R269, R316). -/
def State.halted (s : State) (b : Nat) : State :=
  s.updBox b fun x => { x with state := .parked, reason := 0x0D, watch := 0, preempt := false, oneStep := false, stopping := true }

/-- Whether a page of an ASID is under a move that has begun: a halt waits for it (R231). -/
def State.pageMoves (s : State) (asid : Nat) : Bool := s.dies.toList.any fun d => d.move.any (·.asid == asid)

/-- What the thread makes of a HALT. -/
def haltRes (s : State) (b : Nat) : PRes :=
  let x := s.box b
  if s.security == .w then .done s 8 none
  else
    let s := s.stopBox b
    if x.state == .running then .wait (s.preemptAll [b])
    else if !s.settled b || s.pageMoves x.asid.toNat then .wait s
    else if (s.keyOf (s.effIso (boxDie b) x.rcb)).isNone && !s.stepOk b then .done (s.letGo b) 8 none
    else match s.haltImage b with
      | .error 0 => .wait (s.wantRange (boxDie b) 0 x.image (x.imgsize.toNat * 4096))
      | .error st => .done (s.letGo b) (0x10 + st) none
      | .ok (total, z) =>
        .done (z.halted b) 0 (some ((z.box b).imggen.toNat * 2 ^ 16 + total / 4096 % 2 ^ 16))

/-- HALT (R316). -/
def execHalt (p : Packet) (s : State) : Out :=
  runPacket s p false true (onBox s p.box.toNat (haltRes s p.box.toNat))

/-! ## The save of a pre-emption -/

/-- A launch with STEP has run for one boundary: its team is saved, to halt again once its operations are over (R316,
R376). -/
def State.stepHalt (s : State) (b : Nat) : State :=
  ((s.saveTeam b).updBox b fun x =>
    { x with state := .ready, oneStep := false, halting := true, stopping := true }).rearbitrate (boxDie b)

/-- The halt after a step: the image of KIND 2 once the context's operations are over, and the launch complete (R252, R269,
R316, R319, R376). -/
def State.stepDone (s : State) (b : Nat) : State :=
  let ended := fun (z : State) =>
    let l := (z.box b).current
    let z := (z.halted b).updBox b fun x => { x with current := none, halting := false }
    match l with
    | some l => z.finishLaunch b l 0
    | none => z
  if (s.box b).reason == 0x0D then ended s
  else if !s.settled b || s.pageMoves (s.box b).asid.toNat then s
  else match s.haltImage b with
    | .error _ => s.blockedSave b
    | .ok (_, z) => ended z

/-- Whether the context of tile `t` has entered its handler at the boundary before the present beat (R351). -/
def State.entered (s : State) (t : Nat) : Bool :=
  (s.ctx t).trap.act && (s.ctx t).due == .after ((s.tile t).beat + 3)

/-- PREEMPT_SAVE_COMPLETE (R27, R28): at a boundary of every tile of the team, and not at one where a trap entry was made.
A wait past the threshold parks the team instead, and an asynchronous cause due there is delivered first (R30, R353, R360).
A team whose every tile has ended its part ends its launch. A step's boundary comes one beat after its resume. -/
def execPreemptSaveComplete (box : Nat) (s : State) : Out :=
  let x := s.box box
  if x.halting then event (s.stepDone box)
  else if x.state != .running || !x.preempt || x.tiles.any (fun t => (s.tile t).issued != 0 || s.entered t)
      || (x.oneStep && x.tiles.any fun t => decide ((s.tile t).beat ≤ (s.tile t).holdAll)) then event s
  else match x.tiles.findSome? s.parkOverdue with
    | some z => .next z
    | none =>
      if x.tiles.any s.waitOpen then event s
      else match x.tiles.find? s.delivers with
        | some t => .next (s.deliver t)
        | none =>
          event (if x.oneStep then s.stepHalt box
            else if x.tiles.all fun t => (s.ctx t).done then s.endLaunch box
            else ((s.saveTeam box).makeReady box).rearbitrate (boxDie box))

/-! ## DESTROY (R399) -/

/-- A chain's fetching stopped and its unfetched commands discarded, with the copy counters of the ranks that published
them (R269). -/
def State.stopChain (s : State) (b c : Nat) : State :=
  let x := s.chain b c
  let s := x.pubs.foldl (fun s r => s.updRank b r Ctx.decC) s
  s.updChain b c fun y => { y with stopped := true, pubs := [], tail := y.head }

/-- A pair unbound at both ends, with its held messages (R264, R399). -/
def State.unpair (s : State) (b c : Nat) : State :=
  let x := s.pair b c
  if !x.v then s
  else (s.updPair x.pbox.toNat x.ppair.toNat fun _ => Pair.reset).updPair b c fun _ => Pair.reset

/-- Every launch of a box that has not started, and the one in progress, cancelled (R399 step 2). -/
def State.cancelAll (s : State) (b : Nat) : State :=
  let s := (s.box b).unstarted.foldl (fun s l => s.dropLaunch b l 7) s
  match (s.box b).current with
  | none => s
  | some l => (s.updBox b fun x => { x with current := none, resume := false }).finishLaunch b l 7

/-- Steps 6 and 7 of R399. -/
def State.freeNow (s : State) (b : Nat) : State :=
  let die := boxDie b
  let s := s.updDie die fun d =>
    { d with
      cores := d.cores.map fun c => { c with waiting := c.waiting.filter (·.box != b) }
      heldRecs := d.heldRecs.filter (·.box != b)
      grants := d.grants.filter (·.1 != b) }
  ((s.dropOwners b).updBox b fun _ => Box.reset).postHeld die

/-- What the thread makes of a DESTROY: steps 1 to 7 of R399, those before a wait taken each time it is tried. -/
def destroyRes (s : State) (b : Nat) : PRes :=
  let s := s.stopBox b
  if (s.box b).state == .running then .wait (s.preemptAll [b])
  else
    let s := s.cancelAll b
    let s := (rangeFrom 0 8).foldl (fun s c => s.stopChain b c) s
    if !(s.box b).chainsQuiet then .wait s
    else
      let s := (rangeFrom 0 8).foldl (fun s c => (s.updChain b c fun _ => Chain.reset).unpair b c) s
      if !s.settled b || !(s.box b).ending.isEmpty then .wait s
      else .done (s.freeNow b) 0 none

/-- DESTROY (R399). -/
def execDestroy (p : Packet) (s : State) : Out :=
  runPacket s p false true (onBox s p.box.toNat (destroyRes s p.box.toNat))

end Sys2Proof.Machine
end

