-- ==== Sys2Proof/Machine/Hbm.lean ====
section
/-!
DEFINITION. Packets at the controllers of the HBM stacks, their replies (R216 to R219), and forced self-refresh (R219, R380).
-/
namespace Sys2Proof.Machine

/-! ## Requests (R216) -/

/-- A request: POPC, LAY, TAG, bytes asked for, AOP, AW, PA. -/
def HbmPacket.popc (p : HbmPacket) : Nat := (bits p.hdr 120 8 : BitVec 8).toNat
def HbmPacket.lay (p : HbmPacket) : Nat := (bits p.hdr 118 2 : BitVec 2).toNat
def HbmPacket.beats (p : HbmPacket) : Nat := (bits p.hdr 90 6 : BitVec 6).toNat + 1
def HbmPacket.aop (p : HbmPacket) : Nat := (bits p.hdr 86 4 : BitVec 4).toNat
def HbmPacket.aw (p : HbmPacket) : Nat := (bits p.hdr 84 2 : BitVec 2).toNat
def HbmPacket.pa (p : HbmPacket) : Nat := (bits p.hdr 0 52 : BitVec 52).toNat

/-- Bytes that a request reads or writes at its PA. -/
def HbmPacket.len (p : HbmPacket) : Nat := if p.popc = 3 then (if p.aw = 2 then 4 else 8) else 64 * p.beats

/-- Whether two requests touch common bytes. -/
def HbmPacket.meets (p q : HbmPacket) : Bool := decide (p.pa < q.pa + q.len) && decide (q.pa < p.pa + p.len)

/-- Whether stack `k` of die `d` holds `n` bytes from a physical address, within one 4 KiB granule (R204): a request whose bytes
run past its granule leaves the stack (DESIGN CHOICE, notes/assumptions/38.md). -/
def inStack (d k pa n : Nat) : Bool := placeOf pa == .hbm d && pa / 4096 % 3 == k && pa % 4096 + n ≤ 4096

/-- The reason of a negative reply to a request before its bytes are read, the lowest that applies (R216, R217). A value
of AOP or AW that R216 does not list counts as a field that must be 0. A read with LAY ≠ 00 returns one granule: the PA
itself is what lies in the stack or outside it. -/
def packetReason (d k : Nat) (p : HbmPacket) : Option Nat :=
  let op := p.popc
  if op < 1 || 3 < op then some 1
  else if bits p.hdr 112 6 != 0 || bits p.hdr 52 32 != 0 || (op != 1 && p.lay != 0) || (op == 3 && p.beats != 1)
      || (op != 3 && (p.aop != 0 || p.aw != 0)) || (op == 3 && (6 < p.aop || p.aw < 2)) then some 2
  else if !inStack d k p.pa (if p.lay = 0 then p.len else 1) || p.pa % (if op = 3 then p.len else 64) != 0 then some 3
  else if p.lay != 0 && (p.beats != 64 || p.pa % 4096 != 0) then some 4
  else none

/-- The word that an atomic leaves: AOP on the old word, with the operand in the first bytes of its data and, for
compare-and-swap, the word to store after the one compared with (R216). -/
def atomicNew (aop n : Nat) (data : List Byte) (old : Nat) : Nat :=
  let x := ofBytes (data.take n)
  let y := ofBytes ((data.drop n).take n)
  match aop with
  | 0 => (old + x) % 2 ^ (8 * n)
  | 1 => x
  | 2 => if old = x then y else old
  | 3 => pickWord n false false old x
  | 4 => pickWord n false true old x
  | 5 => pickWord n true false old x
  | _ => pickWord n true true old x

/-- The source byte of a 4 KiB granule at each reply offset under LAY (R218). -/
def layByte (lay o : Nat) : Nat :=
  match lay with
  | 0 => o
  | 1 => 64 * (o % 64) + o / 64
  | 2 => 2 * (64 * (o / 2 % 32) + o / 2 / 32) + o % 2
  | _ => 64 * (8 * (o / 512) + o / 8 % 8) + 8 * (o / 64 % 8) + o % 8

/-- A reply header: ROPC, REASON, and the request's TAG (R217). -/
def replyHdr (ropc reason : Nat) (p : HbmPacket) : BitVec 128 :=
  BitVec.ofNat 128 (ropc * 2 ^ 120 + reason * 2 ^ 112 + (bits p.hdr 96 16 : BitVec 16).toNat * 2 ^ 96)

/-! ## The controllers (R219) -/

/-- Stack `k` of a die. -/
def State.stack (s : State) (die k : Nat) : Stack := vget ⟨false, [], [], []⟩ (s.die die).hbms k

/-- Stack `k` of a die changed. -/
def State.updStack (s : State) (die k : Nat) (f : Stack → Stack) : State :=
  s.updDie die fun d => { d with hbms := vupd d.hbms k f }

/-- A packet accepted by a controller; in forced self-refresh it waits unanswered (R219). -/
def State.acceptPacket (s : State) (die k : Nat) (p : HbmPacket) : State :=
  s.updStack die k fun x =>
    if x.sr then { x with waiting := x.waiting ++ [p] } else { x with packets := x.packets ++ [p] }

/-- A reply sent towards its requester. -/
def State.sendReply (s : State) (die k : Nat) (p : HbmPacket) (hdr : BitVec 128) (data : List Byte) : State :=
  s.updStack die k fun x => { x with replies := x.replies ++ [⟨hdr, data, p.hdr, p.box, p.rank⟩] }

/-- A packet applied: its effect on memory and its reply (R216 to R218). Data that a write packet lacks is taken as zeros, and
data beyond its bytes is passed over (DESIGN CHOICE, notes/assumptions/38.md). -/
def State.applyPacket (s : State) (die k : Nat) (p : HbmPacket) : State :=
  match packetReason die k p with
  | some r => s.sendReply die k p (replyHdr 0xFF r p) []
  | none =>
    let locs := rangeFrom p.pa p.len
    if p.popc != 2 && s.anyUe locs then s.sendReply die k p (replyHdr 0xFF 5 p) []
    else
      match p.popc with
      | 1 =>
        let b := s.getBytes locs
        s.sendReply die k p (replyHdr 0x81 0 p) ((rangeFrom 0 p.len).map fun o => (b[layByte p.lay o]?).getD 0)
      | 2 => (s.putBytes (locs.zip (p.data ++ List.replicate (p.len - p.data.length) 0))).sendReply die k p (replyHdr 0x82 0 p) []
      | _ =>
        let old := ofBytes (s.getBytes locs)
        (s.putBytes (locs.zip (toBytes p.len (atomicNew p.aop p.len p.data old)))).sendReply die k p (replyHdr 0x83 0 p)
          (toBytes p.len old)

/-- The positions of the packets that may be applied next: of kind `kinds`, with no earlier packet of the same requester
on a common byte (R219). -/
def ready (kinds : Nat → Bool) (ps : List HbmPacket) : List Nat :=
  (rangeFrom 0 ps.length).filter fun i =>
    match ps[i]? with
    | none => false
    | some p =>
      kinds p.popc && !(ps.take i).any fun q => q.box == p.box && q.rank == p.rank && q.meets p

/-- A packet of one kind applied, by the controller's free choice. -/
def State.stackStep (s : State) (die k : Nat) (kinds : Nat → Bool) : State :=
  let ps := (s.stack die k).packets
  let ok := ready kinds ps
  let (n, s) := s.draw
  match ok[n % ok.length]? with
  | none => s
  | some i =>
    match ps[i]? with
    | none => s
    | some p => (s.updStack die k fun x => { x with packets := x.packets.eraseIdx i }).applyPacket die k p

/-- HBM_READ (R218); a packet of unknown POPC gets its negative reply in the same way (R219). -/
def execHbmRead (die : Nat) (stack : Nat) (s : State) : Out := event (s.stackStep die stack fun k => k != 2 && k != 3)

/-- HBM_WRITE (R216). -/
def execHbmWrite (die : Nat) (stack : Nat) (s : State) : Out := event (s.stackStep die stack (· == 2))

/-- HBM_ATOMIC (R219): each atomic is applied exactly once. -/
def execHbmAtomic (die : Nat) (stack : Nat) (s : State) : Out := event (s.stackStep die stack (· == 3))

/-- HBM_REPLY (R217, R219): a reply reaches its requester, in no fixed order; a negative one is logged with its header
and raises its cause on the context that owns the request. -/
def execHbmReply (die : Nat) (stack : Nat) (s : State) : Out :=
  let rs := (s.stack die stack).replies
  let (n, s) := s.draw
  match rs[n % rs.length]? with
  | none => event s
  | some r =>
    let s := s.updStack die stack fun x => { x with replies := x.replies.eraseIdx (n % rs.length) }
    if bits r.hdr 120 8 != 0xFF then event s
    else
      let why : BitVec 8 := bits r.hdr 112 8
      event ((s.ras die 0xD8 r.box (unitHbm stack) r.hdr.toNat).raiseAsync r.box r.rank (nackCause why.toNat))

/-- THERMAL_SR (R219, R380): a stack enters forced self-refresh once it has completed what it accepted, or leaves it, and
takes what waits. -/
def execThermalSr (die : Nat) (stack : Nat) (enter : Bool) (s : State) : Out :=
  let x := s.stack die stack
  if x.sr == enter || (enter && !x.packets.isEmpty) then event s
  else
    let s := s.updStack die stack fun x =>
      if enter then { x with sr := true } else { x with sr := false, packets := x.packets ++ x.waiting, waiting := [] }
    event (s.ras die 0xD5 0xFFFF (unitHbm stack) ((if enter then 1 else 0) + 2 * stack))

end Sys2Proof.Machine
end

