-- ==== Sys2Proof/Machine/Manage.lean ====
section
/-!
DEFINITION. The commands on address spaces, regions, chains and pairs: TRACK (R315), XINV (R209), ASPACE (R205), REGION (R293),
RCLOCK (R320), CHBIND (R255), PRBIND (R264) and MODEL (R324).
-/
namespace Sys2Proof.Machine

/-! ## Address spaces -/

/-- TRACK (R315): a dirty log armed, its head written, or disarmed. -/
def execTrack (p : Packet) (s : State) : Out :=
  let asid := operand p 0 2
  let log := operand p 2 1
  let arm := operand p 3 1
  let va := BitVec.ofNat 64 (operand p 8 8)
  let rest := s.dirty.filter (·.asid != asid)
  runPacket s p false false
    (if arm = 0 then .done { s with dirty := rest } 0 none
     else if arm != 1 || log < 6 || 20 < log || va.toNat % 64 != 0 then .done s 3 none
     else writes s 0 va (List.replicate 16 0) fun s => .done { s with dirty := rest ++ [⟨asid, va, log, false⟩] } 0 none)

/-- XINV (R209): no translation of the pages is cached any more. -/
def execXinv (p : Packet) (s : State) : Out :=
  let asid := operand p 0 2
  let page := operand p 8 8 / 65536
  let n := operand p 16 4
  runPacket s p false false
    (if n < 1 || 65536 < n then .done s 3 none
     else .done { s with tcache := s.tcache.filter fun e => !(e.1 == asid && decide (page ≤ e.2.1) && decide (e.2.1 < page + n)) } 0 none)

/-- Whether QOWN of the queue at issue is a root that its die has accepted. -/
def State.rootQueue (s : State) : Bool := (s.region s.cur.at_ s.myQueue.own).any (·.root)

/-- ASPACE (R205). -/
def execAspace (p : Packet) (s : State) : Out :=
  let asid := operand p 0 2
  let v := operand p 2 1
  let root := operand p 8 8
  runPacket s p false false
    (if !s.rootQueue then .owner s
     else if 1 < v || 2 ^ 52 ≤ root || root % 2 ^ 18 != 0 then .done s 3 none
     else if v = 0 && s.boxes.any fun q => q.2.state != .free && q.2.asid.toNat == asid then .done s 4 none
     else .done { s with asids := sput ⟨false, 0⟩ s.asids asid ⟨v == 1, BitVec.ofNat 52 root⟩ } 0 none)

/-! ## REGION (R292, R293) -/

/-- Whether the reserved bits of a region control block are zero and V is 1 (R292). -/
def rcbSound (b : List Byte) : Bool :=
  nbits (getN b 8 8) 48 15 == 0 && nbits (getN b 0x18 1) 3 4 == 0 && nbits (getN b 0x19 1) 2 6 == 0 && getN b 0x1A 2 == 0
    && nbits (getN b 0x1C 4) 16 15 == 0 && nbits (getN b 0x20 4) 16 15 == 0 && nbits (getN b 0x24 4) 24 7 == 0
    && getN b 0x38 8 == 0 && nbits (getN b 0x19 1) 0 1 == 1

/-- The copy of a block that a die takes; what the scheduler core keeps beside the block's fields goes on from the copy
before it. -/
def regionOf (va : Word) (die : Nat) (b : List Byte) (old : Option Region) (key : Option (List Byte)) (timeb : Nat) : Region :=
  let bud := getN b 8 8
  let period := getN b 0x10 8
  let root := nbits (getN b 0x19 1) 1 1 == 1
  { va := va, parent := BitVec.ofNat 64 (getN b 0 8), root := root, die := die
    budgetOvr := bud / 2 ^ 63 == 1, budget := bud % 2 ^ 48, period := period
    prioOvr := getN b 0x18 1 / 128 == 1, prio := BitVec.ofNat 3 (getN b 0x18 1)
    isoOvr := getN b 0x1C 4 / 2 ^ 31 == 1, iso := BitVec.ofNat 16 (getN b 0x1C 4)
    fdomOvr := getN b 0x20 4 / 2 ^ 31 == 1, fdom := BitVec.ofNat 16 (getN b 0x20 4)
    wthrOvr := getN b 0x24 4 / 2 ^ 31 == 1, wthr := BitVec.ofNat 24 (getN b 0x24 4)
    used := (old.map (·.used)).getD 0, dbgkey := key, clock := (old.map (·.clock)).getD 0xDDDD
    templates := (old.map (·.templates)).getD []
    periodNo := if root then 2 * timeb / period else 0 }

/-- The sum of the budgets of the blocks of a die whose parent is `va`. -/
def State.childBudgets (s : State) (die : Nat) (va : Word) : Nat :=
  s.regions.foldl (fun n r => if r.die == die && r.parent == va && !r.root && r.budgetOvr then n + r.budget else n) 0

/-- The state with a die's copy of a block. -/
def State.putRegion (s : State) (r : Region) : State :=
  { s with regions := s.regions.filter (fun q => !(q.die == r.die && q.va == r.va)) ++ [r] }

/-- The checks of R293 on a block, at the state that holds its copy. -/
def State.regionOk (s : State) (r : Region) : Bool :=
  (!r.wthrOvr || decide (1024 ≤ r.wthr.toNat))
    && (if r.root then
          r.budgetOvr && r.prioOvr && r.isoOvr && r.fdomOvr && r.wthrOvr && decide (2000 ≤ r.period)
            && decide (r.period < 2 ^ 40) && decide (r.budget ≤ 40 * r.period)
        else
          (s.chainOf r.die r.va).any (·.root)
            && (!r.budgetOvr || decide (s.childBudgets r.die r.parent ≤ s.effBudget r.die r.parent)))
    && decide (s.childBudgets r.die r.va ≤ s.effBudget r.die r.va)

/-- The key of an isolation domain drawn when a REGION command first names it (R372); none where the key store is full. -/
def State.needKey (s : State) (r : Region) : Option State :=
  if !r.isoOvr || s.security == .w || (s.keyOf r.iso).isSome then some s
  else if 4096 ≤ s.keys.length then none
  else
    let (n, s) := s.draw
    some { s with keys := s.keys ++ [(r.iso, toBytes 32 n)] }

/-- A block accepted: the priorities of its boxes and the grants of the die follow (R282, R293, R323). -/
def State.acceptRegion (s : State) (r : Region) : State :=
  let mine := fun (q : Nat × Box) => boxDie q.1 == r.die && q.2.state != .free && s.under r.die q.2.rcb r.va
  let f := fun (q : Nat × Box) => if mine q then (q.1, { q.2 with prio := s.effPrio r.die q.2.rcb }) else q
  let s := { s with boxes := s.boxes.map f }
  s.rearbitrate r.die

/-- What the thread makes of a REGION: the owner's check, then R293. -/
def regionRes (s : State) (va : Word) : PRes :=
  let die := s.cur.at_
  let own := s.myQueue.own
  if va.toNat % 64 != 0 then .done s 3 none
  else reads s 0 va 64 fun b s =>
    let root := nbits (getN b 0x19 1) 1 1 == 1
    let parent := BitVec.ofNat 64 (getN b 0 8)
    let dbg := BitVec.ofNat 64 (getN b 0x30 8)
    let accept := fun (key : Option (List Byte)) (s : State) =>
      let r := regionOf va die b (s.region die va) key s.timeb
      let z := s.putRegion r
      if !z.regionOk r then PRes.done s 3 none
      else match z.needKey r with
        | none => .done s 3 none
        | some z => .done (z.acceptRegion r) 0 none
    if root && (va != own || !(s.rootQueue || (s.region die own).isNone)) then .owner s
    else if !rcbSound b then .done s 3 none
    else if root then
      if dbg = 0 then accept none s else reads s 0 dbg 32 fun k s => accept (some k) s
    else if dbg != 0 || (s.region die parent).isNone then .done s 3 none
    else if va != own && !s.under die parent own then .owner s
    else accept none s

/-- REGION (R293). -/
def execRegion (p : Packet) (s : State) : Out := runPacket s p false false (regionRes s (BitVec.ofNat 64 (operand p 0 8)))

/-- A command on a block that the die has accepted and QOWN may command (R365, R366). -/
def onRegion (s : State) (va : Word) (k : Region → PRes) : PRes :=
  match s.region s.cur.at_ va with
  | none => .done s 3 none
  | some r => if s.under s.cur.at_ va s.myQueue.own then k r else .owner s

/-- RCLOCK (R320, R323). -/
def execRclock (p : Packet) (s : State) : Out :=
  let va := BitVec.ofNat 64 (operand p 0 8)
  runPacket s p false false
    (onRegion s va fun r =>
      .done ((s.updRegion r.die va fun r => { r with clock := BitVec.ofNat 16 (operand p 8 2) }).rearbitrate r.die) 0 none)

/-! ## CHBIND (R254, R255, R269) -/

/-- Whether a bind's minimum and cap fit a pool of `size` entries that the queues `others` share (R254). -/
def poolOk (size qmin qcap most : Nat) (others : List PoolQueue) : Bool :=
  1 ≤ qmin && qmin ≤ qcap && qcap ≤ size && others.length < most
    && others.foldl (fun n o => n + o.qmin) qmin ≤ size

/-- What the thread makes of a CHBIND. An unbind drops a write of the sequence word that still waits (DESIGN CHOICE,
notes/assumptions/77.md). -/
def chbindRes (s : State) (p : Packet) (b : Nat) : PRes :=
  let c := operand p 0 1
  let un := operand p 1 1
  let base := operand p 8 8
  let seq := operand p 16 8
  let qmin := operand p 24 2
  let qcap := operand p 26 2
  let x := s.chain b c
  if 8 ≤ c || 1 < un then .done s 3 none
  else if un = 1 then
    if !x.v then .done s 4 none
    else
      let s := s.stopChain b c
      if !(s.chain b c).cmds.isEmpty then .wait s
      else .done (s.updChain b c fun _ => Chain.reset) 0 (some x.eng.toNat)
  else if x.v then .done s 4 none
  else if 2 ^ 57 ≤ base || nbits base 4 8 != 0 || 12 < base % 16 || seq % 8 != 0
      || !poolOk 8192 qmin qcap 2048 (s.otherChains b c) then .done s 3 none
  else
    let (n, s) := s.draw
    let eng := n % 64
    let y : Chain :=
      { Chain.reset with
        v := true, base := BitVec.ofNat 64 (base / 4096 * 4096), logn := BitVec.ofNat 4 base, seqaddr := BitVec.ofNat 64 seq
        eng := BitVec.ofNat 6 eng, qmin := BitVec.ofNat 16 qmin, qcap := BitVec.ofNat 16 qcap }
    .done (s.updChain b c fun _ => y) 0 (some eng)

/-- CHBIND (R255). -/
def execChbind (p : Packet) (s : State) : Out :=
  runPacket s p false true (onBox s p.box.toNat (chbindRes s p p.box.toNat))

/-! ## PRBIND (R254, R264, R311) -/

/-- Whether the pools of both ends' dies take a new pair (R254, R264). -/
def State.pairPools (s : State) (b c pb pc qmin qcap : Nat) : Bool :=
  let q : PoolQueue := ⟨qmin, qcap, 0⟩
  let both := boxDie b == boxDie pb
  poolOk 4096 qmin qcap 512 (s.otherPairs b c ++ if both then [q] else [])
    && poolOk 4096 qmin qcap 512 (s.otherPairs pb pc ++ if both then [q] else [])

/-- Whether the images of both ends stay within their areas (R311). -/
def State.pairFits (s : State) (b pb qcap : Nat) : Bool :=
  let fits := fun (a n : Nat) =>
    decide (worst (s.maxTeam a) ((s.box a).qcaps + n) ≤ (s.box a).imgsize.toNat * 4096)
  if b = pb then fits b (2 * qcap) else fits b qcap && fits pb qcap

/-- A pair record of a new bind. -/
def newPair (pb pc qmin qcap : Nat) : Pair :=
  { Pair.reset with
    v := true, sseq := 1, rseq := 1, pbox := BitVec.ofNat 16 pb, ppair := BitVec.ofNat 3 pc
    qmin := BitVec.ofNat 16 qmin, qcap := BitVec.ofNat 16 qcap }

/-- What the thread makes of a PRBIND. -/
def prbindRes (s : State) (p : Packet) (b : Nat) : PRes :=
  let c := operand p 0 1
  let un := operand p 1 1
  let pc := operand p 2 1
  let pb := operand p 4 2
  let qmin := operand p 6 2
  let qcap := operand p 8 2
  if 8 ≤ c || 1 < un then .done s 3 none
  else if un = 1 then
    if (s.pair b c).v then .done (s.unpair b c) 0 none else .done s 4 none
  else if (s.box pb).state == .free then .done s 4 none
  else if !s.under (boxDie pb) (s.box pb).rcb s.myQueue.own then .owner s
  else if 8 ≤ pc || (b = pb && c = pc) then .done s 3 none
  else if (s.pair b c).v || (s.pair pb pc).v then .done s 4 none
  else if !s.pairPools b c pb pc qmin qcap || !s.pairFits b pb qcap then .done s 3 none
  else
    let s := s.updPair b c fun _ => newPair pb pc qmin qcap
    .done (s.updPair pb pc fun _ => newPair b c qmin qcap) 0 none

/-- PRBIND (R264). -/
def execPrbind (p : Packet) (s : State) : Out :=
  runPacket s p false true (onBox s p.box.toNat (prbindRes s p p.box.toNat))

/-! ## MODEL (R68, R324) -/

/-- The node records of a template. -/
def nodesOf : List Byte → List (Byte × Byte)
  | a :: b :: r => (a, b) :: nodesOf r
  | _ => []

/-- Whether node records form a template (R324). -/
def templateOk (l : List (Byte × Byte)) : Bool :=
  l.head? == some (0xFF, 0) && ((rangeFrom 0 l.length).zip l).all fun q =>
    q.1 == 0 || (decide (q.2.1.toNat < q.1) && (l[q.2.1.toNat]?).any fun a => q.2.2.toNat == a.2.toNat + 1)

/-- The templates of a record; none where one breaks R68 or R324. -/
def templatesOf : Nat → List Byte → Option (List (Nat × List (Byte × Byte)))
  | _, [] => some []
  | 0, _ => none
  | fuel + 1, b =>
    let n := getN b 1 1
    let len := getN b 4 4
    let pad := (len + 7) / 8 * 8
    let l := nodesOf ((b.drop 8).take len)
    if b.length < 8 + pad || 31 < getN b 0 1 || n < 1 || 64 < n || getN b 2 2 != 0 || len != 2 * n || !templateOk l
        || ((b.drop (8 + len)).take (pad - len)).any (· != 0) then none
    else (templatesOf fuel (b.drop (8 + pad))).map ((getN b 0 1, l) :: ·)

/-- MODEL (R324): every template of the record is written, or none. A record that breaks R68's layout (an index above 31,
padding or reserved bytes not zero, a template cut off) gives RANGE, as one that breaks R324 does (DESIGN CHOICE,
notes/assumptions/40.md). -/
def execModel (p : Packet) (s : State) : Out :=
  let va := BitVec.ofNat 64 (operand p 0 8)
  let n := operand p 16 4
  runPacket s p false false
    (onRegion s va fun r =>
      if 4352 < n then .done s 3 none
      else if n = 0 then .done s 0 none
      else reads s s.myQueue.asid.toNat (BitVec.ofNat 64 (operand p 8 8)) n fun b s =>
        match templatesOf 32 b with
        | none => .done s 3 none
        | some ts =>
          let all := (ts.map (·.1)) ++ r.templates.map (·.1)
          if all.eraseDups.length != all.length then .done s 3 none
          else .done (s.updRegion r.die va fun r => { r with templates := r.templates ++ ts }) 0 none)

end Sys2Proof.Machine
end

