-- ==== Sys2Proof/Machine/Security.lean ====
section
/-!
DEFINITION. Firmware slots (R371, R373), identity and keys (R372), the security, debug and power states and what changes them
(R375 to R378), and package reset. Integers of the key exchange and of signatures lie in memory little-endian (R3).
-/
namespace Sys2Proof.Machine

/-- A command that only a queue whose QOWN is a root may carry (R366). -/
def onRoot (s : State) (r : PRes) : PRes := if s.rootQueue then r else .owner s

/-- QASID of the queue at issue. -/
def State.qasid (s : State) : Nat := s.myQueue.asid.toNat

/-! ## ATTEST, KEYEXP, KEYIMP (R372) -/

/-- The device's key-agreement public key. -/
def agreementPoint : Nat × Nat := (mulPoint 256 Config.agreementKey pBase).getD (0, 0)

/-- The running firmware slot. -/
def Firmware.running (f : Firmware) : FwSlot := if f.runB then f.b else f.a

/-- The attestation report up to its signature. -/
def State.reportBody (s : State) (nonce : List Byte) : List Byte :=
  let sec := match s.security with | .n => 0 | .t => 1 | .w => 2
  let dbg := match s.debug with | .d0 => 0 | .d1 _ _ => 1 | .d2 => 2
  toBytes 4 0x004000A1 ++ toBytes 1 sec ++ toBytes 1 dbg ++ toBytes 1 (if s.fw.runB then 1 else 0) ++ toBytes 1 0
    ++ toBytes 2 s.fw.a.ver.toNat ++ toBytes 2 s.fw.b.ver.toNat ++ toBytes 4 0 ++ sha256 s.fw.running.image ++ nonce
    ++ toBytes 8 s.timeb ++ toBytes 8 Config.serial.toNat ++ toBytes 32 agreementPoint.1 ++ toBytes 32 agreementPoint.2

/-- ATTEST (R372). -/
def execAttest (p : Packet) (s : State) : Out :=
  runPacket s p false false
    (onRoot s
      (let body := s.reportBody (toBytes 32 (operand p 0 32))
       let (k, s) := s.draw
       let sig := ecdsaSign Config.identityKey (k % (pOrder - 1) + 1) body
       writes s s.qasid (BitVec.ofNat 64 (operand p 32 8)) (body ++ toBytes 32 sig.1 ++ toBytes 32 sig.2) fun s => .done s 0 none))

/-- The key-encryption key shared with a peer (R372): the two serials in ascending order are the salt. -/
def kekOf (x y : Nat) : Option (List Byte) :=
  let a := Config.serial
  let b := Config.peerSerial x y
  let (lo, hi) := if a.toNat ≤ b.toNat then (a, b) else (b, a)
  (ecdh Config.agreementKey x y).map fun z => hkdf (toBytes 8 lo.toNat ++ toBytes 8 hi.toNat) (toBE 32 z)

/-- A key command: its peer's public key is read, and its key-encryption key derived; RANGE where the key is no point. -/
def withKek (s : State) (p : Packet) (k : List Byte → State → PRes) : PRes :=
  reads s s.qasid (BitVec.ofNat 64 (operand p 8 8)) 64 fun b s =>
    match kekOf (getN b 0 32) (getN b 32 32) with
    | none => .done s 3 none
    | some kek => k kek s

/-- KEYEXP (R372): the region key of an isolation domain wrapped; KEY where the domain has none. -/
def execKeyexp (p : Packet) (s : State) : Out :=
  runPacket s p false false
    (onRoot s
      (if s.security == .t then .done s 8 none
       else match s.keyOf (BitVec.ofNat 16 (operand p 0 2)) with
         | none => .done s 8 none
         | some key =>
           withKek s p fun kek s =>
             writes s s.qasid (BitVec.ofNat 64 (operand p 16 8)) (keyWrap kek key) fun s => .done s 0 none))

/-- KEYIMP (R372). -/
def execKeyimp (p : Packet) (s : State) : Out :=
  let iso := BitVec.ofNat 16 (operand p 0 2)
  runPacket s p false false
    (onRoot s
      (withKek s p fun kek s =>
        reads s s.qasid (BitVec.ofNat 64 (operand p 16 8)) 40 fun w s =>
          match keyUnwrap kek w with
          | none => .done s 3 none
          | some key =>
            match s.keyOf iso with
            | some old => if old = key then .done s 0 none else .done s 8 none
            | none =>
              if 4096 ≤ s.keys.length then .done s 3 none else .done { s with keys := s.keys ++ [(iso, key)] } 0 none))

/-! ## KEYWIPE and DEBUG (R375, R376) -/

/-- Every byte of the tile SRAMs zero. -/
def State.wipeSram (s : State) : State := { s with mem := Mem.clear s.mem 0x1000000000000 0x28000000 }

/-- KEYWIPE (R375, R378). -/
def execKeywipe (p : Packet) (s : State) : Out :=
  runPacket s p false false
    (onRoot s
      (match s.debug with
       | .d1 _ _ => .done s 8 none
       | _ =>
         if s.boxes.any fun q => q.2.state != .free then .done s 4 none
         else .done { s.wipeSram with keys := [], security := .w } 0 none))

/-- A change of debug state, with its record (R376). -/
def State.enterDebug (s : State) (d : Debug) : State := if s.debug = d then s else ({ s with debug := d }).rasFree s.cur.at_ 0xE3 0xFFFF

/-- What a debug token asks for at a state of security and debug, where it is good (R376, R378). -/
def State.tokenState (s : State) (b : List Byte) : Option Debug :=
  let rcb := BitVec.ofNat 64 (getN b 0 8)
  let expiry := BitVec.ofNat 64 (getN b 16 8)
  let x := getN b 56 32
  let y := getN b 88 32
  let root := (s.chainOf s.cur.at_ rcb).find? (·.root)
  let good := decide (s.timeb < expiry.toNat) && BitVec.ofNat 64 (getN b 8 8) == Config.serial
    && ecdsaVerify x y (b.take 120) (getN b 120 32) (getN b 152 32)
  if !good then none
  else match s.security, s.debug with
    | .w, .d0 => if x = Config.vendorKeyX && y = Config.vendorKeyY then some .d2 else none
    | .n, .d2 => none
    | .n, _ => if root.any fun r => r.dbgkey == some (sha256 ((b.drop 56).take 64)) then some (.d1 rcb expiry) else none
    | _, _ => none

/-- DEBUG (R376). -/
def execDebug (p : Packet) (s : State) : Out :=
  let va := BitVec.ofNat 64 (operand p 8 8)
  runPacket s p false false
    (onRoot s
      (if s.security == .t then .done s 8 none
       else if va = 0 then (if s.debug == .d2 then .done s 4 none else .done (s.enterDebug .d0) 0 none)
       else reads s s.qasid va 184 fun b s =>
         match s.tokenState b with
         | none => .done s 8 none
         | some d => .done (s.enterDebug d) 0 none))

/-- DEBUG_EXPIRY (R376): D1 ends at its expiry. -/
def execDebugExpiry (s : State) : Out :=
  match s.debug with
  | .d1 _ e => event (if e.toNat ≤ s.timeb then s.enterDebug .d0 else s)
  | _ => event s

/-! ## POWER (R377, R378) -/

/-- Whether a die may sleep: no box homed on it is RUNNING or READY. -/
def State.canSleep (s : State) (die : Nat) : Bool :=
  !s.boxes.any fun q => boxDie q.1 == die && (q.2.state == .running || q.2.state == .ready)

/-- D1 ended by the entry of a power state. -/
def State.endD1 (s : State) : State :=
  match s.debug with
  | .d1 _ _ => s.enterDebug .d0
  | _ => s

/-- A die awake (R377). -/
def State.wakeDie (s : State) (die : Nat) : State := s.updDie die fun d => { d with ps2 := false, rung := false }

/-- A die asleep (R377). -/
def Die.asleep (d : Die) : Die := { d with ps2 := true, rung := false }

/-- Every die of the package awake (R377). -/
def State.wakeAll (s : State) : State := { (rangeFrom 0 4).foldl (fun s d => s.wakeDie d) s with ps3 := false }

/-- The PARKED boxes whose live state stands on tiles. -/
def State.liveParked (s : State) : List Nat := (s.boxes.filter fun q => q.2.state == .parked && q.2.live).map (·.1)

/-- Boxes swapped for a package that goes to sleep (R312); or, while one of them has work on its way or its image cannot be
written, that box. A HALTED box keeps its state, and its image. -/
def State.swapAll (s : State) : List Nat → Except Nat State
  | [] => .ok s
  | b :: r =>
    if !s.settled b then .error b
    else if (s.box b).reason == 0x0D then (s.leaveTiles b).swapAll r
    else match s.writeImage b (s.tileRanks b 1) 1 false with
      | none => .error b
      | some (_, z) => (z.swapped b).swapAll r

/-- The package asleep: the tile SRAM is lost, and its bytes read as bytes that nothing has written (R377). -/
def State.sleepAll (s : State) : State :=
  let s := { s.wipeSram with
    ps3 := true, tiles := s.tiles.map fun t => { t with full := [], owners := [] }
    ces := s.ces.filter fun a => !(match placeOf a with | .window _ _ => true | _ => false)
    ues := s.ues.filter fun a => !(match placeOf a with | .window _ _ => true | _ => false) }
  (rangeFrom 0 4).foldl (fun s d => s.updDie d Die.asleep) s

/-- What the thread makes of a POWER. One that waits leaves every box as it was: it may yet complete negatively (R365). -/
def powerRes (s : State) (target : Nat) : PRes :=
  let die := s.cur.at_
  match target with
  | 0 => .done s.wakeAll 0 none
  | 2 =>
    if s.security == .w && s.debug == .d2 then .done s 8 none
    else if !s.canSleep die then .done s 4 none
    else .done (s.endD1.updDie die Die.asleep) 0 none
  | 3 =>
    if s.security == .t then .done s 4 none
    else if s.security == .w then .done s 8 none
    else if !(rangeFrom 0 4).all s.canSleep then .done s 4 none
    else
      match s.swapAll s.liveParked with
      | .error b => .wait (s.wantRange (boxDie b) 0 (s.box b).image ((s.box b).imgsize.toNat * 4096))
      | .ok z => .done z.endD1.sleepAll 0 none
  | _ => .done s 3 none

/-- POWER (R377). -/
def execPower (p : Packet) (s : State) : Out := runPacket s p false false (onRoot s (powerRes s (operand p 0 1)))

/-- DIE_WAKE (R377), on the die that `cur` names: a box of it is READY, or a doorbell has rung. -/
def execDieWake (s : State) : Out :=
  let die := s.cur.at_
  event (if !s.ps3 && ((s.die die).rung || !s.canSleep die) then s.wakeDie die else s)

/-- PACKAGE_WAKE (R377): a doorbell has rung, or TIMEB has reached an armed CXPARK deadline. -/
def execPackageWake (s : State) : Out :=
  let due := s.boxes.any fun q => q.2.dl && decide (q.2.deadline.toNat ≤ s.timeb)
  event (if s.ps3 && (due || (rangeFrom 0 4).any fun d => (s.die d).rung) then s.wakeAll else s)

/-- TILE_GATE (R377): the tile that `cur` names has been free for 10 µs. -/
def execTileGate (s : State) : Out :=
  let x := s.tile s.cur.at_
  event (if x.box.isNone && decide (x.freeSince + 10000 ≤ s.timeb) then s.updTile s.cur.at_ fun y => { y with gated := true } else s)

/-! ## Firmware (R373) -/

/-- FWLOAD (R373): the inactive slot written, and booted by the next reset. -/
def execFwload (p : Packet) (s : State) : Out :=
  runPacket s p false false
    (onRoot s
      (reads s s.qasid (BitVec.ofNat 64 (operand p 8 8)) (operand p 16 4) fun b s =>
        let sig := Config.fwSignature b
        let ver := BitVec.ofNat 16 (Config.fwVersion b)
        if !ecdsaVerify Config.vendorKeyX Config.vendorKeyY (Config.fwBody b) sig.1 sig.2 || ver.toNat < s.fw.floor.toNat then
          .done s 8 none
        else
          let slot : FwSlot := ⟨ver, b⟩
          let fw := if s.fw.runB then { s.fw with a := slot, nextB := false } else { s.fw with b := slot, nextB := true }
          .done { s with fw := fw } 0 none))

/-- FWCOMMIT (R373): the trial ends, and the rollback floor rises to the running slot's version. -/
def execFwcommit (v : Word) (s : State) : Out :=
  if v != 1 || !s.fw.trial then event s
  else
    let ver := s.fw.running.ver
    let floor := if s.fw.floor.toNat ≤ ver.toNat then ver else s.fw.floor
    event { s with fw := { s.fw with trial := false, floor := floor }, security := if s.security == .t then .n else s.security }

/-- The package after a reset that boots slot B, or A: the flash, the memory outside tile SRAM and its errors, time, the
links and the world outside go on. Where it leaves a debug state it posts that, on die 0 (R376; notes/assumptions/6.md). -/
def State.resetTo (s : State) (b trial : Bool) : State :=
  let z : State := { State.reset with
    agenda := s.agenda, sched := s.sched, fresh := s.fresh, last := s.last, mem := (s.wipeSram).mem, timeb := s.timeb
    ces := s.ces.filter fun a => !(match placeOf a with | .window _ _ => true | _ => false)
    ues := s.ues.filter fun a => !(match placeOf a with | .window _ _ => true | _ => false)
    fw := { s.fw with runB := b, nextB := b, trial := trial, since := s.timeb }
    security := if trial then .t else .n
    accid := s.accid, links := s.links, aborts := s.aborts, msixSent := s.msixSent, reports := s.reports }
  if s.debug = .d0 then z else z.rasFree 0 0xE3 0xFFFF

/-- PACKAGE_RESET (R373): the slot that the flash names boots; a slot that was never committed is on trial. -/
def execPackageReset (s : State) : Out :=
  event (s.resetTo s.fw.nextB (s.fw.nextB != s.fw.runB || s.fw.trial))

/-- FW_REVERT (R373): 30 s after reset without a commit the watchdog resets the package to the other slot; one that FWLOAD has
written meanwhile is on trial. -/
def execFwRevert (s : State) : Out :=
  event (if s.fw.trial && decide (s.fw.since + 30000000000 ≤ s.timeb) then (s.resetTo (!s.fw.runB) (s.fw.nextB != s.fw.runB)).rasFree 0 0xE2 0xFFFF else s)

end Sys2Proof.Machine
end

