-- ==== Sys2Proof/Machine/Host.lean ====
section
/-!
DEFINITION. What reaches the package from outside: doorbells (R385), writes of the die control page (R363), the loader's
registration of launch blocks (R70), links and peers (R383, R387).
-/
namespace Sys2Proof.Machine

/-! ## Doorbells (R364, R377, R385) -/

/-- QTAIL of a queue written; a die or a package that sleeps is to wake. -/
def State.ring (s : State) (die q : Nat) (v : BitVec 32) : State :=
  let s := s.updMq die q fun m => { m with tail := v }
  if !(s.die die).ps2 then s
  else
    let s := s.updDie die fun d => { d with rung := true }
    { s with agenda := s.agenda ++ [if s.ps3 then .event .packageWake 0 else .event .dieWake die] }

/-- DOORBELL (R385): a 32-bit write to a queue's doorbell of BAR0; one of another width is dropped and logged. -/
def execDoorbell (die : Nat) (q : Nat) (width : Nat) (v : Word) (s : State) : Out :=
  if 4 ≤ die || 32 ≤ q then event s
  else if width = 4 then event (s.ring die q (bits v 0 32))
  else event (s.ras die 0xD8 0xFFFF unitFront (0x40000 * die + 8 * q))

/-! ## The die control page (R363) -/

/-- A register of mapped queue `q` written, by its offset within the queue's 64 bytes. -/
def State.writeQueueReg (s : State) (die q r : Nat) (v : Word) : State :=
  match r with
  | 0x00 => s.updMq die q fun m => { m with base := v }
  | 0x08 => s.updMq die q fun m => { m with log := bits v 0 4 }
  | 0x10 => s.updMq die q fun m => { m with asid := bits v 0 16 }
  | 0x18 => s.updMq die q fun m => { m with own := v }
  | 0x20 => s.updMq die q fun m => { m with ctl := (bits v 0 8 : BitVec 8) &&& 3 }
  | 0x28 => s.ring die q (bits v 0 32)
  | _ => s

/-- A register of a fault-service core written (R266, R267). -/
def State.writeCoreReg (s : State) (die c r : Nat) (v : Word) : Out :=
  let upd := fun (f : FaultCore → FaultCore) => event (s.updDie die fun d => { d with cores := vupd d.cores c f })
  match r with
  | 0x00 => upd fun x => { x with base := v }
  | 0x08 => upd fun x => { x with log := bits v 0 5 }
  | 0x18 => upd fun x => { x with cons := bits v 0 32 }
  | 0x20 =>
    if v.getLsbD 32 then execFrretCancel die c (bits v 0 32 : BitVec 32).toNat s
    else execFrretResume die c (bits v 0 32 : BitVec 32).toNat s
  | _ => event s

/-- Word `i` (0 or 1) of an attachment window written (R382); RSV bits that are not zero make it count as V = 0, and read as
zero. -/
def State.writeWindow (s : State) (w i : Nat) (v : Word) : State :=
  { s with attwin := vupd s.attwin w fun x =>
      if i = 0 then (bits x 64 64 : BitVec 64) ++ v else v ++ (bits x 0 64 : BitVec 64) }

/-- Another register of the page written; those of the package exist on die 0 only. -/
def State.writePageReg (s : State) (die off : Nat) (v : Word) : Out :=
  let ras := fun (f : Ring → Ring) => event (s.updDie die fun d => { d with ras := f d.ras })
  let nring := fun (f : Ring → Ring) => event (s.updDie die fun d => { d with nring := f d.nring })
  match off with
  | 0x0900 => ras fun x => { x with base := v }
  | 0x0908 => ras fun x => { x with log := bits v 0 5 }
  | 0x0918 => ras fun x => { x with cons := bits v 0 32 }
  | 0x0940 => nring fun x => { x with base := v }
  | 0x0948 => nring fun x => { x with log := (bits v 0 4 : BitVec 4).setWidth 5 }
  | 0x0958 => nring fun x => { x with cons := bits v 0 32 }
  | 0x0990 => event (s.updDie die fun d => { d with rselead := bits v 0 32 })
  | 0x0998 => event (s.updDie die fun d => { d with rselow := v })
  | _ =>
    if die != 0 then event s
    else if off = 0x0988 then execFwcommit (v &&& 0xFFFFFFFF) s
    else if 0x0A00 ≤ off && off < 0x0B00 then event (s.writeWindow ((off - 0x0A00) / 16) (off / 8 % 2) v)
    else if off = 0x0B00 then event { s with expbase := v }
    else if off = 0x0B08 then event { s with expsize := bits v 0 32 }
    else event s

/-- REGISTER_WRITE (R363): an aligned 8-byte store to a die's control page; any other is dropped and logged. -/
def execRegisterWrite (die : Nat) (off : Nat) (width : Nat) (v : Word) (s : State) : Out :=
  if 4 ≤ die || 65536 ≤ off then event s
  else if width != 8 || off % 8 != 0 then event (s.ras die 0xD8 0xFFFF unitFront (0x2000000000000 + 0x10000 * die + off))
  else if off < 0x0800 then event (s.writeQueueReg die (off / 0x40) (off % 0x40) v)
  else if off < 0x0900 then s.writeCoreReg die ((off - 0x0800) / 0x40) (off % 0x40) v
  else s.writePageReg die off v

/-- A register of mapped queue `q` as a load of the page reads it. -/
def MQueue.readReg (m : MQueue) (r : Nat) : Word :=
  match r with
  | 0x00 => m.base
  | 0x08 => m.log.setWidth 64
  | 0x10 => m.asid.setWidth 64
  | 0x18 => m.own
  | 0x20 => m.ctl.setWidth 64
  | 0x28 => m.tail.setWidth 64
  | 0x30 => m.head.setWidth 64
  | _ => 0

/-- A register of a fault-service core as a load reads it; FRRET, which is WO, reads zero (R7). -/
def FaultCore.readReg (x : FaultCore) (r : Nat) : Word :=
  match r with
  | 0x00 => x.base
  | 0x08 => x.log.setWidth 64
  | 0x10 => x.prod.setWidth 64
  | 0x18 => x.cons.setWidth 64
  | _ => 0

/-- A register of the RAS log or of the notification ring as a load reads it; RASOVF is none of the latter's. -/
def Ring.readReg (x : Ring) (r : Nat) : Word :=
  match r with
  | 0x00 => x.base
  | 0x08 => x.log.setWidth 64
  | 0x10 => x.prod.setWidth 64
  | 0x18 => x.cons.setWidth 64
  | 0x20 => x.ovf.setWidth 64
  | _ => 0

/-- The FWSTAT word (R371): VER, TRIAL and RUN of the running slot. -/
def Firmware.stat (f : Firmware) : BitVec 32 :=
  f.running.ver ++ (0 : BitVec 12) ++ BitVec.ofBool f.trial ++ BitVec.ofBool f.runB ++ (0 : BitVec 2)

/-- Word `i` (0 or 1) of an attachment window as a load reads it: its RSV bits as zero (R7, R382). -/
def State.readWindow (s : State) (w i : Nat) : Word :=
  let x : Word := bits (vget 0 s.attwin w) (64 * i) 64
  x &&& if i = 0 then 0xFFFCFFFFFFFFFFFF else 0xFFFFFFFFF0000000

/-- A register of the package, which die 0's page holds; FWCOMMIT, which is WO, reads zero. -/
def State.readPackageReg (s : State) (off : Nat) : Word :=
  if off = 0x0980 then s.fw.stat.setWidth 64
  else if 0x0A00 ≤ off && off < 0x0B00 then s.readWindow ((off - 0x0A00) / 16) (off / 8 % 2)
  else if off = 0x0B00 then s.expbase
  else if off = 0x0B08 then s.expsize.setWidth 64
  else 0

/-- The register at an aligned offset of a die's page; an unlisted one reads zero. -/
def State.readReg (s : State) (die off : Nat) : Word :=
  let d := s.die die
  if off < 0x0800 then (s.mq die (off / 0x40)).readReg (off % 0x40)
  else if off < 0x0900 then (vget ⟨0, 0, 0, 0, []⟩ d.cores ((off - 0x0800) / 0x40)).readReg (off % 0x40)
  else if off < 0x0940 then d.ras.readReg (off - 0x0900)
  else if off < 0x0960 then d.nring.readReg (off - 0x0940)
  else if off = 0x0990 then d.rselead.setWidth 64
  else if off = 0x0998 then d.rselow
  else if die = 0 then s.readPackageReg off
  else 0

/-- A load from a die's control page (R363): of an aligned 8-byte register; any other reads zero and is logged. -/
def State.loadReg (s : State) (die off width : Nat) : State :=
  if width != 8 || off % 8 != 0 then
    { s.ras die 0xD8 0xFFFF unitFront (0x2000000000000 + 0x10000 * die + off) with answer := some (List.replicate width 0) }
  else { s with answer := some (toBytes 8 (s.readReg die off).toNat) }

/-- A byte of BAR0 as the host reads it (R385): NRCONS and NRPROD of each die; the rest is zero. -/
def State.barByte (s : State) (off : Nat) : Byte :=
  let r := (s.die (off / 0x40000)).nring
  let at_ := off % 0x40000
  let part := fun (v : BitVec 32) (k : Nat) => (bits v (8 * k) 8 : BitVec 8)
  if 0x200 ≤ at_ && at_ < 0x204 then part r.cons (at_ - 0x200)
  else if 0x208 ≤ at_ && at_ < 0x20C then part r.prod (at_ - 0x208)
  else 0

/-! ## Launch blocks (R70) -/

/-- Whether a launch of a block is queued or running. -/
def State.blockUsed (s : State) (h : BitVec 32) : Bool :=
  s.boxes.any fun q => q.2.queue.any (·.lbh == h) || q.2.current.any (·.lbh == h)

/-- LAUNCH_BLOCK_REGISTRATION (R70): the loader registers a block whose sections keep R35's limits, or withdraws one of
which no launch is queued or running. The spec does not say who chooses handles: a block under a handle that is registered
already takes the earlier one's place, also while a launch of that is queued or running (DESIGN CHOICE,
notes/assumptions/64.md). -/
def execLaunchBlockRegistration (b : BlockReg) (s : State) : Out :=
  let rest := s.blocks.filter (·.handle != b.handle)
  if b.withdraw then event (if s.blockUsed b.handle then s else { s with blocks := rest })
  else event (if wordsOk b then { s with blocks := rest ++ [b] } else s)

/-! ## Links and peers (R383, R387) -/

/-- LINK_DOWN (R383): accesses through the link get negative replies from now on. -/
def execLinkDown (link : Nat) (s : State) : Out := event { s with links := if link < 10 then setBit s.links link false else s.links }

/-- LINK_TRAINING (R387): a UALink port comes up, and the pod switch gives the accelerator its number. -/
def execLinkTraining (link : Nat) (accid : BitVec 10) (s : State) : Out :=
  if 2 ≤ link && link < 10 then event { s with links := setBit s.links link true, accid := accid } else event s

/-- Bytes that a peer's request covers. -/
def peerLen (r : PeerReq) : Nat :=
  match r.op with
  | .read n => n
  | .write d => d.length
  | .atomic _ n _ _ => n

/-- Whether a peer's request is served (R387): its port is up, its bytes are exported package HBM, and an atomic is one of
R216. -/
def State.peerOk (s : State) (r : PeerReq) : Bool :=
  let n := peerLen r
  let pa := s.expbase.toNat + r.off
  decide (2 ≤ r.link) && decide (r.link < 10) && s.links.getLsbD r.link && decide (0 < n)
    && decide (r.off + n ≤ s.expsize.toNat * 2 ^ 28)
    && (match placeOf pa with | .hbm _ => true | _ => false) && (match placeOf (pa + n - 1) with | .hbm _ => true | _ => false)
    && (match r.op with
        | .atomic aop n _ _ => (n == 4 || n == 8) && pa % n == 0 && decide (aop.toNat ≤ 6)
        | _ => true)

/-- UALINK_REQUEST (R387): a peer's write or atomic performed at its home, or its read served, with the bytes of the
response; a refused request gets an error response and a record, on a die chosen freely. A read returns no package write that
is not released at FABRIC; an atomic works on what stands at its home, and what a peer has written is seen at once
(DESIGN CHOICE, notes/assumptions/81.md). -/
def execUalinkRequest (r : PeerReq) (s : State) : Out :=
  let pa := s.expbase.toNat + r.off
  if !s.peerOk r then
    let (n, s) := s.draw
    event { s.ras (n % 4) 0xD8 0xFFFF unitFront r.off with answer := none }
  else
    match r.op with
    | .read n => event { s with answer := some ((rangeFrom pa n).map s.peerByte) }
    | .write d => event { (s.putBytes ((rangeFrom pa d.length).zip d)).shown (rangeFrom pa d.length) with answer := some [] }
    | .atomic aop n a b =>
      let locs := rangeFrom pa n
      let old := ofBytes (s.getBytes locs)
      event { (s.putBytes (locs.zip (toBytes n (atomicNew aop.toNat n (toBytes n a ++ toBytes n b) old)))).shown locs with
        answer := some (toBytes n old) }

end Sys2Proof.Machine
end

