-- ==== Sys2Proof/Machine/Rse.lean ====
section
/-!
DEFINITION. The residency engines: page moves (R213), promotion of wake sets (R214) and demotion (R215). The packed form of
key-value pages in the loft is not architectural; the bytes stand for themselves.
-/
namespace Sys2Proof.Machine

/-! ## Leaves in the table -/

/-- The leaf of a page written in its table. -/
def State.putLeaf (s : State) (asid : Nat) (page : Word) (f : Word → Word) : State :=
  match s.walk asid page.toNat with
  | none => s
  | some (l, pa) =>
    match s.loc pa with
    | none => s
    | some x => s.putBytes (atAddr x (toBytes 8 (f l).toNat))

/-- A leaf with a new TIER and PFN, and MV clear. -/
def moveLeaf (tier : BitVec 2) (pfn : Nat) (l : Word) : Word :=
  (l &&& 0xE7FBFFF000000000) ||| (BitVec.setWidth 64 tier <<< 59) ||| BitVec.ofNat 64 (pfn % 2 ^ 36)

/-- The locations of a page's 64 KiB at a tier and frame; those behind the absent tier are the page's own. -/
def State.frameLocs (s : State) (asid : Nat) (page : Word) (tier : BitVec 2) (pfn : Nat) : List Nat :=
  if tier = 3 then rangeFrom (backLoc asid page.toNat) 65536
  else (rangeFrom (pfn * 65536) 65536).map fun a => (s.loc a).getD (backLoc asid (page.toNat + a % 65536))

/-! ## A move (R213) -/

/-- Whether a store in flight goes to one of some locations. -/
def PendStore.goesTo (p : PendStore) (locs : List Nat) : Bool := p.locs.any (locs.contains ·)

/-- The stores in flight to a page written back to where it lies (R213, step 2); none while its stack, in forced
self-refresh, holds one of them (R219). -/
def State.writeBack (s : State) (asid : Nat) (page : Word) (l : Word) : Option State :=
  let locs := s.frameLocs asid page (lfTier l) (lfPfn l)
  let z := s.performEvery (·.goesTo locs)
  if z.tiles.toList.any fun x => x.stores.any (·.goesTo locs) then none else some z

/-- A move begins: MV is set and the page's translations are dropped (steps 1 and 2). -/
def State.beginMove (s : State) (die : Nat) (m : Move) : State :=
  ((s.putLeaf m.asid m.page (· ||| (1 <<< 50))).dropPage m.asid (m.page.toNat / 65536)).updDie die fun d => { d with move := some m }

/-- The frame that a page of a tier has held given back to the pools; of no tier it has held none. -/
def State.freeFrame (s : State) (die : Nat) (tier : BitVec 2) (pfn : Nat) : State :=
  if tier = 3 then s
  else match placeOf (pfn * 65536) with
  | .hbm d => s.updDie d fun x => { x with pool := x.pool ++ [pfn] }
  | .loft => s.updDie die fun x => { x with loftPool := x.loftPool ++ [pfn] }
  | _ => s

/-- A move given up because its copy got a negative reply: that is logged, MV is cleared, and the new frame goes back. The spec
names no other effect of such a reply (DESIGN CHOICE, notes/assumptions/80.md). -/
def State.giveUpMove (s : State) (die : Nat) (m : Move) (reason : Nat) : State :=
  (((s.nackLog die 0xFFFF unitRse reason).putLeaf m.asid m.page (setBit · 50 false)).freeFrame die m.tier m.pfn).dropPage
    m.asid (m.page.toNat / 65536)

/-- A move ends: the page's bytes copied, then PFN and TIER written and MV cleared in one write (steps 3 and 4); the copy
sets A and D (R208). One whose copy gets a negative reply is given up (R383). -/
def State.endMove (s : State) (die : Nat) (m : Move) : State :=
  let s := s.updDie die fun d => { d with move := none }
  match s.walk m.asid m.page.toNat with
  | none => s
  | some (l, _) =>
    let from_ := s.frameLocs m.asid m.page (lfTier l) (lfPfn l)
    let dest := s.frameLocs m.asid m.page m.tier m.pfn
    match (s.reply 0 from_ true).or (s.reply 0 dest false) with
    | some r => s.giveUpMove die m r.1
    | none =>
      let s := { s with mem := s.mem.writes (dest.zip (s.getBytes from_)) }
      let s := (s.touch m.asid true [m.page.toNat]).putLeaf m.asid m.page (moveLeaf m.tier m.pfn)
      (s.freeFrame die (lfTier l) (lfPfn l)).dropPage m.asid (m.page.toNat / 65536)

/-- Whether a leaf's page may be moved: sound, not pinned, and under no move (R211, R213). -/
def movable (l : Word) : Bool := leafOk l && !lfMv l && lfHome l != 1 && lfHome l != 2

/-- A promotion requested of a die taken off the list. -/
def State.dropWant (s : State) (die asid : Nat) (page : Word) : State :=
  { s with want := s.want.filter (· != (die, asid, page)) }

/-- The die whose request for a page came first: its RSE makes the move (R213). -/
def State.firstWant (s : State) (asid : Nat) (page : Word) : Option Nat := (s.want.find? (·.2 == (asid, page))).map (·.1)

/-- Whether the copy of a move waits for a stack in forced self-refresh, or for the words of a tile's beat (R219, R237). -/
def State.moveWaits (s : State) (m : Move) : Bool :=
  match s.walk m.asid m.page.toNat with
  | some (l, _) =>
    s.held (s.frameLocs m.asid m.page (lfTier l) (lfPfn l)) || s.held (s.frameLocs m.asid m.page m.tier m.pfn)
  | none => false

/-- RSE_MOVE (R213): a move that the die has begun ends; or the promotion of a page requested of it begins, where no other die
was asked for the page before it and a frame is free. -/
def execRseMove (die : Nat) (asid : Nat) (page : Word) (s : State) : Out :=
  match (s.die die).move with
  | some m => event (if m.asid = asid && m.page = page && !s.moveWaits m then s.endMove die m else s)
  | none =>
    if !s.want.contains (die, asid, page) then event s
    else match s.walk asid page.toNat with
      | none => event (s.dropWant die asid page)
      | some (l, _) =>
        if lfTier l == 0 || lfTier l == 1 then event (s.dropWant die asid page)
        else if !movable l || s.firstWant asid page != some die then event s
        else match (s.die die).pool, s.writeBack asid page l with
          | f :: r, some z =>
            let z := (z.dropWant die asid page).updDie die fun d => { d with pool := r }
            event (z.beginMove die ⟨asid, page, 1, f⟩)
          | _, _ => event s

/-! ## Wake sets (R214) -/

/-- RSE_WAKE_PROMOTION (R214): TIMEB has reached PWAKE less RSELEAD, and the wake set's promotion is asked for. The rule gives
the latest start: none begins earlier, and none ahead of the wake where PWAKE is 0 (DESIGN CHOICE, notes/assumptions/75.md). -/
def execRseWakePromotion (box : Nat) (s : State) : Out :=
  let x := s.box box
  let die := boxDie box
  if (x.state == .parked || x.state == .swapped) && x.pwake != 0
      && decide (x.pwake.toNat ≤ s.timeb + (s.die die).rselead.toNat) then
    event ((x.faults.map (·.page) ++ x.demoted).foldl (fun s p => s.wantPage die x.asid.toNat p) s)
  else event s

/-! ## Demotion (R215) -/

/-- The entries of a table of `n` words that are valid, with their indices. -/
def State.tableEntries (s : State) (pa n : Nat) : List (Nat × Word) :=
  (rangeFrom 0 n).filterMap fun i =>
    let w := s.paWord (pa + 8 * i)
    if w.getLsbD 63 then some (i, w) else none

/-- The mapped pages of an ASID with their leaves. -/
def State.mappedPages (s : State) (asid : Nat) : List (Word × Word) :=
  let a := sget ⟨false, 0⟩ s.asids asid
  if !a.v then []
  else
    (s.tableEntries a.root.toNat 32768).flatMap fun (i, e) =>
      (s.tableEntries (lfPfn e * 65536) 8192).flatMap fun (j, f) =>
        (s.tableEntries (lfPfn f * 65536) 8192).map fun (k, l) =>
          (BitVec.ofNat 64 (i * 2 ^ 42 + j * 2 ^ 29 + k * 65536), l)

/-- A page that may be demoted: its ASID and address, whether it holds key-value data, whether a SWAPPED context uses it,
and the latest PWAKE of the contexts that do. -/
structure Victim where
  asid : Nat
  page : Word
  kv : Bool
  swapped : Bool
  pwake : Nat
  deriving DecidableEq, Repr

/-- The pages in the HBM of a die that R215 lets its RSE demote. -/
def State.demotable (s : State) (die : Nat) : List Victim :=
  let asids := (s.boxes.map fun p => p.2.asid.toNat).eraseDups
  asids.flatMap fun a =>
    let xs := (s.boxes.filter fun p => p.2.asid.toNat == a && p.2.state != .free).map (·.2)
    if xs.isEmpty || xs.any fun x => x.state == .running || x.state == .ready then []
    else
      (s.mappedPages a).filterMap fun (p, l) =>
        if movable l && lfTier l == 1 && placeOf (lfPfn l * 65536) == .hbm die then
          some ⟨a, p, lfKv l, xs.any (·.state == .swapped), xs.foldl (fun n x => max n x.pwake.toNat) 0⟩
        else none

/-- The victims that R215 puts first. -/
def firstVictims (vs : List Victim) : List Victim :=
  let part := fun (sw kv : Bool) => vs.filter fun v => v.swapped == sw && v.kv == kv
  let late := fun (l : List Victim) => let m := l.foldl (fun n v => max n v.pwake) 0; l.filter (·.pwake == m)
  if !(part true true).isEmpty then part true true
  else if !(part true false).isEmpty then part true false
  else if !(part false true).isEmpty then late (part false true)
  else late (part false false)

/-- A demoted key-value page noted for every context of its ASID, at most 4,096 of them, the oldest dropped (R214). -/
def State.noteDemoted (s : State) (asid : Nat) (page : Word) : State :=
  { s with boxes := s.boxes.map fun p =>
      if p.2.asid.toNat == asid && p.2.state != .free then
        (p.1, { p.2 with demoted := (p.2.demoted ++ [page]).drop (p.2.demoted.length + 1 - 4096) })
      else p }

/-- RSE_DEMOTION (R215), on the die that `cur` names: its pool has fallen below the low mark, and the move of a victim
begins, to the loft, or to no tier when the loft is full and the page holds no key-value data. What PFN a page of no tier
holds is a free value. Where the loft is full and the first victims are key-value pages the spec does not say whether the
RSE passes on to other pages: it demotes nothing (DESIGN CHOICE, notes/assumptions/63.md). -/
def execRseDemotion (s : State) : Out :=
  let die := s.cur.at_
  let d := s.die die
  if d.move.isSome || decide (d.rselow.toNat ≤ d.pool.length) then event s
  else
    let vs := firstVictims (s.demotable die)
    let (n, s) := s.draw
    match vs[n % vs.length]?.bind fun v => ((s.walk v.asid v.page.toNat).bind fun p => s.writeBack v.asid v.page p.1).map fun z => (v, z) with
    | none => event s
    | some (v, s) =>
      match d.loftPool with
      | f :: r =>
        let s := (s.updDie die fun x => { x with loftPool := r })
        let s := if v.kv then s.noteDemoted v.asid v.page else s
        event (s.beginMove die ⟨v.asid, v.page, 2, f⟩)
      | [] =>
        if v.kv then event s
        else
          let (k, s) := s.draw
          event (s.beginMove die ⟨v.asid, v.page, 3, k % 2 ^ 36⟩)

end Sys2Proof.Machine
end

