-- ==== Sys2Proof/Machine/TrapWords.lean ====
section
/-!
DEFINITION. The trap words: TRAP, TRET and SYSC (R354 to R357).
-/
namespace Sys2Proof.Machine

/-- TRAP (R354). -/
def execTrap (f : FCI) (s : State) : Out :=
  runWord s (gated s
    (if f.q == 0 then .trap 0x08 (BitVec.setWidth 64 f.imm)
     else reading s [f.sa] (if s.reg f.sa != 0 then .trap 0x08 (BitVec.setWidth 64 f.imm) else .next s)))

/-- The return from a handler; `pass` moves the raising stream past its word after a precise cause (R355). -/
def opTret (s : State) (pass : Bool) : WRes :=
  gated s
    (if !s.me.trap.act then .trap 0x09 0
     else .exact (s.updTile s.cur.at_ fun x =>
       let y := x.leave
       if pass && !x.ctx.trap.tcause.getLsbD 10 then y.passCause else y))

/-- TRET (R355). -/
def execTret (_f : FCI) (s : State) : Out := runWord s (opTret s false)

/-- TRET 1 (R355). -/
def execTretPass (_f : FCI) (s : State) : Out := runWord s (opTret s true)

/-- A tile's part of its launch ends: ACT clears, frozen writes go, running engine streams stop with their words landed,
and nothing issues any more (R288, R356). -/
def Ctx.endPart (c : Ctx) : Ctx :=
  let c := c.landEngines
  let stop := fun (y : Stream) => { y with running := false, ended := false, levels := [] }
  { c with frozen := [], trap := { c.trap with act := false }, done := true, v := stop c.v, x := stop c.x, s := stop c.s }

/-- SYSC 0 (R288, R356). -/
def execSyscExit (_f : FCI) (s : State) : Out :=
  runWord s (gated s (if s.me.lockstep then .trap 0x0B 0 else .next (s.updMe Ctx.endPart)))

/-- SYSC 1 (R356, R386): it waits as FENCE.rel.fabric and for room in the ring, then posts the notification. -/
def execSyscNotify (f : FCI) (s : State) : Out :=
  runWord s (gated s
    (if s.me.lockstep then .trap 0x0B 0
     else reading s [f.sa]
       (if s.storesOut then .stall s 0 0
        else
          match s.releaseMine.putNotif (boxDie s.myBox) ⟨2, 0, 0xFF, false, BitVec.ofNat 16 s.myBox, s.here.rank, s.reg f.sa⟩ with
          | some s' => .next s'
          | none => .stall s 0 0)))

end Sys2Proof.Machine
end

