-- ==== Sys2Proof/Machine/Dispatch.lean ====
section
/-!
DEFINITION. Which meaning each instruction and event has: one arm for each constructor of `Instr`.
-/
namespace Sys2Proof.Machine

/-- One instruction or event at state `s`. -/
def exec (i : Instr) (s : State) : Host.Outcome State Fault Refusal :=
  match i with
  | .nop => Sys2Proof.Machine.execNop s
  | .tend => Sys2Proof.Machine.execTend s
  | .srep f => Sys2Proof.Machine.execSrep f s
  | .waitc f => Sys2Proof.Machine.execWaitc f s
  | .tgo f => Sys2Proof.Machine.execTgo f s
  | .add f => Sys2Proof.Machine.execAdd f s
  | .sub f => Sys2Proof.Machine.execSub f s
  | .and f => Sys2Proof.Machine.execAnd f s
  | .or f => Sys2Proof.Machine.execOr f s
  | .xor f => Sys2Proof.Machine.execXor f s
  | .sll f => Sys2Proof.Machine.execSll f s
  | .srl f => Sys2Proof.Machine.execSrl f s
  | .sra f => Sys2Proof.Machine.execSra f s
  | .mul f => Sys2Proof.Machine.execMul f s
  | .mulh f => Sys2Proof.Machine.execMulh f s
  | .div f => Sys2Proof.Machine.execDiv f s
  | .rem f => Sys2Proof.Machine.execRem f s
  | .min f => Sys2Proof.Machine.execMin f s
  | .max f => Sys2Proof.Machine.execMax f s
  | .cmpeq f => Sys2Proof.Machine.execCmpeq f s
  | .cmplt f => Sys2Proof.Machine.execCmplt f s
  | .cmpltu f => Sys2Proof.Machine.execCmpltu f s
  | .sel f => Sys2Proof.Machine.execSel f s
  | .addi f => Sys2Proof.Machine.execAddi f s
  | .andi f => Sys2Proof.Machine.execAndi f s
  | .ori f => Sys2Proof.Machine.execOri f s
  | .xori f => Sys2Proof.Machine.execXori f s
  | .slli f => Sys2Proof.Machine.execSlli f s
  | .srli f => Sys2Proof.Machine.execSrli f s
  | .srai f => Sys2Proof.Machine.execSrai f s
  | .lui f => Sys2Proof.Machine.execLui f s
  | .muli f => Sys2Proof.Machine.execMuli f s
  | .cmpeqi f => Sys2Proof.Machine.execCmpeqi f s
  | .cmplti f => Sys2Proof.Machine.execCmplti f s
  | .ld f => Sys2Proof.Machine.execLd f s
  | .st f => Sys2Proof.Machine.execSt f s
  | .amoadd f => Sys2Proof.Machine.execAmoadd f s
  | .amoswap f => Sys2Proof.Machine.execAmoswap f s
  | .amocas f => Sys2Proof.Machine.execAmocas f s
  | .amomin f => Sys2Proof.Machine.execAmomin f s
  | .amomax f => Sys2Proof.Machine.execAmomax f s
  | .beq f => Sys2Proof.Machine.execBeq f s
  | .bne f => Sys2Proof.Machine.execBne f s
  | .blt f => Sys2Proof.Machine.execBlt f s
  | .bge f => Sys2Proof.Machine.execBge f s
  | .bltu f => Sys2Proof.Machine.execBltu f s
  | .bgeu f => Sys2Proof.Machine.execBgeu f s
  | .jal f => Sys2Proof.Machine.execJal f s
  | .jalr f => Sys2Proof.Machine.execJalr f s
  | .kbr f => Sys2Proof.Machine.execKbr f s
  | .loop f => Sys2Proof.Machine.execLoop f s
  | .lprot f => Sys2Proof.Machine.execLprot f s
  | .mfs f => Sys2Proof.Machine.execMfs f s
  | .mts f => Sys2Proof.Machine.execMts f s
  | .mtsClkrq f => Sys2Proof.Machine.execMtsClkrq f s
  | .mtsLpbegLpend f => Sys2Proof.Machine.execMtsLpbegLpend f s
  | .mtsLpcnt f => Sys2Proof.Machine.execMtsLpcnt f s
  | .mtsEvpend f => Sys2Proof.Machine.execMtsEvpend f s
  | .mtsSflags f => Sys2Proof.Machine.execMtsSflags f s
  | .fence f => Sys2Proof.Machine.execFence f s
  | .ceapp f => Sys2Proof.Machine.execCeapp f s
  | .cetail f => Sys2Proof.Machine.execCetail f s
  | .binit f => Sys2Proof.Machine.execBinit f s
  | .barrive f => Sys2Proof.Machine.execBarrive f s
  | .bwait f => Sys2Proof.Machine.execBwait f s
  | .btest f => Sys2Proof.Machine.execBtest f s
  | .qsend f => Sys2Proof.Machine.execQsend f s
  | .qrecv f => Sys2Proof.Machine.execQrecv f s
  | .qpoll f => Sys2Proof.Machine.execQpoll f s
  | .kpop f => Sys2Proof.Machine.execKpop f s
  | .cxsw f => Sys2Proof.Machine.execCxsw f s
  | .cxpark f => Sys2Proof.Machine.execCxpark f s
  | .cxyield f => Sys2Proof.Machine.execCxyield f s
  | .slsub f => Sys2Proof.Machine.execSlsub f s
  | .slget f => Sys2Proof.Machine.execSlget f s
  | .slcfgDrain f => Sys2Proof.Machine.execSlcfgDrain f s
  | .slcfgFlush f => Sys2Proof.Machine.execSlcfgFlush f s
  | .trap f => Sys2Proof.Machine.execTrap f s
  | .tret f => Sys2Proof.Machine.execTret f s
  | .tretPass f => Sys2Proof.Machine.execTretPass f s
  | .syscExit f => Sys2Proof.Machine.execSyscExit f s
  | .syscNotify f => Sys2Proof.Machine.execSyscNotify f s
  | .vadd f => Sys2Proof.Machine.execVadd f s
  | .vsub f => Sys2Proof.Machine.execVsub f s
  | .vmul f => Sys2Proof.Machine.execVmul f s
  | .vfma f => Sys2Proof.Machine.execVfma f s
  | .vfms f => Sys2Proof.Machine.execVfms f s
  | .vnfma f => Sys2Proof.Machine.execVnfma f s
  | .vmin f => Sys2Proof.Machine.execVmin f s
  | .vmax f => Sys2Proof.Machine.execVmax f s
  | .vabs f => Sys2Proof.Machine.execVabs f s
  | .vneg f => Sys2Proof.Machine.execVneg f s
  | .vand f => Sys2Proof.Machine.execVand f s
  | .vor f => Sys2Proof.Machine.execVor f s
  | .vxor f => Sys2Proof.Machine.execVxor f s
  | .vandn f => Sys2Proof.Machine.execVandn f s
  | .vsll f => Sys2Proof.Machine.execVsll f s
  | .vsrl f => Sys2Proof.Machine.execVsrl f s
  | .vsra f => Sys2Proof.Machine.execVsra f s
  | .vfsl f => Sys2Proof.Machine.execVfsl f s
  | .vfsr f => Sys2Proof.Machine.execVfsr f s
  | .vmulh f => Sys2Proof.Machine.execVmulh f s
  | .vavg f => Sys2Proof.Machine.execVavg f s
  | .vclz f => Sys2Proof.Machine.execVclz f s
  | .vpopc f => Sys2Proof.Machine.execVpopc f s
  | .vsel f => Sys2Proof.Machine.execVsel f s
  | .vmov f => Sys2Proof.Machine.execVmov f s
  | .vexp f => Sys2Proof.Machine.execVexp f s
  | .vrcp f => Sys2Proof.Machine.execVrcp f s
  | .vrsq f => Sys2Proof.Machine.execVrsq f s
  | .vaddi f => Sys2Proof.Machine.execVaddi f s
  | .vmuli f => Sys2Proof.Machine.execVmuli f s
  | .vslli f => Sys2Proof.Machine.execVslli f s
  | .vsrli f => Sys2Proof.Machine.execVsrli f s
  | .vsrai f => Sys2Proof.Machine.execVsrai f s
  | .vfsli f => Sys2Proof.Machine.execVfsli f s
  | .vfsri f => Sys2Proof.Machine.execVfsri f s
  | .vsplat f => Sys2Proof.Machine.execVsplat f s
  | .vcvt f => Sys2Proof.Machine.execVcvt f s
  | .vpack f => Sys2Proof.Machine.execVpack f s
  | .vunpk f => Sys2Proof.Machine.execVunpk f s
  | .vrsum f => Sys2Proof.Machine.execVrsum f s
  | .vrmax f => Sys2Proof.Machine.execVrmax f s
  | .vrmin f => Sys2Proof.Machine.execVrmin f s
  | .vgmax f => Sys2Proof.Machine.execVgmax f s
  | .vgsum f => Sys2Proof.Machine.execVgsum f s
  | .vrarg f => Sys2Proof.Machine.execVrarg f s
  | .vld f => Sys2Proof.Machine.execVld f s
  | .vst f => Sys2Proof.Machine.execVst f s
  | .vstu f => Sys2Proof.Machine.execVstu f s
  | .vldm f => Sys2Proof.Machine.execVldm f s
  | .vstm f => Sys2Proof.Machine.execVstm f s
  | .vcpush f => Sys2Proof.Machine.execVcpush f s
  | .vcpop f => Sys2Proof.Machine.execVcpop f s
  | .vswcfg f => Sys2Proof.Machine.execVswcfg f s
  | .vswget f => Sys2Proof.Machine.execVswget f s
  | .vtopk f => Sys2Proof.Machine.execVtopk f s
  | .vconf f => Sys2Proof.Machine.execVconf f s
  | .vcmpeq f => Sys2Proof.Machine.execVcmpeq f s
  | .vcmplt f => Sys2Proof.Machine.execVcmplt f s
  | .vcmple f => Sys2Proof.Machine.execVcmple f s
  | .vkset f => Sys2Proof.Machine.execVkset f s
  | .vkclr f => Sys2Proof.Machine.execVkclr f s
  | .xlnt f => Sys2Proof.Machine.execXlnt f s
  | .xclaim f => Sys2Proof.Machine.execXclaim f s
  | .xrel f => Sys2Proof.Machine.execXrel f s
  | .xfill f => Sys2Proof.Machine.execXfill f s
  | .xzero f => Sys2Proof.Machine.execXzero f s
  | .xdrain f => Sys2Proof.Machine.execXdrain f s
  | .xcvt f => Sys2Proof.Machine.execXcvt f s
  | .xscld f => Sys2Proof.Machine.execXscld f s
  | .xmeta f => Sys2Proof.Machine.execXmeta f s
  | .xstat f => Sys2Proof.Machine.execXstat f s
  | .xscale f => Sys2Proof.Machine.execXscale f s
  | .xspar f => Sys2Proof.Machine.execXspar f s
  | .xgo f => Sys2Proof.Machine.execXgo f s
  | .sup f => Sys2Proof.Machine.execSup f s
  | .sdown f => Sys2Proof.Machine.execSdown f s
  | .ssum f => Sys2Proof.Machine.execSsum f s
  | .smul f => Sys2Proof.Machine.execSmul f s
  | .sld f => Sys2Proof.Machine.execSld f s
  | .sst f => Sys2Proof.Machine.execSst f s
  | .sldw f => Sys2Proof.Machine.execSldw f s
  | .sstg f => Sys2Proof.Machine.execSstg f s
  | .smov f => Sys2Proof.Machine.execSmov f s
  | .sresc f => Sys2Proof.Machine.execSresc f s
  | .scvti f => Sys2Proof.Machine.execScvti f s
  | .scvto f => Sys2Proof.Machine.execScvto f s
  | .sevid f => Sys2Proof.Machine.execSevid f s
  | .szero f => Sys2Proof.Machine.execSzero f s
  | .sone f => Sys2Proof.Machine.execSone f s
  | .snorm f => Sys2Proof.Machine.execSnorm f s
  | .sgexp f => Sys2Proof.Machine.execSgexp f s
  | .smarg f => Sys2Proof.Machine.execSmarg f s
  | .loadValueLand t n => Sys2Proof.Machine.execLoadValueLand t n s
  | .atomicOldValueLand t n => Sys2Proof.Machine.execAtomicOldValueLand t n s
  | .fetchPageAbsent t e => Sys2Proof.Machine.execFetchPageAbsent t e s
  | .fetchDiscard t e => Sys2Proof.Machine.execFetchDiscard t e s
  | .waitThresholdExpiry t e => Sys2Proof.Machine.execWaitThresholdExpiry t e s
  | .preemptRequest box => Sys2Proof.Machine.execPreemptRequest box s
  | .preemptSaveComplete box => Sys2Proof.Machine.execPreemptSaveComplete box s
  | .contextWake box => Sys2Proof.Machine.execContextWake box s
  | .launchEnd box => Sys2Proof.Machine.execLaunchEnd box s
  | .launchComplete box => Sys2Proof.Machine.execLaunchComplete box s
  | .budgetSpent rcb => Sys2Proof.Machine.execBudgetSpent rcb s
  | .periodStart rcb => Sys2Proof.Machine.execPeriodStart rcb s
  | .startTimestampReached box => Sys2Proof.Machine.execStartTimestampReached box s
  | .timer box => Sys2Proof.Machine.execTimer box s
  | .rseMove die asid page => Sys2Proof.Machine.execRseMove die asid page s
  | .rseWakePromotion box => Sys2Proof.Machine.execRseWakePromotion box s
  | .hbmRead die stack => Sys2Proof.Machine.execHbmRead die stack s
  | .hbmWrite die stack => Sys2Proof.Machine.execHbmWrite die stack s
  | .hbmAtomic die stack => Sys2Proof.Machine.execHbmAtomic die stack s
  | .hbmReply die stack => Sys2Proof.Machine.execHbmReply die stack s
  | .thermalSr die stack enter => Sys2Proof.Machine.execThermalSr die stack enter s
  | .ceFetch box chain => Sys2Proof.Machine.execCeFetch box chain s
  | .piece box chain k j => Sys2Proof.Machine.execPiece box chain k j s
  | .mark box chain k => Sys2Proof.Machine.execMark box chain k s
  | .queueMessageArrival box pair => Sys2Proof.Machine.execQueueMessageArrival box pair s
  | .faultRecordPost die core => Sys2Proof.Machine.execFaultRecordPost die core s
  | .frretResume die core idx => Sys2Proof.Machine.execFrretResume die core idx s
  | .frretCancel die core idx => Sys2Proof.Machine.execFrretCancel die core idx s
  | .sample c => Sys2Proof.Machine.execSample c s
  | .short c => Sys2Proof.Machine.execShort c s
  | .merge c => Sys2Proof.Machine.execMerge c s
  | .verify c => Sys2Proof.Machine.execVerify c s
  | .compact c => Sys2Proof.Machine.execCompact c s
  | .backfill c => Sys2Proof.Machine.execBackfill c s
  | .launch p => Sys2Proof.Machine.execLaunch p s
  | .wait p => Sys2Proof.Machine.execWait p s
  | .waitSatisfied die q => Sys2Proof.Machine.execWaitSatisfied die q s
  | .waitTimeout die q => Sys2Proof.Machine.execWaitTimeout die q s
  | .cancel p => Sys2Proof.Machine.execCancel p s
  | .create p => Sys2Proof.Machine.execCreate p s
  | .destroy p => Sys2Proof.Machine.execDestroy p s
  | .swap p => Sys2Proof.Machine.execSwap p s
  | .halt p => Sys2Proof.Machine.execHalt p s
  | .signal p => Sys2Proof.Machine.execSignal p s
  | .wakehint p => Sys2Proof.Machine.execWakehint p s
  | .track p => Sys2Proof.Machine.execTrack p s
  | .xinv p => Sys2Proof.Machine.execXinv p s
  | .aspace p => Sys2Proof.Machine.execAspace p s
  | .region p => Sys2Proof.Machine.execRegion p s
  | .rclock p => Sys2Proof.Machine.execRclock p s
  | .chbind p => Sys2Proof.Machine.execChbind p s
  | .prbind p => Sys2Proof.Machine.execPrbind p s
  | .model p => Sys2Proof.Machine.execModel p s
  | .attest p => Sys2Proof.Machine.execAttest p s
  | .keyexp p => Sys2Proof.Machine.execKeyexp p s
  | .keyimp p => Sys2Proof.Machine.execKeyimp p s
  | .debugCmd p => Sys2Proof.Machine.execDebug p s
  | .keywipe p => Sys2Proof.Machine.execKeywipe p s
  | .power p => Sys2Proof.Machine.execPower p s
  | .fwload p => Sys2Proof.Machine.execFwload p s
  | .fwcommit v => Sys2Proof.Machine.execFwcommit v s
  | .doorbell die q width v => Sys2Proof.Machine.execDoorbell die q width v s
  | .edgeRelease box => Sys2Proof.Machine.execEdgeRelease box s
  | .ualinkRequest r => Sys2Proof.Machine.execUalinkRequest r s
  | .linkTraining link accid => Sys2Proof.Machine.execLinkTraining link accid s
  | .registerWrite die off width v => Sys2Proof.Machine.execRegisterWrite die off width v s
  | .launchBlockRegistration b => Sys2Proof.Machine.execLaunchBlockRegistration b s
  | .linkDown link => Sys2Proof.Machine.execLinkDown link s
  | .xgoStep => Sys2Proof.Machine.execXgoStep s
  | .xWordComplete => Sys2Proof.Machine.execXWordComplete s
  | .sWordComplete => Sys2Proof.Machine.execSWordComplete s
  | .pendingWriteLand => Sys2Proof.Machine.execPendingWriteLand s
  | .storePerformed => Sys2Proof.Machine.execStorePerformed s
  | .crossDieWritePerform => Sys2Proof.Machine.execCrossDieWritePerform s
  | .asyncCauseDelivery => Sys2Proof.Machine.execAsyncCauseDelivery s
  | .selection => Sys2Proof.Machine.execSelection s
  | .grantChange => Sys2Proof.Machine.execGrantChange s
  | .rseDemotion => Sys2Proof.Machine.execRseDemotion s
  | .backfillDispatch => Sys2Proof.Machine.execBackfillDispatch s
  | .debugExpiry => Sys2Proof.Machine.execDebugExpiry s
  | .fwRevert => Sys2Proof.Machine.execFwRevert s
  | .packageReset => Sys2Proof.Machine.execPackageReset s
  | .completionWordWrite => Sys2Proof.Machine.execCompletionWordWrite s
  | .notificationPost => Sys2Proof.Machine.execNotificationPost s
  | .stealOffer => Sys2Proof.Machine.execStealOffer s
  | .tileGate => Sys2Proof.Machine.execTileGate s
  | .dieWake => Sys2Proof.Machine.execDieWake s
  | .packageWake => Sys2Proof.Machine.execPackageWake s
  | .vWordLand => Sys2Proof.Machine.execVWordLand s

end Sys2Proof.Machine
end

