-- ==== Sys2Proof/Machine/Issue.lean ====
section
/-!
DEFINITION. The issue of a tile's words: the attempt of one word, what a trap, a park or a member's stall at the same beat
does to it, and the order of the words of one beat (R33, R37, R51 to R53, R137, R237, R263, R302, R343, R352, R353, R359,
R360).
-/
namespace Sys2Proof.Machine

/-- The cause code of a word that is not an instruction (R51). -/
def rejectCode (r : Reject) : BitVec 8 :=
  match r with
  | .unassigned => 0x01
  | .field => 0x02
  | .value => 0x03

/-- The state at which a fetched word runs: a corrected error of its bytes noted, its page accessed, and the word named by
`cur` (R176, R208, R267). -/
def State.atIssue (s : State) (t : Nat) (e : Strm) (w : Word) : State :=
  let idx := (s.ctx t).pcOf e
  let va := (s.fetchVa t e idx).toNat
  let b := ((s.tile t).box).getD 0
  let s := s.correct t (s.fetchLocs t e idx)
  let s := (s.touch (s.asidOf t) false [va]).ceasePages b [va / 65536 * 65536]
  { s with cur := ⟨t, e, w, idx, 0, b, (s.tile t).rank⟩ }

/-- The next word of stream `e` on tile `t` at issue (R51, R224, R359). What TWORD holds after an index beyond the section
is a free value (notes/assumptions/10.md). -/
def State.attempt (s : State) (t : Nat) (e : Strm) : Out :=
  let idx := (s.ctx t).pcOf e
  if (s.ctx t).isRefused e then .next (s.stallWord t e 0 0)
  else match s.fetch t e idx with
  | .outside =>
    let (n, s) := s.draw
    .next (s.takeTrap t e idx 0x05 (BitVec.ofNat 64 idx) (BitVec.ofNat 64 n) (s.remIdle t .c))
  | .failed va => .next (s.takeTrap t e idx 0x47 va 0 (s.remIdle t .c))
  | .absent page => .next (s.fetchAbsent t e page)
  | .error va =>
    if vget false (s.tile t).retried e.num then
      .next (s.takeTrap t e idx 0xD2 (va &&& ~~~63) 0 (s.remIdle t .c))
    else .next ((s.updTile t fun x => { x with retried := vput x.retried e.num true }).stallWord t e 0 0)
  | .nack =>
    let x := s.tile t
    match x.box with
    | none => .next s
    | some b =>
      .next (((s.nacked t b x.rank (3, 0)).updCtx t fun c =>
        { c with refused := vput c.refused e.num (some (idx, nackCause 3)) }).stallWord t e 0 0)
  | .word w =>
    let s := s.atIssue t e w
    match decode e w with
    | .error r => .next (s.takeTrap t e idx (rejectCode r) 0 w (s.remIdle t .c))
    | .ok i => exec i s

/-- The state that an outcome leaves, if it is a next state. -/
def nextOf (o : Out) : Option State :=
  match o with
  | .next s => some s
  | _ => none

/-- The outcomes that the streams which can issue meet at this beat, in the order C, V, X, S (R52). -/
def State.tries (s : State) (t : Nat) : List (Strm × State) :=
  [Strm.c, .v, .x, .s].filterMap fun e =>
    if s.canIssue t e then (nextOf (s.attempt t e)).map fun z => (e, z) else none

/-- A park that is no consequence of a precise cause: it takes the boundary first (R353). -/
def parks (b : Nat) (z : State) : Bool := z.last == .parked && (z.box b).reason != 0x0D

/-- A precise cause: a trap, or the halt that stands for it (R351). -/
def traps (z : State) : Bool :=
  match z.last with
  | .trapped _ => true
  | .parked => true
  | _ => false

/-- A word that writes the condition vectors kw (R123). -/
def writesKw (i : Instr) : Bool :=
  match i with
  | .vcmpeq _ | .vcmplt _ | .vcmple _ | .vkset _ | .vkclr _ => true
  | _ => false

/-- The instruction of a stream's next word, if it can be fetched and is one. -/
def State.nextInstr (s : State) (t : Nat) (e : Strm) : Option Instr :=
  match s.fetch t e ((s.ctx t).pcOf e) with
  | .word w => (decode e w).toOption
  | _ => none

/-- Whether V's word of this beat comes before the LPROT of this beat: a write of kw, which the hand-off takes with it
(R122, R137). -/
def State.kwFirst (s : State) (t : Nat) : Bool :=
  (match s.nextInstr t .c with | some (.lprot _) => true | _ => false)
    && s.canIssue t .v && ((s.nextInstr t .v).map writesKw).getD false

/-- The words that act across a team, or on what its tiles share, in a fixed order within one beat: the context
instructions, by rank; publishing and SLSUB, by tile (R263, R302, R343). -/
inductive Shared where
  | none | byRank | byTile
  deriving DecidableEq, Repr

/-- The class of a word. -/
def sharedClass (i : Option Instr) : Shared :=
  match i with
  | some (.cxsw _) | some (.cxpark _) | some (.cxyield _) => .byRank
  | some (.ceapp _) | some (.cetail _) | some (.slsub _) => .byTile
  | _ => .none

/-- Whether the C word at issue on tile `t` comes before, or at one beat with but after, none of its team that is still to
act: every tile that the order puts first has passed this beat of the team, or has no word of the class due at it (R263,
R302, R343). -/
def State.myTurn (s : State) (t : Nat) : Bool :=
  let x := s.tile t
  let k := sharedClass (s.nextInstr t .c)
  let team := (s.box (x.box.getD 0)).tiles
  match k with
  | .none => true
  | k => (team.filter (· != t)).all fun u =>
    let y := s.tile u
    let first := if k == .byRank then decide (y.rank < x.rank) else decide (u < t)
    let at_ := x.beat - x.base
    let yet := y.beat - y.base
    !first || !y.ctx.active .c || decide (at_ < yet)
      || (yet == at_ && !(s.canIssue u .c && sharedClass (s.nextInstr u .c) == k))

/-- The memory that a C word reads when it issues: address and bytes. -/
def CRegs.readsAt (c : CRegs) (i : Instr) : Option (Word × Nat) :=
  let cm := fun (f : FCM) => some (c.read f.sa + f.off.signExtend 64, FCMbytes f)
  match i with
  | .ld f | .amoadd f | .amoswap f | .amocas f | .amomin f | .amomax f => cm f
  | .barrive f | .bwait f | .btest f => some (c.read f.sa, 16)
  | .slsub f | .ceapp f => some (c.read f.sa, 64)
  | .slget f => some (c.read f.sa, 8)
  | .fence f => if f.sa = 0 then none else some (c.read f.sa, 264)
  | _ => none

/-- Whether the C word at issue on tile `t` may read what it reads of other tiles' SRAM: none of them is at the words of a
beat, whose order with it is open (R237). C comes first at its own beat, so that no two tiles wait for each other. -/
def State.farReady (s : State) (t : Nat) : Bool :=
  match (s.nextInstr t .c).bind (s.ctx t).c.readsAt with
  | none => true
  | some (va, n) =>
    match (s.reach (s.asidOf t) va.toNat n false).1 with
    | .ok locs _ => !locs.any fun l => !inWindow t l && s.midBeat l
    | _ => true

/-- A C word after which no other stream issues at its beat: the part of the launch has ended, or the tile is given up. -/
def endsBeat (s : State) (t : Nat) (z : State) : Bool := (z.ctx t).done || (z.box ((s.tile t).box.getD 0)).state != .running

/-- What takes the boundary before the present beat of tile `t`: a park, also one for a wait past the threshold; then the
delivery of an asynchronous cause; then a precise cause of any stream (R52, R353). -/
def State.atBoundary (s : State) (t : Nat) : Option State :=
  let b := ((s.tile t).box).getD 0
  let tr := s.tries t
  match tr.findSome? fun p => if parks b p.2 then some p.2 else if (s.tile t).issued = 0 then p.2.parkOverdue t else none with
  | some z => some z
  | none =>
    match if (s.tile t).issued = 0 then s.parkOverdue t else none with
    | some z => some z
    | none =>
      if s.delivers t then some (s.deliver t)
      else (tr.find? fun p => traps p.2).map (·.2)

/-- The stream of tile `t` that acts next at its present beat, in the order C, V, X, S, so that what they do to the tile's
SRAM comes in the order of R237: V before an LPROT that hands its condition vectors off, and the other streams before a
context instruction that gives the tile up (R137, R237). -/
def State.nextStrm (s : State) (t : Nat) : Option Strm :=
  let can := [Strm.c, .v, .x, .s].filter (s.canIssue t ·)
  let others := can.filter (· != .c)
  if s.kwFirst t then some .v
  else if sharedClass (s.nextInstr t .c) == .byRank then (others ++ can).head?
  else can.head?

/-- The issue of a stream of tile `t` at the present beat: what takes the boundary comes first, and a member that stalls
holds its region (R37, R52, R353); else the stream whose turn it is acts. -/
def State.issueAt (s : State) (t : Nat) : Out :=
  if s.canIssue t .c && !s.farReady t then .next { s with last := .event }
  else match s.atBoundary t with
  | some z => .next z
  | none =>
    match (s.tries t).find? (fun p => (s.ctx t).member p.1 && p.2.last == .stalled) with
    | some p => .next p.2
    | none =>
      match s.nextStrm t with
      | none => .next { s with last := .event }
      | some e => if e == .c && !s.myTurn t then .next { s with last := .event } else s.attempt t e

/-- The tile's beat ends once every word due at it has issued or stalled; what takes the boundary comes first. -/
def State.tick (s : State) (t : Nat) : State :=
  let s := { s with last := .event }
  match (if (s.tile t).issued = 0 then s.parkOverdue t else none) with
  | some z => z
  | none =>
    if s.delivers t && !s.waitOpen t then s.deliver t
    else if (s.tile t).gated || [Strm.c, .v, .x, .s].any (s.canIssue t ·) then s
    else s.endBeat t

/-- What takes the boundary at which a pre-emption could save a team (R27, R30, R353, R360). -/
def State.beforeSave (s : State) (b : Nat) : Option State :=
  let x := s.box b
  if x.state != .running || !x.preempt || x.tiles.any (fun t => (s.tile t).issued != 0 || s.entered t) then none
  else x.tiles.findSome? s.atBoundary

/-- The time from which a die has had free tiles and an empty run list (R370). -/
def State.markIdle (s : State) (die : Nat) : State :=
  let idle := !(s.freeTiles die).isEmpty && (s.runList die).isEmpty
  s.updDie die fun d => { d with idleSince := if idle then some (d.idleSince.getD s.timeb) else none }

/-- `n` nanoseconds of TIMEB pass: each running team charges 2 n reference beats for each of its tiles to the blocks above
it (R280, R294). -/
def State.pass (s : State) (n : Nat) : State :=
  let charge := fun (s : State) (p : Nat × Box) =>
    if p.2.state = .running then
      (s.charged (boxDie p.1) p.2.rcb).foldl
        (fun s r => s.updRegion r.die r.va fun y => { y with used := y.used + 2 * n * p.2.tiles.length }) s
    else s
  let s := s.boxes.foldl charge s
  let s := (rangeFrom 0 4).foldl (fun s d => s.markIdle d) s
  { s with timeb := s.timeb + n, last := .event }

end Sys2Proof.Machine
end

