-- ==== Sys2Proof/Machine/Agents.lean ====
section
/-!
DEFINITION. The actions of the agents (R232): the words of a tile, its beats, time, the units, the queue threads, the
events of the table, and what the world outside does to the package.
-/
namespace Sys2Proof.Machine

/-- Whether an instruction is an event of the table: no word, no packet, no unit command. -/
def isEvent (i : Instr) : Bool := (streamsOf i).isEmpty && (encodePacket i).isNone && (encodeUnit i).isNone

/-- The locations of `n` bytes from a physical address; none where one of them has no place. -/
def State.locsOf (s : State) (pa n : Nat) : Option (List Nat) := (rangeFrom pa n).mapM s.loc

/-- A write that another agent than a stream makes at a physical address; one that reaches no memory has no effect. It
sets no full bit (R177). -/
def State.outerStore (s : State) (pa : Nat) (data : List Byte) : State :=
  match s.locsOf pa data.length with
  | none => s
  | some ls => s.putBytes (ls.zip data)

/-- A soft error at a physical address (R176, R217), or a completer there that aborts from now on (R383). -/
def State.softError (s : State) (pa kind : Nat) : State :=
  match s.loc pa with
  | none => s
  | some l =>
    match kind with
    | 0 => { s with ces := insertNat s.ces l }
    | 1 => { s with ues := insertNat s.ues l }
    | _ => { s with aborts := insertNat s.aborts l }

/-- The errors at an address gone. -/
def State.scrub (s : State) (pa : Nat) : State :=
  match s.loc pa with
  | none => s
  | some l => { s with ces := eraseNat s.ces l, ues := eraseNat s.ues l, aborts := eraseNat s.aborts l }

/-- The oldest command of unit `u` of a die runs (R326, R327). -/
def State.runQueued (s : State) (die u : Nat) : Out :=
  match s.unitQueue die u with
  | [] => .next s
  | c :: _ =>
    let s := { s with cur := { s.cur with at_ := die, sub := u, box := c.box, rank := c.rank } }
    match decodeUnit u c.raw with
    | some i => exec i s
    | none => s.badUnit c

/-- The thread of a queue at work (R364): on the packet it holds, else on the next of its ring. -/
def State.takePacket (s : State) (die q : Nat) : Out :=
  let s := { s with cur := { s.cur with at_ := die, sub := q } }
  let m := s.mq die q
  if !m.ctl.getLsbD 0 || (s.die die).ps2 || s.ps3 then .next s
  else match m.busy with
    | some b => if b.completing then .next s else exec b.cmd s
    | none =>
      if m.head = m.tail || m.log.toNat < 4 || 12 < m.log.toNat || m.base.toNat % 4096 != 0 then .next s
      else
        let slot := m.base + BitVec.ofNat 64 (64 * (m.head.toNat % 2 ^ m.log.toNat))
        match s.frontRead 0 slot 64 with
        | .wait s => .next s
        | .bad s => .next s
        | .ok b s =>
          let raw := BitVec.ofNat 512 (ofBytes b)
          let p := unPacket raw
          let launch := (bits raw 0 8 : BitVec 8) == 1
          let i := decodePacket raw
          let s := s.updMq die q fun m =>
            { m with
              head := m.head + 1, busy := some ⟨i.getD .nop, s.timeb, false⟩
              openTags := if launch then p.tag :: m.openTags else m.openTags
              doneTags := if launch then m.doneTags.filter (·.1 != p.tag) else m.doneTags }
          match i with
          | some i => exec i s
          | none => .next (s.complete p launch false 1 none)

/-- A sample-set miss of a context in the LLC (R221). -/
def State.duel (s : State) (box set : Nat) : State :=
  if (s.box box).state == .free then s
  else s.updBox box fun x =>
    if set % 64 = 0 then { x with psel := if x.psel = 1023 then x.psel else x.psel + 1 }
    else if set % 64 = 1 then { x with psel := if x.psel = 0 then x.psel else x.psel - 1 }
    else x

/-- The frames of pages pinned in the LLC of a die (R211). -/
def State.pinnedFrames (s : State) (die : Nat) : List Nat :=
  ((s.asids.flatMap fun a => s.mappedPages a.1).filterMap fun (_, l) =>
    if leafOk l && lfHome l == 2 && (lfSlice l).toNat == die then some (lfPfn l) else none).eraseDups

/-- PIN_EXCESS (R211): a report once more than 64 MiB of pages are pinned in the die's LLC; which access meets the excess
depends on the lines that it holds, and UNIT and DETAIL are free values. -/
def State.pinExcess (s : State) (die box : Nat) : State :=
  if (s.box box).state == .free || (s.pinnedFrames die).length ≤ 1024 then s
  else
    let (n, s) := s.draw
    s.ras die 0xD6 box (n % 65536) (n / 65536)

/-- An MSI-X vector masked, or unmasked with its pending message sent (R386). -/
def State.maskVector (s : State) (vec : Nat) (mask : Bool) : State :=
  let s := { s with msixMask := setBit s.msixMask vec mask }
  if !mask && s.msixPend.getLsbD vec then { s.sendMsix vec with msixPend := setBit s.msixPend vec false } else s

/-- A frame given to a pool of a die (R215): HBM of the die, or the loft; another frame is none. -/
def State.giveFrame (s : State) (die : Nat) (loft : Bool) (pfn : Nat) : State :=
  let fits := match placeOf (pfn * 65536) with
    | .hbm d => !loft && d == die
    | .loft => loft
    | _ => false
  if !fits then s
  else s.updDie die fun d => if loft then { d with loftPool := d.loftPool ++ [pfn] } else { d with pool := d.pool ++ [pfn] }

/-- One action at state `s`. -/
def act (a : Action) (s : State) : Out :=
  let ev := { s with last := .event }
  match a with
  | .issue t e => if t < 160 then (if s.canIssue t e then s.issueAt t else event s) else .fault .noSuchUnit
  | .tick t => if t < 160 then .next (s.tick t) else .fault .noSuchUnit
  | .time n => .next (s.pass n)
  | .queue die q => if die < 4 && q < 32 then ev.takePacket die q else .fault .noSuchUnit
  | .unit die u => if die < 4 && u < 6 then ev.runQueued die u else .fault .noSuchUnit
  | .event i u =>
    let z := { s with cur := { s.cur with at_ := u } }
    match i with
    | .preemptSaveComplete b => match z.beforeSave b with
      | some z => .next z
      | none => exec i z
    | i => if isEvent i then exec i z else .fault .noSuchUnit
  | .store pa data => .next (ev.outerStore pa data)
  | .packet die stack hdr data box rank =>
    if die < 4 && stack < 3 then .next (ev.acceptPacket die stack ⟨hdr, data, box, rank⟩) else .fault .noSuchUnit
  | .softError pa kind => .next (ev.softError pa kind)
  | .scrub pa => .next (ev.scrub pa)
  | .linkUp link => if link < 10 then .next { ev with links := setBit s.links link true } else .fault .noSuchUnit
  | .frame die loft pfn =>
    if die < 4 then .next (ev.giveFrame die loft pfn) else .fault .noSuchUnit
  | .llcMiss box set => .next (ev.duel box set)
  | .pinExcess die box => if die < 4 then .next (ev.pinExcess die box) else .fault .noSuchUnit
  | .msix vec mask => .next (ev.maskVector vec mask)
  | .nrcons die v =>
    if die < 4 then .next (ev.updDie die fun d => { d with nring := { d.nring with cons := v } }) else .fault .noSuchUnit
  | .msixEntry vec addr data => .next { ev with msixTable := vput s.msixTable vec (addr, data) }
  | .record die => if die < 4 then .next (ev.postRas die) else .fault .noSuchUnit
  | .loadReg die off width => if die < 4 && off < 65536 then .next (ev.loadReg die off width) else .fault .noSuchUnit
  | .barRead off width =>
    if off + width ≤ 0x100000 then .next { ev with answer := some ((rangeFrom off width).map s.barByte) } else .fault .noSuchUnit
  | .setTime v => .next (if s.ran then ev else { ev with timeb := v.toNat })
  | .handOver box => .next (ev.handOver box)
  | .boot root =>
    .next (if (sget ⟨false, 0⟩ s.asids 0).v then ev else { ev with asids := sput ⟨false, 0⟩ s.asids 0 ⟨true, root⟩ })
  | .evict asid page => .next (ev.dropPage asid page)

/-! ## Placing an instruction (notes/assumptions/11.md) -/

/-- The page tables and the code page of `placeWord` in the HBM of die 0: the root at 0x40000, the tables below it at
frames 8 and 9, and the page at frame 10, mapped at address 0 of ASID 0 with W and X. -/
def placeTables : List (Nat × Byte) :=
  atAddr 0x40000 (toBytes 8 (2 ^ 63 + 8)) ++ atAddr 0x80000 (toBytes 8 (2 ^ 63 + 9))
    ++ atAddr 0x90000 (toBytes 8 (2 ^ 63 + 2 ^ 59 + 2 ^ 54 + 2 ^ 52 + 2 ^ 51 + 10))

/-- A context about to run the first word of stream `e`'s section. -/
def placeCtx (e : Strm) : Ctx := Ctx.reset.updStrm e fun x => { x with running := true, due := .atBeat 0 }

/-- The address space of `placeWord`. -/
def State.placeSpace (s : State) : State :=
  { s with asids := sput ⟨false, 0⟩ s.asids 0 ⟨true, 0x40000⟩, tcache := s.tcache.filter fun x => x.1 != 0 }

/-- Queue 0 of die 0 with one packet, at address 0 of ASID 0. -/
def State.placeQueue (s : State) : State :=
  let s := { s.placeSpace with ps3 := false, agenda := [.queue 0 0] }
  (s.updDie 0 fun d => { d with ps2 := false }).updMq 0 0 fun _ => ⟨0, 4, 0, 0, 1, 1, 0, none, [], []⟩

/-- Tile 0 with the context of box 0, ready to issue the word of stream `e` at address 0 of ASID 0. -/
def State.placeTile (s : State) (e : Strm) : State :=
  let s := { s.placeSpace with agenda := [.issue 0 e] }
  let s := s.updBox 0 fun x => { x with state := .running, live := false, asid := 0, tiles := [0], faults := [] }
  s.updTile 0 fun x =>
    { x with
      holdAll := 0, holdC := 0, holdS := 0, stalled := false, issued := 0, box := some 0, rank := 0, gated := false
      sect := Vector.replicate 4 ⟨0, 8192⟩, ctx := { placeCtx e with due := .atBeat (if e = .c then 0 else x.beat + 1) } }

/-- `s` with the instruction of `decodeTableWord nbits w` as what the next step runs. -/
def State.placeWord (s : State) (nbits w : Nat) : State :=
  let s := { s with mem := s.mem.writes (placeTables ++ atAddr 0xA0000 (toBytes 64 w)) }
  if nbits ≤ 64 then s.placeTile .c
  else if nbits ≤ 72 then
    s.placeTile (match w / 2 ^ 64 % 4 with | 0 => .c | 1 => .v | 2 => .x | _ => .s)
  else s.placeQueue

end Sys2Proof.Machine
end

