-- ==== Sys2Proof/Machine/Step.lean ====
section
/-!
DEFINITION. The step of the machine: the next action of its agents; and the state in which a given instruction is what the
next step runs.
-/
namespace Sys2Proof.Machine

/-- One step: the first action of the agenda, else the one that the order of the agents gives (R232, R235). -/
def step (s : State) : Host.Outcome State Fault Refusal :=
  match s.agenda with
  | a :: r => act a { s with agenda := r }
  | [] => act (Config.schedule s.sched) { s with sched := s.sched + 1 }

/-- `s` with the instruction of `decodeTableWord nbits w` where the next step takes it. -/
def State.withFetchWord (s : State) (nbits w : Nat) : State := s.placeWord nbits w

end Sys2Proof.Machine
end

