-- ==== Sys2Proof/Safety.lean ====
section
/-!
DEFINITION. What claims about runs of the OW-40 are stated in: the invariant that every step keeps, and safe steps.
-/
namespace Sys2Proof.Machine

/-- The invariant of the state: memory keeps its canonical form, and the maps of boxes and of address spaces list each
number once, in rising order. -/
def State.inv (s : State) : Prop := s.mem.wf = true ∧ Rising s.boxes ∧ Rising s.asids

/-- A step is safe when it neither faults nor is refused: it answers a next state. -/
def safeStep (s : State) : Prop := ∃ t, step s = .next t

end Sys2Proof.Machine
end

