-- ==== Sys2Proof/WellFormed.lean ====
section
/-!
DEFINITION. Well-formed instructions: the words that each stream's opcode map holds with every check of R51 met, and the
packets that meet R365. The rows that split one word (MTS, SLCFG, TRET, SYSC) take the words of their own case.
-/
namespace Sys2Proof

/-- The case of a split row that an instruction stands for (R108, R340, R355, R356). -/
def rowOk (i : Instr) : Bool :=
  match i with
  | .mts f => mtsRow f == .mts f
  | .mtsClkrq f => mtsRow f == .mtsClkrq f
  | .mtsLpbegLpend f => mtsRow f == .mtsLpbegLpend f
  | .mtsLpcnt f => mtsRow f == .mtsLpcnt f
  | .mtsEvpend f => mtsRow f == .mtsEvpend f
  | .mtsSflags f => mtsRow f == .mtsSflags f
  | .slcfgDrain f => f.q != 1
  | .slcfgFlush f => f.q == 1
  | .tret f => f.imm != 1
  | .tretPass f => f.imm == 1
  | .syscExit f => f.imm == 0
  | .syscNotify f => f.imm != 0
  | _ => true

/-- A well-formed word of stream `e`. -/
def wf (e : Strm) (i : Instr) : Bool := (streamsOf i).contains e && (check i).isNone && rowOk i

/-- A well-formed front-end packet (R365, R366): the bytes that its command does not use are zero. -/
def wfPacket (i : Instr) : Bool :=
  match i with
  | .launch p => packetZero p ([(0, 4), (8, 8), (16, 8), (24, 8)] ++ (if p.flags.getLsbD 2 then [(32, 8)] else [])) (!p.flags.getLsbD 2) 16
  | .wait p => packetZero p [(0, 8), (8, 8), (16, 8), (24, 1), (32, 8)] false 4
  | .cancel p => packetZero p [(0, 4)] false 4
  | .create p => packetZero p [(0, 32)] false 4
  | .destroy p => packetZero p [] true 4
  | .swap p => packetZero p [] true 4
  | .halt p => packetZero p [] true 4
  | .signal p => packetZero p [] true 4
  | .wakehint p => packetZero p [(0, 8)] true 4
  | .track p => packetZero p [(0, 4), (8, 8)] false 4
  | .xinv p => packetZero p [(0, 2), (8, 8), (16, 4)] false 4
  | .aspace p => packetZero p [(0, 3), (8, 8)] false 4
  | .region p => packetZero p [(0, 8)] false 4
  | .rclock p => packetZero p [(0, 8), (8, 2)] false 4
  | .chbind p => packetZero p [(0, 2), (8, 8), (16, 8), (24, 4)] true 4
  | .prbind p => packetZero p [(0, 3), (4, 6)] true 4
  | .model p => packetZero p [(0, 8), (8, 8), (16, 4)] false 4
  | .attest p => packetZero p [(0, 40)] false 4
  | .keyexp p => packetZero p [(0, 2), (8, 8), (16, 8)] false 4
  | .keyimp p => packetZero p [(0, 2), (8, 8), (16, 8)] false 4
  | .debugCmd p => packetZero p [(8, 8)] false 4
  | .keywipe p => packetZero p [] false 4
  | .power p => packetZero p [(0, 1)] false 4
  | .fwload p => packetZero p [(8, 8), (16, 4)] false 4
  | _ => false

/-- A unit command has no ill-formed field of its own: its checks are the unit's (R327, R337, R338). -/
def wfUnit (u : Nat) (i : Instr) : Bool :=
  match i with
  | .sample _ | .short _ | .merge _ | .verify _ => decide (u < 4)
  | .compact _ => u == 4
  | .backfill _ => u == 5
  | _ => false

end Sys2Proof
end

