-- ==== Sys2Proof/Certificates/Slice0/Obligations.lean ====
section
/-!
DEFINITION. The statements about the OW-40 for the provers. The namespace `Spec` holds what they are made of: the tables of the
spec written out once more, apart from the model's own definitions, and the frames.
-/

namespace Sys2Proof.Spec

open Sys2Proof.Machine

/-! ## Frames and outcomes of a word -/

/-- A word of stream `e` is at issue on a tile that the package has. -/
abbrev AtIssue (s : State) (e : Strm) : Prop := s.cur.at_ < 160 ∧ s.cur.strm = e

/-- Between `s` and `t` nothing outside tile `u` changes, but for the record of what the last step did; every byte of
memory reads as before. -/
def OnlyTile (u : Nat) (s t : State) : Prop :=
  t = { s with tiles := t.tiles, last := t.last } ∧ (∀ v, v ≠ u → t.tile v = s.tile v)
    ∧ ∀ a, t.mem.read a = s.mem.read a

/-- Of a tile only the context on it and the records of issue and stall change. -/
def OnlyCtx (x y : Tile) : Prop :=
  y = { x with issued := y.issued, since := y.since, retried := y.retried, ctx := y.ctx }

/-- Of a context only the C registers and the macro-PC change: every special register that they do not hold, the trap
registers, the counters, the sticky flags and the three engines stay. -/
def OnlyC (c d : Ctx) : Prop := d = { c with c := d.c, mpc := d.mpc, due := d.due }

/-- Of the C registers only the pending writes and the loop counts that a back-edge changes (R118). -/
def OnlyPend (c d : CRegs) : Prop := d = { c with pend := d.pend, lpcnt := d.lpcnt, lpact := d.lpact }

/-- No active level of the hardware loops ends at word `x` (R118, R119). -/
def NoLoopEnd (c : CRegs) (x : Nat) : Prop :=
  ∀ n, n < 3 → c.lpact.getLsbD n = true → (vget 0 c.lpend n).toNat ≠ x

/-- The word at issue has issued at this beat: it counts as issued, and its stall record is gone. -/
def Issued (s t : State) : Prop :=
  t.last = .issued ∧ t.here.issued = s.here.issued ||| strmBit s.cur.strm
    ∧ vget none t.here.since s.cur.strm.num = none

/-- The back-edge after the word at index `x` (R118): from the highest active level that ends there, each level whose count
is spent is closed, until one with iterations left repeats; the C stream goes on at that level's first word, or at the word
after `x`. Every other level stays. -/
def BackEdge (c : CRegs) (x : Nat) (d : CRegs) (next : Nat) : Prop :=
  let ends := fun m => c.lpact.getLsbD m = true ∧ (vget 0 c.lpend m).toNat = x
  let more := fun m => 1 < (vget 0 c.lpcnt m).toNat
  let met := fun n => ends n ∧ ∀ m, n < m → m < 3 → ends m → ¬ more m
  (∀ n, n < 3 →
    (met n → more n →
      d.lpact.getLsbD n = true ∧ vget 0 d.lpcnt n = vget 0 c.lpcnt n - 1 ∧ next = (vget 0 c.lpbeg n).toNat)
    ∧ (met n → ¬ more n → d.lpact.getLsbD n = false ∧ vget 0 d.lpcnt n = 0)
    ∧ (¬ met n → d.lpact.getLsbD n = c.lpact.getLsbD n ∧ vget 0 d.lpcnt n = vget 0 c.lpcnt n))
  ∧ ((∀ n, n < 3 → ends n → ¬ more n) → next = x + 1)

/-- The C stream goes on as after its word at issue, whose effect left the C registers at `c` (R118); the next word's IDLE
counts from this beat (R33). -/
def Onward (s t : State) (c : CRegs) : Prop :=
  t.me.due = .after (s.here.clock .c) ∧ BackEdge c s.cur.idx t.me.c t.me.mpc

/-- The frame of a C word that at most writes scalar registers. -/
def CFrame (s t : State) : Prop :=
  OnlyTile s.cur.at_ s t ∧ OnlyCtx s.here t.here ∧ OnlyC s.me t.me ∧ OnlyPend s.me.c t.me.c ∧ Issued s t ∧ Onward s t s.me.c

/-- What else a C word does that passes with the context at `d`: nothing outside the context, and within it only where the
C stream goes on. -/
def PassesWith (s t : State) (d : Ctx) : Prop :=
  OnlyTile s.cur.at_ s t ∧ OnlyCtx s.here t.here ∧ Issued s t ∧ Onward s t d.c
    ∧ t.me = { d with mpc := t.me.mpc, due := t.me.due
                      c := { d.c with lpcnt := t.me.c.lpcnt, lpact := t.me.c.lpact } }

/-- The C word takes effect: it leaves the context at `d` and passes, and nothing else changes. -/
def CWord (i : Instr) (s : State) (d : Ctx) : Prop := ∃ t, exec i s = .next t ∧ PassesWith s t d

/-- The number of the register that the name `r` stands for at issue (R97). -/
def regNo (s : State) (r : Reg) : Nat :=
  if r.toNat ≤ 15 then r.toNat else 16 + (r.toNat - 16 + s.me.c.rrb.toNat) % 16

/-- The pending writes that a word adds (R99): register `d` by its name at issue, with value, poison and the first beat at
which a word sees it; nothing for s0, whose writes are dropped. -/
def written (s : State) (d : Reg) (v : Word) (p : Bool) (lat : Nat) : List PendWrite :=
  if d = 0 then [] else [⟨regNo s d, v, p, s.here.beat + lat⟩]

/-- The word raises a precise cause with this TVAL; `PreciseTrapEntry` and `UnhandledTrapHalts` say what taking it does. -/
def Raises (i : Instr) (s : State) (code : BitVec 8) (tval : Word) : Prop :=
  exec i s = .next (s.takeTrap s.cur.at_ s.cur.strm s.cur.idx code tval s.cur.word (s.remIdle s.cur.at_ .c))

/-- The word parks the context instead of issuing. -/
def Parks (i : Instr) (s : State) (reason : BitVec 8) (watch : Word) : Prop :=
  exec i s = .next (s.parkTile s.cur.at_ reason watch)

/-- The word stalls at this beat. -/
def Stalls (i : Instr) (s : State) (reason : BitVec 8) (watch : Word) : Prop :=
  exec i s = .next (s.stallWord s.cur.at_ s.cur.strm reason watch)

/-! ## The register operations (R111, R112) -/

/-- A row of the tables of R111 and R112: destination, sources, latency, and the result as a function of the registers'
values. -/
structure ScalarOp where
  sd : Reg
  src : List Reg
  lat : Nat
  val : (Reg → Word) → Word

/-- The high half of the product of two 64-bit integers, each signed or not. -/
def highHalf (sa sb : Bool) (a b : Word) : Word :=
  let x : BitVec 128 := if sa then a.signExtend 128 else a.setWidth 128
  let y : BitVec 128 := if sb then b.signExtend 128 else b.setWidth 128
  (x * y).extractLsb' 64 64

/-- The quotient of R111. -/
def quo (u : Bool) (a b : Word) : Word := if b = 0 then BitVec.allOnes 64 else if u then a / b else a.sdiv b

/-- The remainder of R111. -/
def rem (u : Bool) (a b : Word) : Word := if b = 0 then a else if u then a % b else a.srem b

/-- The order of two 64-bit integers, unsigned or signed. -/
def less (u : Bool) (a b : Word) : Bool := if u then decide (a.toNat < b.toNat) else decide (a.toInt < b.toInt)

/-- One or zero. -/
def oneIf (b : Bool) : Word := if b then 1 else 0

/-- A row of R111 with operands A and B. -/
def rowCR (f : FCR) (lat : Nat) (g : Word → Word → Word) : Option ScalarOp :=
  some ⟨f.sd, [f.sa, f.sb], lat, fun r => g (r f.sa) (r f.sb)⟩

/-- A row of R112 with operand A and the sign-extended immediate. -/
def rowCI (f : FCI) (lat : Nat) (g : Word → Word → Word) : Option ScalarOp :=
  some ⟨f.sd, [f.sa], lat, fun r => g (r f.sa) (f.imm.signExtend 64)⟩

/-- The rows of R111 and R112. -/
def scalarOp : Instr → Option ScalarOp
  | .add f => rowCR f 1 fun a b => a + b
  | .sub f => rowCR f 1 fun a b => a - b
  | .and f => rowCR f 1 fun a b => a &&& b
  | .or f => rowCR f 1 fun a b => a ||| b
  | .xor f => rowCR f 1 fun a b => a ^^^ b
  | .sll f => rowCR f 1 fun a b => a <<< (b &&& 63).toNat
  | .srl f => rowCR f 1 fun a b => a >>> (b &&& 63).toNat
  | .sra f => rowCR f 1 fun a b => a.sshiftRight (b &&& 63).toNat
  | .mul f => rowCR f 3 fun a b => a * b
  | .mulh f => rowCR f 3 (highHalf (f.q != 1) (f.q == 0))
  | .div f => rowCR f 18 (quo (f.q == 1))
  | .rem f => rowCR f 18 (rem (f.q == 1))
  | .min f => rowCR f 1 fun a b => if less (f.q == 1) b a then b else a
  | .max f => rowCR f 1 fun a b => if less (f.q == 1) a b then b else a
  | .cmpeq f => rowCR f 1 fun a b => oneIf (a == b)
  | .cmplt f => rowCR f 1 fun a b => oneIf (less false a b)
  | .cmpltu f => rowCR f 1 fun a b => oneIf (less true a b)
  | .sel f => some ⟨f.sd, [f.sa, f.sb, f.sc], 1, fun r => if r f.sc = 0 then r f.sb else r f.sa⟩
  | .addi f => rowCI f 1 fun a i => a + i
  | .andi f => rowCI f 1 fun a i => a &&& i
  | .ori f => rowCI f 1 fun a i => a ||| i
  | .xori f => rowCI f 1 fun a i => a ^^^ i
  | .slli f => rowCI f 1 fun a _ => a <<< (f.imm &&& 63).toNat
  | .srli f => rowCI f 1 fun a _ => a >>> (f.imm &&& 63).toNat
  | .srai f => rowCI f 1 fun a _ => a.sshiftRight (f.imm &&& 63).toNat
  | .lui f => rowCI f 1 fun a _ => (f.imm.setWidth 64 <<< 32) ||| (a &&& 0xFFFFFFFF)
  | .muli f => rowCI f 3 fun a i => a * i
  | .cmpeqi f => rowCI f 1 fun a i => oneIf (a == i)
  | .cmplti f => rowCI f 1 fun a i => oneIf (less (f.q == 1) a i)
  | _ => none

/-! ## Branches and loops -/

/-- The rows of R114: the operands and when the branch is taken. -/
def branchOp : Instr → Option (FCB × (Word → Word → Bool))
  | .beq f => some (f, fun a b => a == b)
  | .bne f => some (f, fun a b => a != b)
  | .blt f => some (f, less false)
  | .bge f => some (f, fun a b => !less false a b)
  | .bltu f => some (f, less true)
  | .bgeu f => some (f, fun a b => !less true a b)
  | _ => none

/-- The C section's length in words. -/
def cLen (s : State) : Nat := (vget ⟨0, 0⟩ s.here.sect 0).words

/-- The levels after a jump to `x` (R119): a level whose body does not hold it is closed, any other stays. -/
def LevelsAt (c d : CRegs) (x : Nat) : Prop :=
  ∀ n, n < 3 →
    if c.lpact.getLsbD n = true ∧ ¬ ((vget 0 c.lpbeg n).toNat ≤ x ∧ x ≤ (vget 0 c.lpend n).toNat) then
      d.lpact.getLsbD n = false ∧ vget 0 d.lpcnt n = 0
    else d.lpact.getLsbD n = c.lpact.getLsbD n ∧ vget 0 d.lpcnt n = vget 0 c.lpcnt n

/-- A jump of the C stream to `x` (R113): the redirect stall of two beats, and the next word's IDLE counted from here. -/
def Jumped (s t : State) (x : Nat) : Prop :=
  t.me.mpc = x ∧ t.me.due = .after (s.here.clock .c) ∧ t.here.holdC = s.here.beat + 3 ∧ LevelsAt s.me.c t.me.c x
    ∧ Issued s t

/-- Of a tile only the context, the records of issue and stall, and the redirect stall change. -/
def OnlyCtxHold (x y : Tile) : Prop :=
  y = { x with issued := y.issued, since := y.since, retried := y.retried, holdC := y.holdC, ctx := y.ctx }

/-- The frame of a jump that writes at most scalar registers. -/
def JumpFrame (s t : State) : Prop :=
  OnlyTile s.cur.at_ s t ∧ OnlyCtxHold s.here t.here ∧ OnlyC s.me t.me ∧ OnlyPend s.me.c t.me.c


/-! ## Engine streams -/

/-- The close after the word at index `x` of an engine stream (R43): from the innermost level, each level that ends there
and has run its last iteration ends, until one with iterations left repeats; the levels left, and where the stream goes on. -/
def repeatClose (x : Nat) : List Level → List Level × Nat
  | [] => ([], x + 1)
  | l :: r =>
    if l.fin ≠ x then (l :: r, x + 1)
    else if 1 < l.left then (⟨l.beg, l.fin, l.left - 1, l.it + 1⟩ :: r, l.beg)
    else repeatClose x r

/-- An engine stream moved past index `x`; the next word's IDLE counts from beat `p` of its clock. -/
def streamPast (x p : Nat) (y : Stream) : Stream :=
  { y with levels := (repeatClose x y.levels).1, mpc := (repeatClose x y.levels).2, due := .after p }

/-- SUSED, which every word of S sets (R158). -/
def suse (e : Strm) (d : Ctx) : Ctx := if e = .s then { d with spe := { d.spe with used := true } } else d

/-- The word of engine stream `e` takes effect: it leaves the context at `d` and its stream passes; nothing else changes. -/
def EWord (i : Instr) (s : State) (e : Strm) (d : Ctx) : Prop :=
  ∃ t, exec i s = .next t ∧ OnlyTile s.cur.at_ s t ∧ OnlyCtx s.here t.here ∧ Issued s t
    ∧ t.me = (suse e d).updStrm e (streamPast s.cur.idx (s.here.clock e))

/-- One allowance of a WAITC met (R273, R274). -/
def allowed (n : BitVec 8) (c : BitVec 32) : Prop := n = 255 ∨ c.toNat ≤ n.toNat

/-- The four allowances of a WAITC met, by the counters as they stood at the start of the beat (R274). -/
def waitMet (s : State) (f : FW) : Prop :=
  let c := s.here.oc0
  allowed f.nl c.ocl ∧ allowed f.ns c.ocs ∧ allowed f.nc c.occ ∧ allowed f.nt c.oct

/-- The engine streams that a TGO joins, with their entries (R42). -/
def tgoJoins (f : FT) (e : Strm) : Option Nat :=
  match e with
  | .c => none
  | .v => if f.jv = 1 then some f.ve.toNat else none
  | .x => if f.jx = 1 then some f.xe.toNat else none
  | .s => if f.js = 1 then some f.se.toNat else none

/-- The words of a stream's section. -/
def secLen (s : State) (e : Strm) : Nat := (vget ⟨0, 0⟩ s.here.sect e.num).words

/-- A context but for an engine stream's own part and what a region keeps: what TEND and TGO leave alone. -/
def RegionFrame (c d : Ctx) : Prop :=
  d = { c with mpc := d.mpc, due := d.due, lockstep := d.lockstep, cEnded := d.cEnded, memV := d.memV, memX := d.memX
               memS := d.memS, v := d.v, x := d.x, s := d.s
               c := { c.c with lpcnt := d.c.lpcnt, lpact := d.c.lpact }
               spe := { c.spe with used := d.spe.used } }

/-- Every member of the region but `e` has ended. -/
def othersEnded (c : Ctx) (e : Strm) : Prop :=
  (e ≠ .c → c.cEnded = true) ∧ (e ≠ .v → c.memV = true → c.v.ended = true) ∧ (e ≠ .x → c.memX = true → c.x.ended = true)
    ∧ (e ≠ .s → c.memS = true → c.s.ended = true)

/-- The region is closed, and C's IDLE counts from beat `b` (R41). -/
def regionClosed (d : Ctx) (b : Nat) : Prop :=
  d.lockstep = false ∧ d.cEnded = false ∧ d.memV = false ∧ d.memX = false ∧ d.memS = false ∧ d.due = .after b

/-! ## Special registers -/

/-- The special registers that MFS reads as they stand (R108, R270, R291, R319, R341, R347), by number. -/
def sprTable (s : State) : List (Nat × Word) :=
  let c := s.me
  let b := s.box s.myBox
  [(0x000, s.here.ctxno.setWidth 64), (0x001, BitVec.ofNat 64 s.cur.at_), (0x002, c.c.rrb.setWidth 64),
   (0x010, (vget 0 c.c.lpcnt 0).setWidth 64), (0x011, (vget 0 c.c.lpcnt 1).setWidth 64),
   (0x012, (vget 0 c.c.lpcnt 2).setWidth 64), (0x014, (vget 0 c.c.lpbeg 0).setWidth 64),
   (0x015, (vget 0 c.c.lpbeg 1).setWidth 64), (0x016, (vget 0 c.c.lpbeg 2).setWidth 64),
   (0x018, (vget 0 c.c.lpend 0).setWidth 64), (0x019, (vget 0 c.c.lpend 1).setWidth 64),
   (0x01A, (vget 0 c.c.lpend 2).setWidth 64), (0x01F, c.c.lpact.setWidth 64), (0x020, c.clkrq.setWidth 64),
   (0x021, s.here.clkgr.setWidth 64), (0x030, BitVec.ofNat 64 s.timeb), (0x031, c.seed), (0x040, c.c.poison.setWidth 64),
   (0x048, c.trap.faultpc), (0x049, c.trap.tcause), (0x04A, c.trap.tval), (0x04B, c.trap.tword), (0x04C, c.trap.tvec),
   (0x04E, c.trap.tscra), (0x04F, c.trap.tscrb), (0x050, c.sdcv.setWidth 64), (0x051, c.sdcx.setWidth 64),
   (0x052, c.sdcs.setWidth 64), (0x060, c.oc.ocl.setWidth 64), (0x061, c.oc.ocs.setWidth 64),
   (0x062, c.oc.occ.setWidth 64), (0x063, c.oc.oct.setWidth 64), (0x070, b.evpend.setWidth 64), (0x071, b.rcb),
   (0x072, (s.effWthr (boxDie s.myBox) b.rcb).setWidth 64), (0x073, (s.effPrio (boxDie s.myBox) b.rcb).setWidth 64),
   (0x078, BitVec.ofNat 64 (s.slPend s.myBox)), (0x079, BitVec.ofNat 64 (s.bfPend s.myBox))]
  ++ [0, 1, 2].map (fun n =>
      let g := vget ⟨false, 0, 0⟩ c.c.lpstg n
      (0x01C + n, (bit g.v ++ (0 : BitVec 15) ++ g.fin ++ g.beg : BitVec 64)))
  ++ [0, 1, 2, 3].map (fun n =>
      (0x038 + n, (bit (c.c.kvalid.getLsbD n) ++ (0 : BitVec 52) ++ vget 0 c.c.kcur n : BitVec 64)))
  ++ [(0x041, match c.ckpt with
        | some k => ((1 : BitVec 1) ++ (0 : BitVec 39) ++ BitVec.ofNat 24 k.idx : BitVec 64)
        | none => 0),
      (0x04D, ((0 : BitVec 48) ++ c.trap.tpend ++ (0 : BitVec 7) ++ bit c.trap.act : BitVec 64))]

/-- Forty times a team's charge with its part of N and M, in milliwatts (R321, R341). -/
def powerCharge (s : State) : Nat :=
  teamShare (s.box s.myBox).tiles.length (grantRatios (s.box s.myBox).grant)

/-- What MTS does to a special register that no other agent shares: its word, and its effect on the context. -/
def mtsEffect : Instr → Option (FCS × (Word → Ctx → Ctx))
  | .mts f =>
    match f.spr.toNat with
    | 0x002 => some (f, fun v c => { c with c := { c.c with rrb := v.setWidth 4 } })
    | 0x031 => some (f, fun v c => { c with seed := v })
    | 0x04C => some (f, fun v c => { c with trap := { c.trap with tvec := v &&& 0x8000000000FFFFFF } })
    | 0x04E => some (f, fun v c => { c with trap := { c.trap with tscra := v } })
    | 0x04F => some (f, fun v c => { c with trap := { c.trap with tscrb := v } })
    | 0x050 => some (f, fun v c => { c with sdcv := v.setWidth 32 })
    | 0x051 => some (f, fun v c => { c with sdcx := v.setWidth 32 })
    | 0x052 => some (f, fun v c => { c with sdcs := v.setWidth 32 })
    | _ => none
  | .mtsLpbegLpend f =>
    let n := f.spr.toNat % 4
    if 0x014 ≤ f.spr.toNat ∧ f.spr.toNat ≤ 0x016 then
      some (f, fun v c => { c with c := { c.c with
        lpstg := vupd c.c.lpstg n fun g => ⟨true, g.fin, v.setWidth 24⟩ } })
    else if 0x018 ≤ f.spr.toNat ∧ f.spr.toNat ≤ 0x01A then
      some (f, fun v c => { c with c := { c.c with
        lpstg := vupd c.c.lpstg n fun g => ⟨true, v.setWidth 24, g.beg⟩ } })
    else none
  | _ => none

/-! ## Memory words -/

/-- The address of format CM (R227, R228): (s[sa] + sext(off)) mod 2^64. -/
def cmVa (s : State) (f : FCM) : Word := s.reg f.sa + f.off.signExtend 64

/-- An access of `n` bytes at `va` by the word at issue that every check admits: the locations of its bytes, the leaves of its
pages, and the state once the context's records for those pages have ceased (R203, R205, R206, R212, R267). -/
def Served (s : State) (va : Word) (n : Nat) (w : Bool) (locs : List Nat) (ls : List Word) (s' : State) : Prop :=
  bits va 57 7 = 0 ∧
  ∃ s2, s.access s.myAsid va.toNat n w = (.ok locs ls, s2) ∧ s' = s2.ceasePages s.myBox (pageBases va.toNat n)

/-- No soft error stands at the locations. -/
def Clean (s : State) (locs : List Nat) : Prop := ∀ l, l ∈ locs → l ∉ s.ces ∧ l ∉ s.ues

/-- What a word that accesses memory leaves of its context: all but the operations in flight, the counters, the written map
of its lease, and where C goes on. -/
def AccessFrame (s t : State) : Prop :=
  t.me = { s.me with loads := t.me.loads, oc := t.me.oc, written := t.me.written, mpc := t.me.mpc, due := t.me.due
                     c := { s.me.c with lpcnt := t.me.c.lpcnt, lpact := t.me.c.lpact } }
    ∧ Issued s t ∧ Onward s t s.me.c

/-- The flags of the V words that have landed by R279 where SFLAGS is read or cleared inside a region: those issued at least
16 counted beats before. -/
def oldFlags (s : State) : Flags :=
  ((s.me.vec.fly.filter fun f => decide (f.counted + 16 ≤ s.here.cnt)).map (·.flags)).foldl (· ||| ·) 0

/-- The counters have room for the loads, stores and tile operations that a word counts: no class holds more than 2^20
operations (R271). -/
def Room (s : State) (loads stores tiles : Nat) : Prop :=
  s.me.oc.ocl.toNat + loads ≤ 2 ^ 20 ∧ s.me.oc.ocs.toNat + stores ≤ 2 ^ 20 ∧ s.me.oc.oct.toNat + tiles ≤ 2 ^ 20

/-- The value of a load of `n` bytes (R228). -/
def loaded (n : Nat) (signed : Bool) (bs : List Byte) : Word :=
  if signed then (BitVec.ofNat (8 * n) (ofBytes bs)).signExtend 64 else BitVec.ofNat 64 (ofBytes bs)

/-- What a byte location holds after bytes are written in order. -/
def afterWrites (m : Mem) (l : List (Nat × Byte)) (a : Nat) : Byte :=
  match l.reverse.find? fun p => p.1 = a with
  | some p => p.2
  | none => m.read a

/-- The words of R230: the fields, whether it is AMOCAS, and the new word from the old one (`n` bytes) and the registers. -/
def atomicOp (s : State) : Instr → Option (FCM × Bool × (Nat → Nat))
  | .amoadd f => some (f, false, fun old => (old + (s.reg f.sd).toNat) % 2 ^ (8 * 2 ^ f.w.toNat))
  | .amoswap f => some (f, false, fun _ => (s.reg f.sd).toNat % 2 ^ (8 * 2 ^ f.w.toNat))
  | .amocas f => some (f, true, fun old =>
      if old = (s.reg f.sd).toNat % 2 ^ (8 * 2 ^ f.w.toNat) then (s.reg (f.sd + 1)).toNat % 2 ^ (8 * 2 ^ f.w.toNat) else old)
  | .amomin f => some (f, false, fun old => picked false f old ((s.reg f.sd).toNat % 2 ^ (8 * 2 ^ f.w.toNat)))
  | .amomax f => some (f, false, fun old => picked true f old ((s.reg f.sd).toNat % 2 ^ (8 * 2 ^ f.w.toNat)))
  | _ => none
where
  /-- The greater or the lesser of two words of 2^w bytes, unsigned under q = 1. -/
  picked (wantMax : Bool) (f : FCM) (old a : Nat) : Nat :=
    let k := 8 * 2 ^ f.w.toNat
    let below := if f.q = 1 then decide (old < a) else decide ((BitVec.ofNat k old).toInt < (BitVec.ofNat k a).toInt)
    let same := if f.q = 1 then decide (old = a) else decide ((BitVec.ofNat k old).toInt = (BitVec.ofNat k a).toInt)
    if same then old else if below = wantMax then a else old

/-- The registers that an atomic reads. -/
def atomicReads (f : FCM) (cas : Bool) : List Reg := [f.sa, f.sd] ++ if cas then [f.sd + 1] else []

/-- The words that address memory at an effective address of their own, with width in bytes and whether they write. -/
def memoryWord (s : State) : Instr → Option (Word × Nat × Bool × List Reg)
  | .st f => some (cmVa s f, 2 ^ f.w.toNat, true, [f.sa, f.sd])
  | .amoadd f => some (cmVa s f, 2 ^ f.w.toNat, true, atomicReads f false)
  | .amoswap f => some (cmVa s f, 2 ^ f.w.toNat, true, atomicReads f false)
  | .amocas f => some (cmVa s f, 2 ^ f.w.toNat, true, atomicReads f true)
  | .amomin f => some (cmVa s f, 2 ^ f.w.toNat, true, atomicReads f false)
  | .amomax f => some (cmVa s f, 2 ^ f.w.toNat, true, atomicReads f false)
  | _ => none

/-- Word 0 of a barrier object after one arrival, from its two words (R275, R276): ARR at [62:48] falls by one and stays at 0;
when PEND at [47:0] and ARR are both 0, PHASE at [63] flips and both take their initial values from word 1. -/
def arrived (w0 w1 : Word) : Word :=
  let pend : BitVec 48 := w0.extractLsb' 0 48
  let arr : BitVec 15 := w0.extractLsb' 48 15
  let phase : BitVec 1 := w0.extractLsb' 63 1
  let arr' : BitVec 15 := if arr = 0 then 0 else arr - 1
  if pend = 0 ∧ arr' = 0 then ((phase + 1) ++ w1.extractLsb' 48 15 ++ w1.extractLsb' 0 48 : BitVec 64)
  else (phase ++ arr' ++ pend : BitVec 64)

/-- The little-endian word of eight bytes that stand in memory at locations. -/
def wordAt (s : State) (locs : List Nat) : Word := BitVec.ofNat 64 (ofBytes (locs.map (s.mem.read ·)))

/-- A barrier word's object at s[sa]: 16 bytes, aligned, on a page of HOME 01 or 10, with no error (R277). -/
def Barred (s : State) (f : FCR) (w : Bool) (locs : List Nat) (ls : List Word) (s' : State) : Prop :=
  Served s (s.reg f.sa) 16 w locs ls s' ∧ (s.reg f.sa).toNat % 16 = 0 ∧ (∀ l, l ∈ ls → lfHome l = 1 ∨ lfHome l = 2)
    ∧ Clean s' locs

/-! ## Traps -/

/-- A handler is installed, and its first word lies in the C section (R351). -/
def Usable (s : State) : Prop :=
  s.me.trap.tvec.getLsbD 63 = true ∧ (s.me.trap.tvec.extractLsb' 0 24).toNat < cLen s

/-- The handler entered from state `s`, at the boundary before the present beat (R36, R52, R101, R348, R351): the pending
writes wait frozen with their remaining latency, the trap registers are written, C goes to TVEC.HIDX, and each free-running
engine stream keeps its remaining idle count. Nothing else changes. -/
def HandlerEntered (s t : State) (idle : Nat) (cause tval tword : Word) : Prop :=
  let x := s.here
  let c := s.me
  let d := t.me
  let late := c.c.pend.filter fun w => decide (x.beat < w.vis)
  OnlyTile s.cur.at_ s t ∧ t.here = { x with holdC := 0, since := Vector.replicate 4 none, ctx := d }
    ∧ d = { c with
        trap := { c.trap with
          faultpc := ((0 : BitVec 30) ++ BitVec.ofNat 10 idle ++ BitVec.ofNat 24 c.mpc : BitVec 64), tcause := cause, tval := tval
          tword := tword, act := true }
        mpc := (c.trap.tvec.extractLsb' 0 24).toNat, due := .after (x.beat + 3), v := d.v, x := d.x, s := d.s
        c := { c.c with pend := c.c.pend.filter fun w => decide (w.vis ≤ x.beat) }
        frozen := late.map fun w => ⟨w.reg, w.value, w.psn, w.vis - x.beat⟩ }
    ∧ ∀ e, e ≠ .c → d.strm e = if (c.strm e).running = true ∧ c.member e = false then
        { c.strm e with due := .left (s.remIdle s.cur.at_ e) } else c.strm e

/-- TCAUSE (R348). -/
def causeBits (idx : Nat) (async : BitVec 1) (e : Strm) (code : BitVec 8) : Word :=
  ((0 : BitVec 16) ++ BitVec.ofNat 24 idx ++ (0 : BitVec 13) ++ async ++ BitVec.ofNat 2 e.num ++ code : BitVec 64)

/-- The team at issue: running, this tile its rank's, and its tiles distinct tiles of the package. -/
def TeamAtIssue (s : State) (b : Nat) : Prop :=
  s.here.box = some b ∧ s.tileOf b s.here.rank = some s.cur.at_ ∧ (s.box b).tiles.Nodup ∧ ∀ u, u ∈ (s.box b).tiles → u < 160

/-- The team has left its tiles, its live state kept (R22): no tile of it holds a context, and it has a point to resume at. -/
def LeftTiles (s t : State) (b : Nat) : Prop :=
  (∀ u, u ∈ (s.box b).tiles → (t.tile u).box = none) ∧ (t.box b).live = true ∧ (t.box b).resume = true
    ∧ (t.box b).tiles = (s.box b).tiles ∧ (s.box b).tiles.length ≤ (t.box b).saved.length

/-- The asynchronous causes in the order of their bits in TPEND (R349). -/
def asyncCodes : List (BitVec 8) := [0x46, 0x67, 0x68, 0x81, 0x83, 0xC0, 0xC1, 0xD1]

/-- The context after TRET, but for where a stream passes its word under TRET 1 (R36, R101, R355). -/
def returned (s : State) : Ctx :=
  let c := s.me
  let b := s.here.beat + 3
  let idle := (c.trap.faultpc.extractLsb' 24 10).toNat
  let on := fun (y : Stream) => { y with due := match y.due with | .left r => .atBeat (b + r) | d => d }
  { c with
    trap := { c.trap with act := false }, frozen := []
    c := { c.c with pend := c.frozen.map (fun w => ⟨w.reg, w.value, w.psn, b + w.rem⟩) ++ c.c.pend }
    mpc := (c.trap.faultpc.extractLsb' 0 24).toNat
    due := .atBeat ((if c.lockstep then s.here.cnt else b) + idle)
    v := on c.v, x := on c.x, s := on c.s }

/-! ## Context words, queues, selection words -/

/-- A C word passes and leaves its context at `d`; of the rest only boxes change. -/
def CWordBoxes (i : Instr) (s : State) (d : Ctx) (t : State) : Prop :=
  exec i s = .next t ∧ ∃ s', t = { s' with boxes := t.boxes } ∧ PassesWith s s' d

/-- The context at issue with a write of R99 added. -/
def wrote (s : State) (d : Reg) (v : Word) (lat : Nat) : Ctx :=
  { s.me with c := { s.me.c with pend := s.me.c.pend ++ written s d v false lat } }

/-- The caller's box as CXPARK arms it, and TIMER set at once where the deadline has passed (R300). -/
def armed (s : State) (m w : Word) (dl : Bool) (x : Box) : Box :=
  let x := { x with pwake := w, evmask := m.setWidth 32 ||| (if dl then 1 <<< 31 else 0), dl := x.dl || dl
                    deadline := if dl then w else x.deadline }
  if x.dl = true ∧ x.deadline.toNat ≤ s.timeb then { x with evpend := x.evpend ||| 1 <<< 31, dl := false } else x

/-- R254: whether a queue with minimum, cap and holding `q` may take one more entry of a pool of `size` entries. -/
def Takes (size : Nat) (q : PoolQueue) (others : List PoolQueue) : Prop :=
  q.held < q.qmin
    ∨ q.held < q.qcap ∧ q.held + (others.map (·.held)).sum + (others.map fun o => o.qmin - o.held).sum < size

/-- The sequence number after `x`: (x mod (2^32 - 1)) + 1 (R264). -/
def seqAfter (x : BitVec 32) : BitVec 32 := BitVec.ofNat 32 (x.toNat % 4294967295 + 1)

/-- The number in `s[sa]` that a selection word addresses, in memory: `n` bytes, aligned, on resident pages without error. -/
def SlServed (s : State) (f : FCR) (n : Nat) (locs : List Nat) (s' : State) : Prop :=
  ∃ ls s1, (s.reg f.sa).toNat % n = 0 ∧ Served s (s.reg f.sa) n false locs ls s1 ∧ Clean s1 locs
    ∧ s1.reply (s.reg f.sa).toNat locs true = none
    ∧ s' = s1.touch s.myAsid false (pagesOf (s.reg f.sa).toNat n)

/-- The units that a mask names, with the commands that a box has queued there. -/
def unitCmds (s : State) (b : Nat) (x : Word) : Nat :=
  ((List.range 6).map fun u =>
    if x.getLsbD u then (((s.die (boxDie b)).units.toList.getD u []).filter (·.box == b)).length else 0).sum

/-! ## The vector engine -/

/-- The producers of what a V word reads have passed their latency (R134). -/
def VReady (s : State) (src : List Src) (ms cs : List Nat) : Prop :=
  readyBeat s.me.vec src ≤ s.here.beat ∧ (∀ m, m ∈ ms → vget 0 s.me.vec.mReady m ≤ s.here.beat)
    ∧ ∀ q, q ∈ cs → vget 0 s.me.vec.cqReady q ≤ s.here.beat

/-- The tag that a source must carry: none under .b (R95). -/
def tagOf (f : BitVec 4) : Option (BitVec 4) := if f = 0 then none else some f

/-- The first `n` sources of format VR, in the order va, vb, vc (R129). -/
def vrSrc (f : FVR) (n : Nat) : List Src :=
  [⟨f.va, f.pka, tagOf f.fmt⟩, ⟨f.vb, f.pkb, tagOf f.fmt⟩, ⟨f.vc, f.pkc, tagOf f.fmt⟩].take n

/-- The mask that a word reads. -/
def maskOfWord (m : BitVec 3) (me : BitVec 1) : List Nat := if me = 1 then [m.toNat] else []

/-- Element `i` of format `f` is enabled (R128). -/
def enabled (v : VState) (f : BitVec 4) (m : BitVec 3) (me : BitVec 1) (i : Nat) : Bool :=
  me != 1 || (vget 0 v.m m.toNat).getLsbD (i * elemBits f / 8)

/-- Deliver (R130): the result pushed unless it is transient, and put in the bypass; a transient that leaves unconsumed is
lost. -/
def delivered (v : VState) (vd : Reg) (tag : BitVec 4) (data : BitVec 2048) (tr : Bool) (ready : Nat) : VState :=
  let e : Entry := ⟨tag, data, ready⟩
  let gone : BitVec 32 := match vget none v.byp 2 with
    | some b => if b.t = true ∧ b.used = false then 1 <<< b.reg.toNat else 0
    | none => 0
  { v with
    q := if tr then v.q else vput v.q vd.toNat (vget [] v.q vd.toNat ++ [e])
    byp := #v[some ⟨tr, false, vd, e⟩, vget none v.byp 0, vget none v.byp 1]
    lost := (v.lost ||| gone) &&& ~~~(1 <<< vd.toNat : BitVec 32) }

/-- What a V word leaves to land after `lat` beats: its flags and counts (R134, R279). -/
def flying (s : State) (v : VState) (fl : Flags) (loads stores : Nat) (kw : Bool) (lat : Nat) : VState :=
  { v with fly := v.fly ++ [⟨fl, loads, stores, kw, s.here.beat, s.here.cnt, s.here.beat + lat⟩] }

/-- The context at issue with another vector state. -/
def withVec (s : State) (v : VState) : Ctx := { s.me with vec := v }

/-- The context after a V word with one vector result, whose reads left the vector state at `v`; SDCV advances under .rs
(R81). -/
def vOut (s : State) (v : VState) (vd : Reg) (tag : BitVec 4) (data : BitVec 2048) (tr : BitVec 1) (lat : Nat) (rnd : BitVec 3)
    (fl : Flags) : Ctx :=
  { s.me with
    vec := flying s (delivered v vd tag data (tr == 1) (s.here.beat + lat)) fl 0 0 false lat
    sdcv := if rnd = 4 then s.me.sdcv + 1 else s.me.sdcv }

/-- A V word delivers the elements `elem` in format `tag` and the flags `fl`, or finds no room (R130). -/
def Delivers (i : Instr) (s : State) (v : VState) (vd : Reg) (tag : BitVec 4) (tr : BitVec 1) (lat : Nat) (rnd : BitVec 3)
    (elem : Nat → Nat) (fl : Flags) : Prop :=
  let n := (vget [] v.q vd.toNat).length + (if tr = 1 then 0 else 1)
  (n ≤ 4 → ∃ data, EWord i s .v (vOut s v vd tag data tr lat rnd fl)
    ∧ ∀ j, j < elemCount tag → elemOf tag data j = elem j % 2 ^ elemBits tag)
  ∧ (4 < n → Raises i s 0x22 (vd.setWidth 64))

/-- The value of an integer element: UINT8 unsigned, the others signed (R128). -/
def intVal (f : BitVec 4) (x : Nat) : Int := if f = 9 then x else (BitVec.ofNat (elemBits f) x).toInt

/-- An exact integer result in a format (R76): wrapped, or saturated; OVF when it lies outside the range. -/
def intLane (f : BitVec 4) (sat : Bool) (v : Int) : Nat × Flags :=
  let w := elemBits f
  let lo : Int := if f = 9 then 0 else -(2 ^ (w - 1) : Nat)
  let hi : Int := if f = 9 then 255 else (2 ^ (w - 1) : Nat) - 1
  ((BitVec.ofInt w (if sat then max lo (min hi v) else v)).toNat, if v < lo ∨ hi < v then 2 else 0)

/-- An exact float result rounded into a format, with the flags of the operation and of the rounding (R77 to R80). -/
def rounded (f : BitVec 4) (rnd : BitVec 3) (sat : BitVec 1) (r : Nat) (v : Machine.Num × Flags) : Nat × Flags :=
  let y := encodeFloat f rnd (sat == 1) r v.1
  (y.1, v.2 ||| y.2)

/-- An operation that is exact on values, or on integers. -/
def arith (f : BitVec 4) (rnd : BitVec 3) (sat : BitVec 1) (g : Machine.Num → Machine.Num → Machine.Num × Flags) (h : Int → Int → Int) : Lane :=
  fun r a b _ =>
    if fmtI f then intLane f (sat == 1) (h (intVal f a) (intVal f b)) else rounded f rnd sat r (g (decodeFloat f a) (decodeFloat f b))

/-- An operation on bit patterns of the width of a format. -/
def onBits (f : BitVec 4) (g : BitVec (elemBits f) → BitVec (elemBits f) → BitVec (elemBits f) → BitVec (elemBits f)) : Lane :=
  fun _ a b c => ((g (BitVec.ofNat _ a) (BitVec.ofNat _ b) (BitVec.ofNat _ c)).toNat, 0)

/-- The lesser or greater of two elements: -0 lies below +0, and a NaN among them gives the canonical NaN (R140). -/
def lesser (f : BitVec 4) (greater : Bool) : Lane := fun _ a b _ =>
  let nan := fun (x : Nat) => !fmtI f && decodeFloat f x == .nan
  let below := fun (x y : Nat) =>
    if fmtI f then decide (intVal f x < intVal f y) else ltNum true (decodeFloat f x) (decodeFloat f y)
  (if nan a || nan b then canonNan f else if (if greater then below a b else below b a) then b else a, 0)

/-- The high half of an integer product, and the rounded average (R139). -/
def intHigh (f : BitVec 4) : Lane := fun _ a b _ =>
  ((BitVec.ofInt (elemBits f) (intVal f a * intVal f b / (2 ^ elemBits f : Nat))).toNat, 0)
def intMean (f : BitVec 4) : Lane := fun _ a b _ => ((BitVec.ofInt (elemBits f) ((intVal f a + intVal f b + 1) / 2)).toNat, 0)

/-- The elementwise rows of R139: how many sources, the latency of R134, and the result of an enabled lane. -/
def laneOp : Instr → Option (FVR × Nat × Nat × Lane)
  | .vadd f => some (f, 2, 3, arith f.fmt f.rnd f.sat (addNum f.rnd) (· + ·))
  | .vsub f => some (f, 2, 3, arith f.fmt f.rnd f.sat (fun a b => addNum f.rnd a (negNum b)) (· - ·))
  | .vmul f => some (f, 2, 4, arith f.fmt f.rnd f.sat mulNum (· * ·))
  | .vfma f => some (f, 3, 4, fun r a b c => rounded f.fmt f.rnd f.sat r
      (fmaNum f.rnd false (decodeFloat f.fmt a) (decodeFloat f.fmt b) (decodeFloat f.fmt c)))
  | .vfms f => some (f, 3, 4, fun r a b c => rounded f.fmt f.rnd f.sat r
      (fmaNum f.rnd false (decodeFloat f.fmt a) (decodeFloat f.fmt b) (negNum (decodeFloat f.fmt c))))
  | .vnfma f => some (f, 3, 4, fun r a b c => rounded f.fmt f.rnd f.sat r
      (fmaNum f.rnd true (decodeFloat f.fmt a) (decodeFloat f.fmt b) (decodeFloat f.fmt c)))
  | .vmin f => some (f, 2, 3, lesser f.fmt false)
  | .vmax f => some (f, 2, 3, lesser f.fmt true)
  | .vabs f => some (f, 1, 3, fun _ a _ _ =>
      if fmtI f.fmt then intLane f.fmt (f.sat == 1) (intVal f.fmt a).natAbs
      else if decodeFloat f.fmt a = .nan then (canonNan f.fmt, 0) else (a % 2 ^ (elemBits f.fmt - 1), 0))
  | .vneg f => some (f, 1, 3, fun _ a _ _ =>
      if fmtI f.fmt then intLane f.fmt (f.sat == 1) (-intVal f.fmt a)
      else if decodeFloat f.fmt a = .nan then (canonNan f.fmt, 0)
      else ((BitVec.ofNat (elemBits f.fmt) a ^^^ BitVec.ofNat _ (2 ^ (elemBits f.fmt - 1))).toNat, 0))
  | .vand f => some (f, 2, 2, onBits f.fmt fun a b _ => a &&& b)
  | .vor f => some (f, 2, 2, onBits f.fmt fun a b _ => a ||| b)
  | .vxor f => some (f, 2, 2, onBits f.fmt fun a b _ => a ^^^ b)
  | .vandn f => some (f, 2, 2, onBits f.fmt fun a b _ => a &&& ~~~b)
  | .vsll f => some (f, 2, 2, onBits f.fmt fun a b _ => a <<< (b.toNat % elemBits f.fmt))
  | .vsrl f => some (f, 2, 2, onBits f.fmt fun a b _ => a >>> (b.toNat % elemBits f.fmt))
  | .vsra f => some (f, 2, 2, onBits f.fmt fun a b _ => a.sshiftRight (b.toNat % elemBits f.fmt))
  | .vfsl f => some (f, 3, 2, onBits f.fmt fun a b c =>
      ((a ++ b) <<< (c.toNat % elemBits f.fmt)).extractLsb' (elemBits f.fmt) (elemBits f.fmt))
  | .vfsr f => some (f, 3, 2, onBits f.fmt fun a b c => ((a ++ b) >>> (c.toNat % elemBits f.fmt)).setWidth (elemBits f.fmt))
  | .vmulh f => some (f, 2, 4, intHigh f.fmt)
  | .vavg f => some (f, 2, 2, intMean f.fmt)
  | .vclz f => some (f, 1, 2, fun _ a _ _ => ((((List.range (elemBits f.fmt)).reverse).takeWhile fun k => !a.testBit k).length, 0))
  | .vpopc f => some (f, 1, 2, fun _ a _ _ => (((List.range (elemBits f.fmt)).filter a.testBit).length, 0))
  | .vexp f => some (f, 1, 10, laneExp f.fmt f.rnd (f.sat == 1))
  | .vrcp f => some (f, 1, 10, laneRcp f.fmt f.rnd (f.sat == 1))
  | .vrsq f => some (f, 1, 10, laneRsq f.fmt f.rnd (f.sat == 1))
  | _ => none

/-- The immediate rows of R141: whether va is read, the latency, and the result of an enabled lane. -/
def immOp : Instr → Option (FVI × Bool × Nat × Lane)
  | .vaddi f => some (f, true, 3, imm f (addNum f.rnd) (· + ·))
  | .vmuli f => some (f, true, 4, imm f mulNum (· * ·))
  | .vslli f => some (f, true, 2, onBits f.fmt fun a _ _ => a <<< (f.imm.toNat % elemBits f.fmt))
  | .vsrli f => some (f, true, 2, onBits f.fmt fun a _ _ => a >>> (f.imm.toNat % elemBits f.fmt))
  | .vsrai f => some (f, true, 2, onBits f.fmt fun a _ _ => a.sshiftRight (f.imm.toNat % elemBits f.fmt))
  | .vfsli f => some (f, true, 2, onBits f.fmt fun a _ _ => a.rotateLeft (f.imm.toNat % elemBits f.fmt))
  | .vfsri f => some (f, true, 2, onBits f.fmt fun a _ _ => a.rotateRight (f.imm.toNat % elemBits f.fmt))
  | .vsplat f => some (f, false, 2, imm f (fun _ x => (x, 0)) fun _ x => x)
  | _ => none
where
  /-- An operation with I: the value of a BF16 pattern, or sext(imm). -/
  imm (f : FVI) (g : Machine.Num → Machine.Num → Machine.Num × Flags) (h : Int → Int → Int) : Lane := fun r a _ _ =>
    if fmtI f.fmt then intLane f.fmt (f.sat == 1) (h (intVal f.fmt a) f.imm.toInt)
    else rounded f.fmt f.rnd f.sat r (g (decodeFloat f.fmt a) (decodeFloat 2 f.imm.toNat))

/-- The union of the flags of the enabled elements. -/
def flagsOf (n : Nat) (en : Nat → Bool) (g : Nat → Nat × Flags) : Flags :=
  ((List.range n).filter en).foldl (fun a i => a ||| (g i).2) 0

/-- Element `i` of the `k`-th entry read. -/
def el (f : BitVec 4) (es : List Entry) (k i : Nat) : Nat := elemOf f ((es.map (·.data)).getD k 0) i

/-- The formats F and I (R128). -/
def FmtFI (f : BitVec 4) : Prop := 1 ≤ f.toNat ∧ f.toNat ≤ 11 ∧ f ≠ 7

/-- The least and the largest value of a format of F or I, as patterns (R144). -/
def leastOf (f : BitVec 4) : Nat :=
  [0, 0xFF800000, 0xFF80, 0xFC00, 0xFE, 0xFC, 0xF, 0, 0x80, 0, 0x80000000, 0x8000000000000000].getD f.toNat 0
def largestOf (f : BitVec 4) : Nat :=
  [0, 0x7F800000, 0x7F80, 0x7C00, 0x7E, 0x7C, 0x7, 0, 0x7F, 0xFF, 0x7FFFFFFF, 0x7FFFFFFFFFFFFFFF].getD f.toNat 0

/-- Element `x` lies below element `y` (R140); `zeros` where -0 lies below +0. -/
def belowElem (f : BitVec 4) (zeros : Bool) (x y : Nat) : Prop :=
  if fmtI f then intVal f x < intVal f y else ltNum zeros (decodeFloat f x) (decodeFloat f y) = true

/-- `r` is the greatest, or the least, of some elements (R144). -/
def IsExtreme (f : BitVec 4) (greatest : Bool) (l : List Nat) (r : Nat) : Prop :=
  let nan := fun x => fmtI f = false ∧ decodeFloat f x = .nan
  (l = [] → r = if greatest then leastOf f else largestOf f)
  ∧ ((∃ x, x ∈ l ∧ nan x) → r = canonNan f)
  ∧ (l ≠ [] → (∀ x, x ∈ l → ¬ nan x) → r ∈ l ∧ ∀ x, x ∈ l → ¬ if greatest then belowElem f true r x else belowElem f true x r)

/-- The exact sum of elements, rounded once (R144). -/
def sumLane (f : BitVec 4) (rnd : BitVec 3) (sat : BitVec 1) (r : Nat) (l : List Nat) : Nat × Flags :=
  if fmtI f then intLane f (sat == 1) (l.map (intVal f)).sum else rounded f rnd sat r (sumNum rnd (l.map (decodeFloat f)))

/-- The enabled elements among indices `lo` to `lo + n - 1`, in order. -/
def enabledFrom (en : Nat → Bool) (a : Nat → Nat) (lo n : Nat) : List Nat := ((List.range' lo n).filter en).map a

/-- A word that writes mask `d`: bit `j` becomes `b j`, readable after `lat` beats; it leaves the bypass alone (R130). -/
def WritesMask (i : Instr) (s : State) (v : VState) (d lat : Nat) (b : Nat → Prop) : Prop :=
  ∃ k, EWord i s .v (withVec s (flying s
      { v with m := vput v.m d k, mReady := vput v.mReady d (max (s.here.beat + lat) (vget 0 v.mReady d)) } 0 0 0 false lat))
    ∧ ∀ j, j < 256 → (k.getLsbD j = true ↔ b j)

/-- The compares of R145 on two elements that are no NaN. -/
def compareOp : Instr → Option (FVR × (Nat → Nat → Prop))
  | .vcmpeq f => some (f, fun a b => ¬ belowElem f.fmt false a b ∧ ¬ belowElem f.fmt false b a)
  | .vcmplt f => some (f, belowElem f.fmt false)
  | .vcmple f => some (f, fun a b => ¬ belowElem f.fmt false b a)
  | _ => none

/-- A conditional queue. -/
def condQ (v : VState) (q : Nat) : CondQueue := vget ⟨[], 0, 0⟩ v.cq q

/-- One element converted (R142). -/
def converted (g fmt : BitVec 4) (rnd : BitVec 3) (sat : BitVec 1) (r x : Nat) : Nat × Flags :=
  if fmtI g && fmtI fmt then intLane fmt (sat == 1) (intVal g x)
  else
    let v := if fmtI g then Machine.Num.ofInt (intVal g x) else decodeFloat g x
    let y := encodeNum fmt rnd (sat == 1) r v
    (y.1, if g = 7 ∧ v = .nan then y.2 ||| 8 else y.2)

/-! ## Tile SRAM -/

/-- The tile address of a word (R45): the innermost repeat level's iteration index counts the steps. -/
def eaOf (s : State) (gidx : BitVec 20) (step : BitVec 6) : Nat :=
  let it := match (s.me.strm s.cur.strm).levels with
    | [] => 0
    | l :: _ => l.it
  (gidx.toNat * 16 + it * step.toNat * 16) % 2 ^ 24

/-- The location of tile address `a` of the lease (R178, R204). -/
def tileLoc (s : State) (a : Nat) : Nat := 0x1000000000000 + s.cur.at_ * 0x400000 + (s.here.lbase.toNat * 4096 + a % 2 ^ 24)

/-- The tile address lies in the accessible part of the lease (R178). -/
abbrev inLease (s : State) (a : Nat) : Prop := a % 2 ^ 24 < (s.here.lsize.toNat - s.here.lsave.toNat) * 4096

/-- The word of an engine passes and leaves the context at `d`, but for the written map of its lease. -/
def EPass (s t : State) (e : Strm) (d : Ctx) : Prop :=
  Issued s t ∧ t.me = { (suse e d).updStrm e (streamPast s.cur.idx (s.here.clock e)) with written := t.me.written }

/-- The context with the vector state `v` and a load or a store counted. -/
def vMem (s1 : State) (v : VState) (loads stores : Nat) : Ctx :=
  { s1.me with vec := v, oc := { s1.me.oc with ocl := s1.me.oc.ocl + BitVec.ofNat 32 loads
                                               ocs := s1.me.oc.ocs + BitVec.ofNat 32 stores } }

/-- The byte lanes that a word's mask enables (R148). -/
def lanesOf (v : VState) (f : FVM) : List Nat :=
  (List.range 256).filter fun j => enabled v f.fmt f.m f.me (j * 8 / elemBits f.fmt)

/-- The bytes of a store by a tile's streams that stand: those at a location that no write of the tile's present beat has taken
which R237 puts after the streams' own. -/
def standing (s : State) (l : List (Nat × Byte)) : List (Nat × Byte) :=
  l.filter fun p => match placeOf p.1 with
    | .window u _ => !(s.tile u).start.any (·.late.contains p.1)
    | _ => true

/-- The granules of some locations of a tile's SRAM are full at `t`. -/
def Filled (t : State) (ls : List Nat) : Prop := ∀ l u off, l ∈ ls → placeOf l = .window u off → t.isFull u (off / 16) = true

/-! ## The matrix engine -/

/-- The matrix state after a word that counts as one tile operation until it completes (R191). -/
def xFly (s : State) (m : XState) (fl : Flags) : XState :=
  { m with fly := m.fly ++ [⟨fl, 0, 0, false, s.here.beat, s.here.cnt, s.here.beat⟩] }

/-- The context after an X word: its matrix state, one tile operation more where it counts as one, and SDCX where it draws. -/
def xOut (s1 : State) (m : XState) (ops : BitVec 32) (draws : Bool) : Ctx :=
  { s1.me with mat := m, oc := { s1.me.oc with oct := s1.me.oc.oct + ops }
               sdcx := if draws then s1.me.sdcx + 1 else s1.me.sdcx }

/-- The fields of a level in the order of XLNT's sel (R193). -/
def levelFields (l : NestLevel) : List (BitVec 32) := [l.cnt, l.da, l.db, l.dc, l.dsa, l.dsb]

/-- An operand slot, an accumulator buffer. -/
def slotOf (m : XState) (o : Nat) : Slot := vget ⟨false, 0, 0, 0, false, []⟩ m.slot o
def accOf (m : XState) (a : Nat) : Acc := vget ⟨false, 0, false, []⟩ m.acc a

/-- The words that fill a quarter of a slot, with the role they give it (R197, R198). -/
def fillOp : Instr → Option (FXS × BitVec 2)
  | .xfill f => some (f, 1)
  | .xscld f => some (f, 2)
  | .xmeta f => some (f, 3)
  | _ => none

/-- Element (i, 32 cg + c) of a buffer (R199). -/
def cell (x : Acc) (cg i c : Nat) : BitVec 32 := (sparseRun 0 x.data (512 * i + 32 * cg) 32).getD c 0

/-- The words that write a column group out: the tag that the buffer must not lack, and each element's pattern with its flags
(R199). -/
def drainOp (s : State) : Instr → Option (FXS × (BitVec 4 → Prop) × BitVec 4 × (BitVec 4 → Nat → BitVec 32 → Nat × Flags))
  | .xdrain f => some (f, (· = f.fmt), f.fmt, fun _ _ v => (v.toNat, 0))
  | .xcvt f =>
    let floats := f.fmt ∈ [(2 : BitVec 4), 3, 4, 5, 6]
    some (f, fun tag => tag = 1 ∧ floats ∨ tag = 10 ∧ f.fmt ∈ [(8 : BitVec 4), 9, 1], if floats then 1 else 10, fun tag i v =>
      if fmtI f.fmt then intLane f.fmt true v.toInt
      else encodeFloat f.fmt f.rnd false (s.drawOf .x i) (if tag = 10 then Machine.Num.ofInt v.toInt else decodeFloat 1 v.toNat))
  | _ => none

/-- The bytes of an XSTAT (R180, R182, R183, R200). -/
def xStatBytes (m : XState) : List Byte :=
  let slotD : List (BitVec 16) := m.slot.toList.map fun x => bit x.cl ++ x.role ++ x.tag ++ x.fq ++ bit x.busy ++ (0 : BitVec 4)
  let accD : List (BitVec 16) := m.acc.toList.map fun x => bit x.wr ++ x.tag ++ bit x.busy ++ (0 : BitVec 10)
  let steps : Word := bit m.shadow.run ++ (0 : BitVec 23) ++ BitVec.ofNat 40 m.steps
  (slotD ++ accD).flatMap (fun d => toBytes 2 d.toNat) ++ toBytes 8 steps.toNat
    ++ toBytes 2 (m.active.scl.toNat * 256 + m.active.sclA.toNat * 16 + m.active.sclB.toNat)
    ++ toBytes 2 (m.active.spa.toNat * 16 + m.active.spaM.toNat) ++ List.replicate 12 0

/-- An uncorrectable error stands at a location of a tile's SRAM (R176). -/
def ueAt (s : State) (l : Nat) : Bool := s.ues.contains l && (match placeOf l with | .window _ _ => true | _ => false)

/-- A run of tile addresses, in the lease, with no error. -/
def Reachable (s : State) (ea n : Nat) : Prop :=
  (∀ j, j < n → inLease s (ea + j)) ∧ Clean s ((List.range n).map fun j => tileLoc s (ea + j))

/-- The index tuples of a nest (R184). -/
def Tuple (r : NestRec) (idx : Vector (BitVec 32) 6) : Prop :=
  ∀ n, n < 6 → (vget 0 idx n).toNat < (vget ⟨0, 0, 0, 0, 0, 0⟩ r.levels n).cnt.toNat

/-- A pointer of R184: its base, its origin, and the advance of each level. -/
def pointer (r : NestRec) (base : Nat) (org : Nat) (adv : NestLevel → BitVec 32) (idx : Vector (BitVec 32) 6) : Int :=
  base + (vget 0 r.org org).toNat + ((List.range 6).map fun n =>
    ((vget 0 idx n).toNat : Int) * (adv (vget ⟨0, 0, 0, 0, 0, 0⟩ r.levels n)).toInt).sum

/-- The rows of a slot (R181). -/
def rowsOf (fmt : BitVec 4) (sparse : Bool) : Nat := 32768 / ((if sparse then 4 else 8) * elemBits fmt)

/-- Every range of R196 at one step of an XGO. -/
def StepInRange (r : NestRec) (f : FXC) (idx : Vector (BitVec 32) 6) : Prop :=
  let n : Int := 64 * 2 ^ f.shape.toNat
  let rb := rowsOf f.fb (f.spa != 0)
  let a := pointer r (f.oa.toNat * rowsOf f.fa false) 0 (·.da) idx
  let b := pointer r (f.ob.toNat * rb) 1 (·.db) idx
  let c := pointer r 0 2 (·.dc) idx
  let p := pointer r 0 3 (·.dsa) idx
  let q := pointer r 0 4 (·.dsb) idx
  0 ≤ a ∧ a + 128 ≤ 16 * rowsOf f.fa false ∧ 0 ≤ b ∧ b + n ≤ 16 * rb ∧ 0 ≤ c ∧ c + n ≤ 512
    ∧ (f.scl = 1 → 0 ≤ p ∧ 128 * p + 128 ≤ 8192 ∧ 0 ≤ q ∧ q + (n + 127) / 128 ≤ 8192)
    ∧ (f.scl = 2 → 0 ≤ p ∧ 4 * (128 * p + 128) ≤ 32768 ∧ 0 ≤ q ∧ 4 * (q + n) ≤ 32768)
    ∧ (f.spa ≠ 0 → 0 ≤ b - f.ob.toNat * rb ∧ b - f.ob.toNat * rb + n ≤ 4096)

/-- The place of an index tuple in nest order (R184). -/
def nestOrder (r : NestRec) (idx : Vector (BitVec 32) 6) : Nat :=
  (List.range 6).foldl (fun v n => v * (vget ⟨0, 0, 0, 0, 0, 0⟩ r.levels n).cnt.toNat + (vget 0 idx n).toNat) 0

/-- The steps of a nest. -/
def nestSteps (r : NestRec) : Nat := (r.levels.toList.map (·.cnt.toNat)).prod

/-- Element `t` of a dense operand row. -/
def rowElem (m : XState) (fmt : BitVec 4) (row t : Nat) : Nat :=
  nbits (ofBytes (m.slotBytes (row * (8 * elemBits fmt)) (8 * elemBits fmt))) (elemBits fmt * t) (elemBits fmt)

/-! ## Rounding -/

/-- `k` is `x`, which is not negative, rounded to an integer by mode `rnd` (R77, R80); `r` is the stochastic draw, and `neg` the
sign of the value whose magnitude `x` is. -/
def RoundsTo (rnd : BitVec 3) (neg : Bool) (r : Nat) (x : Rat) (k : Nat) : Prop :=
  ∃ n : Nat, (n : Rat) ≤ x ∧ x < n + 1 ∧ k =
    if (n : Rat) = x then n
    else if rnd = 0 then (if 2 * (x - n) < 1 ∨ (2 * (x - n) = 1 ∧ n % 2 = 0) then n else n + 1)
    else if rnd = 1 then n
    else if rnd = 2 then (if neg then n else n + 1)
    else if rnd = 3 then (if neg then n + 1 else n)
    else if (r : Int) < (4294967296 * (x - n)).floor then n + 1 else n

/-- 2^e. -/
def pow2 (e : Int) : Rat := if 0 ≤ e then ((2 ^ e.toNat : Nat) : Rat) else 1 / ((2 ^ (-e).toNat : Nat) : Rat)

/-! ## The sum-product engine -/

/-- The value of a lane (R83). -/
def laneVal (x : Lane32) : Rat :=
  ((x.w.extractLsb' 0 24).toNat : Rat) * pow2 (-(24 + ((x.w.extractLsb' 24 8).toNat : Int) + x.g.toInt))

/-- The value of a nonzero lane as a number. -/
def laneNum (x : Lane32) : Machine.Num :=
  .fin false (x.w.extractLsb' 0 24).toNat (-(24 + ((x.w.extractLsb' 24 8).toNat : Int) + x.g.toInt))

/-- A lane and its flags are formed from the exact value `v` (R84, R85). -/
def Formed (gref : BitVec 16) (rnd : BitVec 3) (r : Nat) (v : Rat) (y : Lane32 × Flags) : Prop :=
  (v = 0 → y = (⟨0, gref⟩, 0))
  ∧ (0 < v → ∃ (k f : Nat) (t0 t : Int), 2 ^ 23 ≤ v * pow2 (24 + t0) ∧ v * pow2 (24 + t0) < 2 ^ 24
      ∧ RoundsTo rnd false r (v * pow2 (24 + t0)) k ∧ (f, t) = (if k = 2 ^ 24 then (2 ^ 23, t0 - 1) else (k, t0))
      ∧ y = if 0 ≤ t - gref.toInt ∧ t - gref.toInt ≤ 255 then (⟨BitVec.ofInt 8 (t - gref.toInt) ++ BitVec.ofNat 24 f, gref⟩, 0)
          else if 255 < t - gref.toInt ∧ t - 255 ≤ 32767 then (⟨(255 : BitVec 8) ++ BitVec.ofNat 24 f, BitVec.ofInt 16 (t - 255)⟩, 0)
          else if 255 < t - gref.toInt then (⟨0, gref⟩, 16)
          else if -32768 ≤ t then (⟨BitVec.ofNat 32 f, BitVec.ofInt 16 t⟩, 0)
          else (⟨0x00FFFFFF, 0x8000⟩, 2))

/-- A word of the sum-product engine on its registers: the runs that it reads, the one that it writes, its rounding, and what
the element `k` of its result may be, lane `k mod 32` of register `k div 32` of the run. -/
structure SumOp where
  reads : List Run
  dst : Run
  rnd : BitVec 3
  out : Nat → Lane32 × Flags → Prop

/-- Lane `l` of register `k` of a run. -/
def lane (s : State) (r : Run) (k l : Nat) : Lane32 := ((s.lanesOf r)[32 * k + l]?).getD ⟨0, 0⟩

/-- The fields of a shape (R164). -/
def nodes (f : FSP) : Nat := (f.shape.extractLsb' 0 3).toNat + 1
def terms (f : FSP) : Nat := (f.shape.extractLsb' 3 3).toNat + 1
def factors (f : FSP) : Nat := (f.shape.extractLsb' 6 2).toNat + 1

/-- The runs of a pass (R164), and the mirror of a run (R160). -/
def ins (f : FSP) : Run := ⟨f.bi.toNat, f.ii.toNat, nodes f * terms f * factors f⟩
def wts (f : FSP) : Run := ⟨f.bw.toNat, f.iw.toNat, nodes f * terms f⟩
def outs (f : FSP) : Run := ⟨f.bo.toNat, f.io.toNat, nodes f⟩
def mirrored (r : Run) : Run := ⟨r.bank ^^^ 8, r.i, r.n⟩

/-- An upward pass (R165). -/
def upward (s : State) (f : FSP) (weighted : Bool) : SumOp where
  reads := ins f :: if weighted then [wts f] else []
  dst := outs f
  rnd := 0
  out := fun e => Formed (lane s (outs f) (e / 32) (e % 32)).g 0 0 ((List.range (terms f)).map fun k =>
      let t := e / 32 * terms f + k
      (if weighted then laneVal (lane s (wts f) t (e % 32)) else 1)
        * ((List.range (factors f)).map fun l => laneVal (lane s (ins f) (t * factors f + l) (e % 32))).foldr (· * ·) 1).sum

/-- The source and the destination of a word of format SB, `n` registers each. -/
def from_ (f : FSB) (n : Nat) : Run := ⟨f.bs.toNat, f.is.toNat, n⟩
def to_ (f : FSB) (n : Nat) : Run := ⟨f.bd.toNat, f.id.toNat, n⟩

/-- A word of format SB that writes `n` registers from `n`, lane by lane. -/
def lanewise (s : State) (f : FSB) (n : Nat) (rnd : BitVec 3) (g : Nat → Lane32 → Lane32 × Flags → Prop) : SumOp :=
  ⟨[from_ f n], to_ f n, rnd, fun e => g e (lane s (from_ f n) (e / 32) (e % 32))⟩

/-- The words of R165, R166, R169 and R170. -/
def sumOp (s : State) : Instr → Option SumOp
  | .sup f => some (upward s f true)
  | .ssum f => some (upward s f false)
  | .smul f => some (upward s f false)
  | .sdown f => some ⟨[ins f, wts f, mirrored (outs f), mirrored (ins f)], mirrored (ins f), 0, fun e =>
      let i := e / 32
      let t := i / factors f
      let old := lane s (mirrored (ins f)) i (e % 32)
      Formed old.g 0 0 (laneVal old + laneVal (lane s (mirrored (outs f)) (t / terms f) (e % 32)) * laneVal (lane s (wts f) t (e % 32))
        * (((List.range (factors f)).filter (· != i % factors f)).map fun m =>
            laneVal (lane s (ins f) (t * factors f + m) (e % 32))).foldr (· * ·) 1)⟩
  | .smov f => some (lanewise s f (count f) 0 fun _ x y => y = (x, 0))
  | .sresc f => some (lanewise s f 1 0 fun _ x => Formed x.g 0 0 (laneVal x * pow2 f.imm.toInt))
  | .sgexp f => some (lanewise s f 1 0 fun _ x => Formed (f.imm.signExtend 16) 0 0 (laneVal x))
  | .scvti f => some (lanewise s f 1 f.rnd fun e x y =>
      match decodeFloat f.fmt (x.w.toNat % 2 ^ elemBits f.fmt) with
      | .zero _ => y = (⟨0, 0⟩, 0)
      | .fin false m q => Formed 0 f.rnd (s.drawOf .s e) (m * pow2 q) y
      | .inf false => y = (⟨0x00FFFFFF, 0x8000⟩, 2)
      | _ => y = (⟨0, 0⟩, 1))
  | .scvto f => some (lanewise s f 1 f.rnd fun e x y =>
      let is := fun (z : Nat × Flags) => y = (⟨BitVec.ofNat 32 z.1, 0⟩, z.2)
      let lg := f.imm.getLsbD 0
      (f.fmt ∈ [(1 : BitVec 4), 2, 3] → laneVal x = 0 → is (if lg then largestNeg f.fmt else 0, 0))
      ∧ (lg = false → laneVal x ≠ 0 → is (encodeFloat f.fmt f.rnd false (s.drawOf .s e) (laneNum x)))
      ∧ ∀ n, lg = true → laneVal x = pow2 n → is (encodeFloat f.fmt f.rnd false (s.drawOf .s e) (Machine.Num.ofInt n)))
  | .sevid f => some ⟨[from_ f 1], to_ f (count f), 0, fun e y =>
      let v := (lane s (from_ f 1) 0 (e % 32)).w
      ∃ z, Formed 0 0 0 (if v = 0xFFFFFFFF ∨ v.toNat = e / 32 then 1 else 0) z
        ∧ y = (z.1, if v ≠ 0xFFFFFFFF ∧ count f ≤ v.toNat then 1 else 0)⟩
  | .szero f => some ⟨[], to_ f (count f), 0, fun _ => Formed 0 0 0 0⟩
  | .sone f => some ⟨[], to_ f (count f), 0, fun _ => Formed 0 0 0 1⟩
  | .snorm f =>
    let d : Run := ⟨(f.imm.extractLsb' 11 4).toNat, (f.imm.extractLsb' 3 8).toNat, 1⟩
    some ⟨[from_ f 1, d], to_ f 1, f.rnd, fun e y =>
      let g := (lane s (to_ f 1) 0 e).g
      let b := laneVal (lane s d 0 e)
      (b = 0 → y = (⟨0, g⟩, 1)) ∧ (b ≠ 0 → Formed g f.rnd (s.drawOf .s e) (laneVal (lane s (from_ f 1) 0 e) / b) y)⟩
  | .smarg f =>
    let n := count f
    some ⟨[from_ f n, mirrored (from_ f n)], to_ f n, f.rnd, fun e =>
      Formed (lane s (to_ f n) (e / 32) (e % 32)).g f.rnd (s.drawOf .s e)
        (laneVal (lane s (from_ f n) (e / 32) (e % 32)) * laneVal (lane s (mirrored (from_ f n)) (e / 32) (e % 32)))⟩
  | _ => none
where
  /-- The count of an SB word (R169). -/
  count (f : FSB) : Nat := (f.imm.extractLsb' 0 8).toNat + 1
  /-- The pattern of -∞. -/
  largestNeg (f : BitVec 4) : Nat := if f = 1 then 0xFF800000 else if f = 2 then 0xFF80 else 0xFC00

/-- A run within its bank (R162). -/
def inBank255 (r : Run) : Prop := r.i + r.n ≤ 256

/-- Every register of some runs may be read (R163). -/
def SumReady (s : State) (l : List Run) : Prop :=
  ∀ r, r ∈ l → ∀ b, b ∈ sparseRun 0 s.me.spe.ready (256 * r.bank + r.i) r.n → b ≤ s.here.beat

/-- B of R163. -/
def beatsOf (reads writes : List Run) : Nat :=
  let at_ := fun (l : List Run) (b : Nat) => ((l.filter (·.bank == b)).map (·.n)).sum
  ((List.range 16).map fun b => max ((at_ reads b + 3) / 4) ((at_ writes b + 1) / 2)).foldl max 1

/-- A word of S passes with the engine's registers at `p`: its stream moves on, the engine is busy for `b` beats, one tile
operation is out with the flags `fl`, and SDCS advances under .rs (R81, R161, R163). -/
def SWord (s t : State) (s1 : State) (p : SState) (b : Nat) (rnd : BitVec 3) (fl : Flags) : Prop :=
  Issued s t
  ∧ t.here = { s1.here with issued := t.here.issued, since := t.here.since, retried := t.here.retried
                            holdS := s.here.beat + b, ctx := t.me, full := t.here.full, start := t.here.start
                            order := t.here.order, owners := t.here.owners }
  ∧ t.me = { s1.me.updStrm .s (streamPast s.cur.idx (s.here.clock .s)) with
      spe := { p with used := true, fly := p.fly ++ [⟨fl, 0, 0, false, s.here.beat, s.here.cnt, s.here.beat + b⟩] }
      sdcs := if rnd = 4 then s1.me.sdcs + 1 else s1.me.sdcs
      oc := { s1.me.oc with oct := s1.me.oc.oct + 1 }
      written := t.me.written }

/-- The engine's registers after a run is written with lanes that may be read from beat `ready` on (R163). -/
def putLanes (p : SState) (r : Run) (l : List Lane32) (ready : Nat) (q : SState) : Prop :=
  let at_ := 32 * (256 * r.bank + r.i)
  q = { p with word := q.word, g := q.g, ready := q.ready }
  ∧ (∀ k, (sget 0 q.word k, sget 0 q.g k) = if at_ ≤ k ∧ k < at_ + 32 * r.n then ((l.getD (k - at_) ⟨0, 0⟩).w, (l.getD (k - at_) ⟨0, 0⟩).g)
      else (sget 0 p.word k, sget 0 p.g k))
  ∧ ∀ k, sget 0 q.ready k = if 256 * r.bank + r.i ≤ k ∧ k < 256 * r.bank + r.i + r.n then ready else sget 0 p.ready k

/-! ## Events of a tile -/

/-- Of a tile only the context on it changes. -/
def OnlyCtxAt (u : Nat) (s t : State) (d : Ctx) : Prop :=
  OnlyTile u s t ∧ t.tile u = { s.tile u with ctx := d } ∧ t.last = .event

/-- The context after a word of an engine with its counts and flags lands (R239, R279). -/
def landed (c : Ctx) (f : WordFly) : Ctx :=
  { c with oc := { c.oc with ocl := c.oc.ocl - BitVec.ofNat 32 f.loads, ocs := c.oc.ocs - BitVec.ofNat 32 f.stores }
           sflags := c.sflags ||| f.flags, flagNew := c.flagNew ||| f.flags }

/-- The context after a tile operation completes (R161, R191, R279). -/
def completed (c : Ctx) (f : WordFly) : Ctx :=
  { c with oc := { c.oc with oct := c.oc.oct - 1 }, sflags := c.sflags ||| f.flags, flagNew := c.flagNew ||| f.flags }

/-- One record more waits for a die's RAS log, with the TIMEB of its report; `RecordsReachTheirLog` says how it is written
(R379). -/
def OneRasRecord (s t : State) (d : Nat) : Prop :=
  ∃ r, (t.die d).records = (s.die d).records ++ [r] ∧ r.time = BitVec.ofNat 64 s.timeb

/-- That record, with its CODE, BOX, UNIT and DETAIL (R379). -/
def RasReported (s t : State) (d code box unit detail : Nat) : Prop :=
  (t.die d).records = (s.die d).records ++ [⟨BitVec.ofNat 8 code, box, unit, BitVec.ofNat 64 s.timeb, detail⟩]

/-- The fault pool of a die gives core `k` one more entry (R254): 1,024 entries, of which each core's ring has 256 for its own
and at most 1,024. -/
def FaultRoom (d : Die) (k : Nat) : Prop :=
  let held := fun j => (vget ⟨0, 0, 0, 0, []⟩ d.cores j).waiting.length
  let others := (List.range 4).filter (· != k)
  held k < 256 ∨ held k < 1024 ∧ held k + (others.map held).sum + (others.map fun j => 256 - held j).sum < 1024

/-- A fault record is posted for a page, unless one of its family is outstanding for it (of an engine's own accesses, one of
its chain) or eight are outstanding; its unit holds it while the pool gives it no entry; the page is asked for (R213, R224,
R225, R254, R266, R267, R269). -/
def RecordPosted (s t : State) (b kind unit eng chain : Nat) (page : Word) (cmd : BitVec 32) : Prop :=
  let x := s.box b
  let d := boxDie b
  let core := fun (z : State) => (vget ⟨0, 0, 0, 0, []⟩ (z.die d).cores (x.asid.toNat % 4)).waiting
  let r : FaultRec := ⟨b, x.asid, kind, unit, eng, chain, page, cmd, BitVec.ofNat 64 s.timeb, none⟩
  let none_ := (∃ r, r ∈ x.faults ∧ recFamily r.kind = recFamily kind ∧ r.page = page ∧ (kind = 8 → r.chain = chain))
    ∨ 8 ≤ (x.faults.filter fun r => r ∉ (s.die d).heldRecs).length
  let room := FaultRoom (s.die d) (x.asid.toNat % 4)
  (none_ → (t.box b).faults = x.faults ∧ core t = core s ∧ (t.die d).heldRecs = (s.die d).heldRecs)
  ∧ (¬ none_ → (t.box b).faults = x.faults ++ [r]
      ∧ (room → core t = core s ++ [r] ∧ (t.die d).heldRecs = (s.die d).heldRecs)
      ∧ (¬ room → core t = core s ∧ (t.die d).heldRecs = (s.die d).heldRecs ++ [r]))
  ∧ (d, x.asid.toNat, page) ∈ t.want

/-! ## Teams, selections, launches -/

/-- A running team on tiles of the package, each its own. -/
def TeamOn (s : State) (b : Nat) : Prop :=
  (s.box b).state = .running ∧ (s.box b).tiles.Nodup ∧ ∀ u, u ∈ (s.box b).tiles → u < 160

/-- The box keeps all but the contexts that it holds of ranks which run nowhere: their counters fall where the home of a write
performs stores that come before it (R236, R239). -/
def KeepsBox (x y : Box) : Prop := y = { x with saved := y.saved }

/-- Nothing holds a launch: no edge, and its start timestamp is reached (R281, R369). -/
def MayStart (s : State) (l : Launch) : Prop := l.held = false ∧ l.timed = true ∧ l.start.toNat ≤ s.timeb

/-- Only box `b` changes. -/
def OnlyBox (s t : State) (b : Nat) (x : Box) : Prop :=
  t = { s with boxes := t.boxes, last := .event } ∧ t.box b = x ∧ ∀ a, a ≠ b → t.box a = s.box a

/-- The tiles once event `n` of box `b` has come at their present beat: marked on those that run its context (R291). -/
def marked (s : State) (b n : Nat) : Vector Tile 160 :=
  Vector.ofFn fun u =>
    let x := s.tile u.val
    if (s.box b).state = .running ∧ u.val ∈ (s.box b).tiles then { x with newEvents := x.newEvents ||| 1 <<< n } else x

/-- The context enters READY at the tail of its run list (R295). -/
def EntersReady (s t : State) (b : Nat) : Prop :=
  (t.box b).state = .ready ∧ (t.box b).age = 0 ∧ (t.box b).prio = s.effPrio (boxDie b) (s.box b).rcb ∧ (t.box b).readySeq = s.seq
    ∧ t.seq = s.seq + 1

/-- A running context that charges the block at `rcb` of a die (R294). -/
def Charges (s : State) (die : Nat) (rcb : Word) (b : Nat) : Prop :=
  (s.box b).state = .running ∧ boxDie b = die ∧ (s.charged die (s.box b).rcb).any (·.va == rcb) = true

/-! ## Packets -/

/-- The packet completes with a STATUS and a RESULT, TAG where none is given, its effect having left the state at `z` (R365). -/
def Completes (i : Instr) (s z : State) (p : Packet) (launch named : Bool) (st : Nat) (res : Option Nat) : Prop :=
  exec i s = .next { z.complete p launch named st res with last := .event }

/-- The little-endian operand of `n` bytes at offset `o` of a packet (R366). -/
def opnd (p : Packet) (o n : Nat) : Nat := (p.ops.toNat / 256 ^ (o - 16)) % 256 ^ n

/-- The box that a packet names may be commanded by its queue (R365). -/
def Commands (s : State) (p : Packet) : Prop :=
  p.compl.toNat % 8 = 0 ∧ (s.box p.box.toNat).state ≠ .free ∧ boxDie p.box.toNat = s.cur.at_
    ∧ s.under s.cur.at_ (s.box p.box.toNat).rcb s.myQueue.own = true

/-- The die and the queue of a packet at issue. -/
def AtQueue (s : State) : Prop := s.cur.at_ < 4 ∧ s.cur.sub < 32

/-- `b` is written at `va` in an ASID by the front end, whose write waits for nothing, and leaves the state at `t` (R213, R219, R236,
R366). -/
def FrontWrites (s t : State) (asid va : Nat) (b : List Byte) : Prop :=
  ∃ locs ls z, s.reach asid va b.length true = (.ok locs ls, z) ∧ z.writeWaits asid va b.length = false
    ∧ z.writeFrom z.cur.at_ asid (BitVec.ofNat 64 va) b = some t

/-- A completion word (R365). -/
def wordOf (st : Nat) (res : BitVec 32) : Word := (1 : BitVec 1) ++ (0 : BitVec 7) ++ BitVec.ofNat 8 st ++ (0 : BitVec 16) ++ res

/-- A launch completed in the records of its queue (R367). -/
def tagsAfter (m : MQueue) (launch : Bool) (tag : BitVec 32) (st : Nat) : MQueue :=
  if launch then { m with openTags := m.openTags.filter (· != tag)
                          doneTags := (tag, BitVec.ofNat 8 st) :: m.doneTags.filter (·.1 != tag) } else m

/-! ## HBM packets (R216 to R219) -/

/-- Packet `i` of a controller may be applied next: it is of kind `kinds`, and no earlier packet of its requester touches a
common byte (R219). -/
def MayApply (ps : List HbmPacket) (kinds : Nat → Bool) (i : Nat) : Prop :=
  ∃ p, ps[i]? = some p ∧ kinds (p.hdr.toNat / 2 ^ 120) = true ∧ ∀ q, q ∈ ps.take i → q.box = p.box → q.rank = p.rank →
    p.pa + p.len ≤ q.pa ∨ q.pa + q.len ≤ p.pa

/-- Field of a packet's header: `n` bits from bit `lo` (R216). -/
def hdrField (p : HbmPacket) (lo n : Nat) : Nat := p.hdr.toNat / 2 ^ lo % 2 ^ n

/-- Reason `r` of R217 applies to a request before its bytes are read. -/
def NackApplies (d k : Nat) (p : HbmPacket) (r : Nat) : Prop :=
  let op := hdrField p 120 8
  match r with
  | 1 => op = 0 ∨ 3 < op
  | 2 => hdrField p 112 6 ≠ 0 ∨ hdrField p 52 32 ≠ 0 ∨ op ≠ 1 ∧ hdrField p 118 2 ≠ 0 ∨ op = 3 ∧ hdrField p 90 6 ≠ 0
      ∨ op ≠ 3 ∧ (hdrField p 86 4 ≠ 0 ∨ hdrField p 84 2 ≠ 0) ∨ op = 3 ∧ (6 < hdrField p 86 4 ∨ hdrField p 84 2 < 2)
  | 3 => placeOf p.pa ≠ .hbm d ∨ p.pa / 4096 % 3 ≠ k ∨ hdrField p 118 2 = 0 ∧ 4096 < p.pa % 4096 + p.len ∨ op = 3 ∧ p.pa % p.len ≠ 0
      ∨ op ≠ 3 ∧ p.pa % 64 ≠ 0
  | 4 => hdrField p 118 2 ≠ 0 ∧ (hdrField p 90 6 ≠ 63 ∨ p.pa % 4096 ≠ 0)
  | _ => False

/-- The reply offset of source byte `s` of a 4 KiB granule (R218). -/
def replyOffset (lay s : Nat) : Nat :=
  let i := s / 64
  let j := s % 64
  match lay with
  | 0 => s
  | 1 => 64 * j + i
  | 2 => 2 * (32 * (s / 2 % 64) + s / 2 / 64) + s % 2
  | _ => 64 * (8 * (i / 8) + j / 8) + 8 * (i % 8) + j % 8

/-- The answer to a request, with its effect on memory (R216 to R218): ROPC, REASON and data. -/
def Answered (s t : State) (d k : Nat) (p : HbmPacket) (ropc why : Nat) (data : List Byte) : Prop :=
  let op := hdrField p 120 8
  let n := p.len
  let inside := fun a => p.pa ≤ a ∧ a < p.pa + n
  let ue := ∃ a, inside a ∧ a ∈ s.ues
  (∀ r, NackApplies d k p r → (∀ q, q < r → ¬ NackApplies d k p q) → ropc = 0xFF ∧ why = r ∧ data = [] ∧ t.mem = s.mem)
  ∧ ((∀ r, ¬ NackApplies d k p r) →
      (op ≠ 2 → ue → ropc = 0xFF ∧ why = 5 ∧ data = [] ∧ t.mem = s.mem)
      ∧ (op = 1 → ¬ ue → ropc = 0x81 ∧ why = 0 ∧ t.mem = s.mem ∧ data.length = n
          ∧ ∀ o, o < n → data[replyOffset (hdrField p 118 2) o]? = some (s.mem.read (p.pa + o)))
      ∧ (op = 2 → ropc = 0x82 ∧ why = 0 ∧ data = []
          ∧ ∀ a, t.mem.read a = if inside a then (p.data[a - p.pa]?).getD 0 else s.mem.read a)
      ∧ (op = 3 → ¬ ue → ropc = 0x83 ∧ why = 0 ∧ data = (rangeFrom p.pa n).map (s.mem.read ·)
          ∧ ∀ a, t.mem.read a = if inside a then
                ((toBytes n (hbmAtomic (hdrField p 86 4) n p.data (ofBytes data)))[a - p.pa]?).getD 0 else s.mem.read a))
where
  /-- The word that an atomic leaves (R216). -/
  hbmAtomic (aop n : Nat) (ops : List Byte) (old : Nat) : Nat :=
    let x := ofBytes (ops.take n)
    let y := ofBytes ((ops.drop n).take n)
    let sg := fun v => (BitVec.ofNat (8 * n) v).toInt
    match aop with
    | 0 => (old + x) % 2 ^ (8 * n)
    | 1 => x
    | 2 => if old = x then y else old
    | 3 => if sg x < sg old then x else old
    | 4 => if sg old < sg x then x else old
    | 5 => if x < old then x else old
    | _ => if old < x then x else old

/-! ## The residency engines (R213 to R215) -/

/-- The walk of a page ends at the word at location `x`, apart from the words above it, and none of the three holds one of
the locations `away`. -/
def TableApart (s : State) (asid va x : Nat) (away : List Nat) : Prop :=
  let r := (sget ⟨false, 0⟩ s.asids asid).root.toNat
  let a1 := r + 8 * (va / 2 ^ 42 % 2 ^ 15)
  let a2 := lfPfn (s.paWord a1) * 65536 + 8 * (va / 2 ^ 29 % 2 ^ 13)
  ∃ x1 x2, s.loc a1 = some x1 ∧ s.loc a2 = some x2 ∧ (x1 + 8 ≤ x ∨ x + 8 ≤ x1) ∧ (x2 + 8 ≤ x ∨ x + 8 ≤ x2)
    ∧ ∀ a, a ∈ away → ∀ y, y = x1 ∨ y = x2 ∨ y = x → a < y ∨ y + 8 ≤ a

/-- No translation of a page is cached. -/
def NotCached (t : State) (asid : Nat) (page : Word) : Prop := ∀ e, e ∈ t.tcache → ¬ (e.1 = asid ∧ e.2.1 = page.toNat / 65536)

/-- The place of a page in the order of R215: key-value pages of SWAPPED contexts, other pages of theirs, key-value pages of
PARKED contexts, other pages of theirs. -/
def victimClass (v : Victim) : Nat := (if v.swapped then 0 else 2) + (if v.kv then 0 else 1)

/-! ## Unit commands (R326 to R339) -/

/-- A unit's read of `n` bytes that the program may read, leaving the state at `t` (R326). -/
def UnitReads (s t : State) (va : Word) (n : Nat) (b : List Byte) : Prop := ((unitRead va n).run).run s = (.ok b, t)

/-- A unit's write that the program may make, leaving the state at `t` (R326). -/
def UnitWrites (s t : State) (va : Word) (b : List Byte) : Prop := ((unitWrite va b).run).run s = (.ok (), t)

/-- The command completes with a status, its effect having left the state at `z`: its DONE word is written last, its place in the
queue is free, and BADCMD and FAULT raise their causes on the context; one whose record cannot be written is a FAULT. It waits
while its record lies on a page under move or on a stack in forced self-refresh (R213, R219, R326, R340, R342). -/
def UnitCompletes (i : Instr) (s z : State) (res : Word) (st : Nat) : Prop :=
  let asid := (s.box s.cur.box).asid.toNat
  let put := z.writeFrom s.cur.at_ asid res (toBytes 8 (2 ^ 63 + st * 2 ^ 56)) (s.cur.sub == 4)
  (s.writeWaits asid res.toNat 8 = true → exec i s = .next { s with last := .event })
  ∧ (s.writeWaits asid res.toNat 8 = false → ∃ t, exec i s = .next t ∧ t.last = .event
      ∧ t.unitQueue s.cur.at_ s.cur.sub = (z.unitQueue s.cur.at_ s.cur.sub).drop 1
      ∧ (z.badReply asid res.toNat 8 true = none → (∀ y, put = some y → t.mem = y.mem) ∧ (put = none → t.mem = z.mem)
        ∧ (put = none ∨ st = 2 ∨ st = 5 → ∀ u, z.tileOf s.cur.box s.cur.rank = some u → u < 160 →
            (t.ctx u).trap.tpend.getLsbD (if put = none ∨ st = 5 then 6 else 5) = true)))

/-- The oldest command of a unit of the package at issue. -/
def AtUnit (s : State) : Prop := s.cur.at_ < 4 ∧ s.cur.sub < 6

/-- The fields that SLU commands share, within the ranges of R327; `rows` is false for MERGE. -/
def SluFields (c : SluCmd) (rows : Bool) : Prop :=
  c.mode.toNat < 2 ∧ c.topk.toNat ≤ 64 ∧ c.stride.toNat % 64 = 0 ∧ c.res.toNat % 64 = 0 ∧ c.src.toNat % 4 = 0 ∧ c.desc.toNat % 8 = 0
    ∧ c.base.toNat + c.vocab.toNat ≤ 16777215 ∧ c.invt.toNat / 2 ^ 23 % 256 ≠ 255 ∧ (c.vocab = 0 ↔ rows = false)

/-- TOPP in (0, 1], which R327 asks for where TOPK is 0. -/
def ToppFits (c : SluCmd) : Prop := c.topk = 0 → 0 < c.topp.toNat ∧ c.topp.toNat ≤ 0x3F800000

/-- The words of some bytes. -/
def wordsOf (b : List Byte) (n : Nat) : List Nat := (rangeFrom 0 n).map fun i => ofBytes ((b.drop (4 * i)).take 4)

/-- The bytes of a field. -/
def fieldOf (b : List Byte) (o n : Nat) : Nat := ofBytes ((b.drop o).take n)

/-- a_v of R329 as a pattern. -/
def logitOf (c : SluCmd) (ls ws : List Nat) (v : Nat) : Nat := aVal (f32 c.invt.toNat) (ls.getD v 0) (ws.getD v 0)

/-- O of R329: the tokens that are not excluded, by a_v descending and then by index. -/
def OrderO (c : SluCmd) (ls ws : List Nat) (o : List Nat) : Prop :=
  let a := fun v => f32 (logitOf c ls ws v)
  List.Perm o ((rangeFrom 0 c.vocab.toNat).filter fun v => a v != .inf true)
    ∧ List.Pairwise (fun v w => ltNum false (a w) (a v) = true ∨ eqNum (a v) (a w) = true ∧ v < w) o

/-- A value of a row that makes it BADROW (R329). -/
def BadRow (c : SluCmd) (ls ws : List Nat) : Prop :=
  ∃ v, v < c.vocab.toNat ∧ (f32 (logitOf c ls ws v) = .nan ∨ f32 (logitOf c ls ws v) = .inf false)

/-- The 8 bytes of a row's result (R327, R329, R331, R332), in greedy mode and under TOPK: the token of the greatest
a_v + g_v among the first of O. -/
def RowToken (c : SluCmd) (sid pos : BitVec 32) (ls ws : List Nat) (out : List Byte) : Prop :=
  let a := fun v => f32 (logitOf c ls ws v)
  let g := fun v => c.base.toNat + v
  let noisy := fun v => f32 (rneF32 (addNum 0 (a v) (noise c.seed sid pos (g v))).1)
  let sample := c.mode.getLsbD 0
  (BadRow c ls ws → out = toBytes 4 0xFFFFFFFF ++ toBytes 4 6)
  ∧ (¬ BadRow c ls ws → (∀ v, v < c.vocab.toNat → a v = .inf true) → out = toBytes 4 0xFFFFFFFF ++ toBytes 4 0)
  ∧ (¬ BadRow c ls ws → (∃ v, v < c.vocab.toNat ∧ a v ≠ .inf true) → sample = false ∨ c.topk ≠ 0 →
      ∃ o v, OrderO c ls ws o ∧ v ∈ o.take (if sample then c.topk.toNat else 1) ∧ out = toBytes 4 (g v) ++ toBytes 4 0
        ∧ (sample = true → ∀ w, w ∈ o.take c.topk.toNat → ltNum false (noisy v) (noisy w) = false))

/-- The row at `va` and the constraint weights that CW names are read (R328). -/
def RowRead (s t : State) (c : SluCmd) (va cw : Word) (ls ws : List Nat) : Prop :=
  let n := c.vocab.toNat
  ∃ b z, UnitReads s z va (4 * n) b ∧ ls = wordsOf b n
    ∧ ((cw = 0 ∧ t = z ∧ ws = List.replicate n 0) ∨ cw ≠ 0 ∧ ∃ b', UnitReads z t cw (4 * n) b' ∧ ws = wordsOf b' n)

/-! ## Commands of the package -/

/-- The packet's COMPL is aligned and its queue's QOWN is a root that the die has accepted (R365, R366). -/
def RootCommand (s : State) (p : Packet) : Prop :=
  p.compl.toNat % 8 = 0 ∧ ∃ r, s.region s.cur.at_ s.myQueue.own = some r ∧ r.root = true

/-- The command is refused with OWNER and one RAS record (R365). -/
def OwnerRefused (i : Instr) (s : State) (p : Packet) (named : Bool) : Prop :=
  ∃ z, OneRasRecord s z s.cur.at_ ∧ Completes i s z p false named 2 none

/-- A region control block's fields (R292) as the scheduler core copies them; USED, the default clock request and the templates go
on from the copy before. -/
def blockOf (va : Word) (d : Nat) (b : List Byte) (old : Option Region) (key : Option (List Byte)) (timeb : Nat) : Region :=
  let f := fieldOf b
  let root := decide (f 0x19 1 / 2 % 2 = 1)
  { va := va, parent := BitVec.ofNat 64 (f 0 8), root := root, die := d
    budgetOvr := decide (f 8 8 / 2 ^ 63 = 1), budget := f 8 8 % 2 ^ 48, period := f 0x10 8
    prioOvr := decide (f 0x18 1 / 2 ^ 7 = 1), prio := BitVec.ofNat 3 (f 0x18 1)
    isoOvr := decide (f 0x1C 4 / 2 ^ 31 = 1), iso := BitVec.ofNat 16 (f 0x1C 4)
    fdomOvr := decide (f 0x20 4 / 2 ^ 31 = 1), fdom := BitVec.ofNat 16 (f 0x20 4)
    wthrOvr := decide (f 0x24 4 / 2 ^ 31 = 1), wthr := BitVec.ofNat 24 (f 0x24 4)
    used := (old.map (·.used)).getD 0, dbgkey := key, clock := (old.map (·.clock)).getD 0xDDDD
    templates := (old.map (·.templates)).getD [], periodNo := if root then 2 * timeb / f 0x10 8 else 0 }

/-- A template's rules (R324). -/
def TemplateRules (l : List (Byte × Byte)) : Prop :=
  l.head? = some (0xFF, 0) ∧ ∀ k q, 0 < k → l[k]? = some q →
    q.1.toNat < k ∧ ∃ a, l[q.1.toNat]? = some a ∧ q.2.toNat = a.2.toNat + 1

/-- The bytes of one template's record (R68). -/
def templateBytes (i : Nat) (l : List (Byte × Byte)) : List Byte :=
  toBytes 1 i ++ toBytes 1 l.length ++ toBytes 2 0 ++ toBytes 4 (2 * l.length) ++ l.flatMap (fun q => [q.1, q.2])
    ++ List.replicate ((8 - 2 * l.length % 8) % 8) 0

/-! ## Values and formats -/

/-- The value of an exact magnitude. -/
def magVal (x : Mag) : Rat := (x.n : Rat) / (x.d : Rat) * pow2 x.e

/-- The value of a finite number. -/
def numVal (v : Machine.Num) : Option Rat :=
  match v with
  | .zero _ => some 0
  | .fin neg m e => some ((if neg then -1 else 1) * (m : Rat) * pow2 e)
  | _ => none

/-- Mantissa bits, the exponent of the smallest normal value, and the largest finite value of the formats FP32, BF16, FP16, E4M3,
E5M2 and E2M1, numbered 1 to 6 (R72). -/
def formatOf (f : BitVec 4) : Option (Nat × Int × Rat) :=
  match f.toNat with
  | 1 => some (23, -126, 16777215 * pow2 104)
  | 2 => some (7, -126, 255 * pow2 120)
  | 3 => some (10, -14, 65504)
  | 4 => some (3, -6, 448)
  | 5 => some (2, -14, 57344)
  | 6 => some (1, 0, 6)
  | _ => none

/-- The state at which the word `w` of stream `e` runs on tile `u`: named by `cur`, its page accessed. -/
def IssuesAt (z y : State) (u : Nat) (e : Strm) (w : Word) : Prop :=
  y = z.atIssue u e w
    ∧ y.cur = ⟨u, e, w, (z.ctx u).pcOf e, 0, ((z.tile u).box).getD 0, (z.tile u).rank⟩

end Sys2Proof.Spec

open Sys2Proof Sys2Proof.Machine Sys2Proof.Spec

/-- R111, R112: every register operation writes the result of its row, with the poison of what it reads and the latency of
R99, and changes nothing else. -/
def Obligations.ScalarResults : Prop :=
  ∀ (s : State) (i : Instr) (op : ScalarOp), scalarOp i = some op → AtIssue s .c → s.me.waits op.src = false →
    ∃ t, exec i s = .next t
      ∧ t.me.c.pend = s.me.c.pend ++ written s op.sd (op.val s.reg) (op.src.any s.me.c.psn) op.lat
      ∧ CFrame s t

/-- R113, R114, R119: a conditional branch that issues goes to its target, at the cost of the redirect stall and with the
levels whose bodies do not hold the target closed; or it goes on at the next word. It writes no register. -/
def Sys2Proof.Spec.ConditionalBranches : Prop :=
  ∀ (s : State) (i : Instr) (f : FCB) (c : Word → Word → Bool), branchOp i = some (f, c) → AtIssue s .c →
    s.me.waits [f.sa, f.sb] = false → s.me.c.live = false → NoLoopEnd s.me.c s.cur.idx →
    (c (s.reg f.sa) (s.reg f.sb) = false → ∃ t, exec i s = .next t ∧ t.me.c = s.me.c ∧ CFrame s t)
    ∧ (c (s.reg f.sa) (s.reg f.sb) = true → 0 ≤ s.cur.idx + f.disp.toInt → s.cur.idx + f.disp.toInt < cLen s →
        ∃ t, exec i s = .next t ∧ Jumped s t (s.cur.idx + f.disp.toInt).toNat ∧ t.me.c.pend = s.me.c.pend
          ∧ JumpFrame s t)

/-- R104, R113, R119: what stops a conditional branch from issuing. -/
def Sys2Proof.Spec.BranchesThatTrap : Prop :=
  ∀ (s : State) (i : Instr) (f : FCB) (c : Word → Word → Bool), branchOp i = some (f, c) → AtIssue s .c →
    (s.me.c.live = true → Parks i s 0x01 0)
    ∧ (s.me.c.live = false → s.me.waits [f.sa, f.sb] = true → Stalls i s 0 0)
    ∧ (s.me.c.live = false → s.me.waits [f.sa, f.sb] = false → ¬ NoLoopEnd s.me.c s.cur.idx → Raises i s 0x07 0)
    ∧ (s.me.c.live = false → s.me.waits [f.sa, f.sb] = false → NoLoopEnd s.me.c s.cur.idx →
        c (s.reg f.sa) (s.reg f.sb) = true → (s.cur.idx + f.disp.toInt < 0 ∨ (cLen s : Int) ≤ s.cur.idx + f.disp.toInt) →
        Raises i s 0x05 (BitVec.ofInt 64 (s.cur.idx + f.disp.toInt)))

/-- R115: JAL and JALR write the link p + 1, clean and with latency 1, and jump; JALR's target is read before the link is
written. With s0 the jump leaves no link. -/
def Sys2Proof.Spec.JumpsLink : Prop :=
  ∀ (s : State) (f : FCB), AtIssue s .c → s.me.c.live = false → NoLoopEnd s.me.c s.cur.idx →
    (0 ≤ s.cur.idx + f.disp.toInt → s.cur.idx + f.disp.toInt < cLen s →
      ∃ t, exec (.jal f) s = .next t ∧ Jumped s t (s.cur.idx + f.disp.toInt).toNat ∧ JumpFrame s t
        ∧ t.me.c.pend = s.me.c.pend ++ written s f.sa (BitVec.ofNat 64 (s.cur.idx + 1)) false 1)
    ∧ (s.me.waits [f.sb] = false → 0 ≤ (s.reg f.sb).toNat + f.disp.toInt → (s.reg f.sb).toNat + f.disp.toInt < cLen s →
      ∃ t, exec (.jalr f) s = .next t ∧ Jumped s t ((s.reg f.sb).toNat + f.disp.toInt).toNat ∧ JumpFrame s t
        ∧ t.me.c.pend = s.me.c.pend ++ written s f.sa (BitVec.ofNat 64 (s.cur.idx + 1)) false 1)

/-- R104, R113, R115, R119: what stops JAL and JALR from issuing: live poison, an awaited s[sb], the end of an active body
(log entry 60: before the other causes), a target outside the section. -/
def Sys2Proof.Spec.JumpsThatTrap : Prop :=
  ∀ (s : State) (f : FCB), AtIssue s .c →
    (s.me.c.live = true → Parks (.jal f) s 0x01 0 ∧ Parks (.jalr f) s 0x01 0)
    ∧ (s.me.c.live = false →
        (s.me.waits [f.sb] = true → Stalls (.jalr f) s 0 0)
        ∧ (¬ NoLoopEnd s.me.c s.cur.idx → Raises (.jal f) s 0x07 0 ∧ (s.me.waits [f.sb] = false → Raises (.jalr f) s 0x07 0))
        ∧ (NoLoopEnd s.me.c s.cur.idx →
            let x := s.cur.idx + f.disp.toInt
            let y := (s.reg f.sb).toNat + f.disp.toInt
            (x < 0 ∨ (cLen s : Int) ≤ x → Raises (.jal f) s 0x05 (BitVec.ofInt 64 x))
            ∧ (s.me.waits [f.sb] = false → y < 0 ∨ (cLen s : Int) ≤ y → Raises (.jalr f) s 0x05 (BitVec.ofInt 64 y))))

/-- R104, R113, R114, R115, R119: `ConditionalBranches`, `BranchesThatTrap`, `JumpsLink` and `JumpsThatTrap` hold. That JALR
takes s[sb] as an unsigned number, and that LOOP_STATE comes before a word's other causes, are the model's readings (log
entries 61 and 60). -/
def Obligations.BranchesAndJumps : Prop :=
  Sys2Proof.Spec.ConditionalBranches ∧ Sys2Proof.Spec.BranchesThatTrap ∧ Sys2Proof.Spec.JumpsLink ∧ Sys2Proof.Spec.JumpsThatTrap

/-- R124, R123: KPOP moves n bits of a valid read copy from the cursor upward into sd, clean and with latency 1, and moves
the cursor on; it needs no check for poison. Without n valid bits it raises KCOND. -/
def Sys2Proof.Spec.KpopConsumesBits : Prop :=
  ∀ (s : State) (f : FCR), AtIssue s .c →
    let j := f.sa.toNat % 4
    let n := f.q.toNat + 1
    let cur := (vget 0 s.me.c.kcur j).toNat
    (s.me.c.kvalid.getLsbD j = true → cur + n ≤ 1024 →
      CWord (.kpop f) s { s.me with c := { s.me.c with
        pend := s.me.c.pend ++ written s f.sd (BitVec.setWidth 64 ((vget 0 s.me.c.kr j).extractLsb' cur n)) false 1
        kcur := vput s.me.c.kcur j (BitVec.ofNat 11 (cur + n)) } })
    ∧ (s.me.c.kvalid.getLsbD j = false ∨ 1024 < cur + n → Raises (.kpop f) s 0x28 0)

/-- R125, R113, R119: KBR consumes one bit and branches when the bit differs from its polarity. It raises KCOND without a
valid bit, and SECTION_RANGE, with the cursor unmoved, when it is taken out of range. -/
def Sys2Proof.Spec.KbrConsumesOneBit : Prop :=
  ∀ (s : State) (f : FCB), AtIssue s .c → s.me.c.live = false → NoLoopEnd s.me.c s.cur.idx →
    let j := f.sa.toNat % 4
    let cur := (vget 0 s.me.c.kcur j).toNat
    let k := (vget 0 s.me.c.kr j).getLsbD cur
    let moved := vput s.me.c.kcur j (BitVec.ofNat 11 (cur + 1))
    let target := s.cur.idx + f.disp.toInt
    (s.me.c.kvalid.getLsbD j = false ∨ cur = 1024 → Raises (.kbr f) s 0x28 0)
    ∧ (s.me.c.kvalid.getLsbD j = true → cur ≠ 1024 →
        (k = f.q.getLsbD 0 → CWord (.kbr f) s { s.me with c := { s.me.c with kcur := moved } })
        ∧ (k ≠ f.q.getLsbD 0 → 0 ≤ target → target < cLen s →
            ∃ t, exec (.kbr f) s = .next t ∧ Jumped s t target.toNat ∧ OnlyTile s.cur.at_ s t ∧ OnlyCtxHold s.here t.here
              ∧ OnlyC s.me t.me
              ∧ t.me.c = { s.me.c with kcur := moved, lpcnt := t.me.c.lpcnt, lpact := t.me.c.lpact })
        ∧ (k ≠ f.q.getLsbD 0 → (target < 0 ∨ (cLen s : Int) ≤ target) →
            Raises (.kbr f) s 0x05 (BitVec.ofInt 64 target)))

/-- R117: a LOOP that its checks admit activates its level over words b to e with the count of s[sa] and goes on at the next
word; with a count of 0 it skips the body, at the cost of the redirect stall, and goes on as after word e (R118). LOOP.st
takes b and e from the staged copy and clears its V. -/
def Sys2Proof.Spec.LoopActivatesLevel : Prop :=
  ∀ (s : State) (f : FCL) (n b e : Nat) (cnt : BitVec 32), AtIssue s .c → n = f.lvl.toNat → n < 3 →
    s.me.waits [f.sa] = false → s.me.c.live = false → NoLoopEnd s.me.c s.cur.idx →
    (∀ m, n ≤ m → m < 3 → s.me.c.lpact.getLsbD m = false) →
    (if f.q.getLsbD 0 = true then
        vget ⟨false, 0, 0⟩ s.me.c.lpstg n = ⟨true, BitVec.ofNat 24 e, BitVec.ofNat 24 b⟩ ∧ b < 2 ^ 24
      else (b : Int) = s.cur.idx + f.beg.toInt ∧ e + 1 = b + f.len.toNat) →
    s.cur.idx < b → b ≤ e → e < cLen s → e < 2 ^ 24 →
    (∀ m, m < n → s.me.c.lpact.getLsbD m = true → e ≤ (vget 0 s.me.c.lpend m).toNat) →
    s.reg f.sa = cnt.setWidth 64 →
    let c := { s.me.c with
      lpstg := if f.q.getLsbD 0 then vput s.me.c.lpstg n ⟨false, BitVec.ofNat 24 e, BitVec.ofNat 24 b⟩ else s.me.c.lpstg
      lpbeg := vput s.me.c.lpbeg n (BitVec.ofNat 24 b), lpend := vput s.me.c.lpend n (BitVec.ofNat 24 e)
      lpcnt := vput s.me.c.lpcnt n cnt }
    ∃ t, exec (.loop f) s = .next t ∧ OnlyTile s.cur.at_ s t ∧ Issued s t ∧ OnlyC s.me t.me
      ∧ t.me.due = .after (s.here.clock .c)
      ∧ (cnt ≠ 0 → OnlyCtx s.here t.here ∧ t.me.c = { c with lpact := c.lpact ||| (1 <<< n : BitVec 3) } ∧
          t.me.mpc = s.cur.idx + 1)
      ∧ (cnt = 0 → OnlyCtxHold s.here t.here ∧ t.here.holdC = s.here.beat + 3 ∧ BackEdge c e t.me.c t.me.mpc
          ∧ t.me.c = { c with lpcnt := t.me.c.lpcnt, lpact := t.me.c.lpact })

/-- R104, R117, R119: what stops a LOOP, in the order of its checks: s[sa] awaited; LOOP_STATE at the end of an active body, for
an active level from its own upward, for a staged copy not written, for a body that does not lie beyond the word;
SECTION_RANGE with the body's last word; LOOP_STATE for a body that passes an active level below; RSV_VALUE for a count of more
than 32 bits; and the park under poison. -/
def Sys2Proof.Spec.LoopsThatStop : Prop :=
  ∀ (s : State) (f : FCL), AtIssue s .c → f.lvl.toNat < 3 →
    let c := s.me.c
    let n := f.lvl.toNat
    let g := vget ⟨false, 0, 0⟩ c.lpstg n
    let st := f.q.getLsbD 0
    let bad := ¬ NoLoopEnd c s.cur.idx ∨ (∃ m, n ≤ m ∧ m < 3 ∧ c.lpact.getLsbD m = true) ∨ st = true ∧ g.v = false
    let b : Int := if st then g.beg.toNat else s.cur.idx + f.beg.toInt
    let e : Int := if st then g.fin.toNat else b + f.len.toNat - 1
    let beyond := ∃ m, m < n ∧ c.lpact.getLsbD m = true ∧ ((vget 0 c.lpend m).toNat : Int) < e
    (s.me.waits [f.sa] = true → Stalls (.loop f) s 0 0)
    ∧ (s.me.waits [f.sa] = false →
        (bad ∨ b ≤ s.cur.idx ∨ e < b → Raises (.loop f) s 0x07 0)
        ∧ (¬ bad → s.cur.idx < b → b ≤ e →
            ((cLen s : Int) ≤ e → Raises (.loop f) s 0x05 (BitVec.ofInt 64 e))
            ∧ (e < cLen s → beyond → Raises (.loop f) s 0x07 0)
            ∧ (e < cLen s → ¬ beyond → 2 ^ 32 ≤ (s.reg f.sa).toNat → Raises (.loop f) s 0x03 0)
            ∧ (e < cLen s → ¬ beyond → (s.reg f.sa).toNat < 2 ^ 32 → c.live = true → Parks (.loop f) s 0x01 0)))

/-- R119, R122, R137: LPROT at the end of its own level, once the writes of kw that it waits for have landed, hands the
condition vectors over, rotates the registers, and then takes its level's back-edge. Anywhere else it raises LOOP_STATE. -/
def Sys2Proof.Spec.LprotHandsOff : Prop :=
  ∀ (s : State) (f : FCL), AtIssue s .c → f.lvl.toNat < 3 →
    let ends := fun m => s.me.c.lpact.getLsbD m = true ∧ (vget 0 s.me.c.lpend m).toNat = s.cur.idx
    (ends f.lvl.toNat → (∀ m, m < 3 → m ≠ f.lvl.toNat → ¬ ends m) →
      (∀ w, w ∈ s.me.vec.fly → w.kw = false ∨ w.due ≤ s.here.beat) →
      CWord (.lprot f) s { s.me with
        c := { s.me.c with kr := s.me.vec.kw, kcur := Vector.replicate 4 0, kvalid := 15
                           rrb := BitVec.ofNat 4 (s.me.c.rrb.toNat + 15) }
        vec := { s.me.vec with kw := Vector.replicate 4 0, kwcur := Vector.replicate 4 0 } })
    ∧ (¬ ends f.lvl.toNat ∨ (∃ m, m < 3 ∧ m ≠ f.lvl.toNat ∧ ends m) → Raises (.lprot f) s 0x07 0)

/-- R104, R113, R117, R119, R122, R123, R124, R125, R137: `KpopConsumesBits`, `KbrConsumesOneBit`, `LoopActivatesLevel`,
`LoopsThatStop` and `LprotHandsOff` hold. The place of LOOP_STATE among a word's causes is the model's (log entry 60). -/
def Obligations.KeepBitAndLoopWords : Prop :=
  Sys2Proof.Spec.KpopConsumesBits ∧ Sys2Proof.Spec.KbrConsumesOneBit ∧ Sys2Proof.Spec.LoopActivatesLevel
    ∧ Sys2Proof.Spec.LoopsThatStop ∧ Sys2Proof.Spec.LprotHandsOff

/-- R120: a write to LPCNTn takes effect at once as the remaining count: the word's own back-edge sees it, and a write to the
count of an inactive level only stores it. -/
def Obligations.LoopCountWrites : Prop :=
  ∀ (s : State) (f : FCS) (n : Nat), AtIssue s .c → n < 3 → f.spr.toNat = 0x010 + n →
    s.me.waits [f.sa] = false → s.me.c.live = false →
    CWord (.mtsLpcnt f) s { s.me with c := { s.me.c with lpcnt := vput s.me.c.lpcnt n ((s.reg f.sa).setWidth 32) } }

/-- R40, R273, R274, R104: in every stream a NOP, and a WAITC whose allowances are met, only pass, under poison too; a WAITC
otherwise stalls, as a wait on its allowances. -/
def Sys2Proof.Spec.NopAndWaitcOnlyPass : Prop :=
  ∀ (s : State) (f : FW) (e : Strm), AtIssue s e →
    (e = .c → CWord .nop s s.me ∧ (waitMet s f → CWord (.waitc f) s s.me))
    ∧ (e ≠ .c → EWord .nop s e s.me ∧ (waitMet s f → EWord (.waitc f) s e s.me))
    ∧ (¬ waitMet s f → Stalls (.waitc f) s 0x04 (BitVec.setWidth 64 (f.nl ++ f.ns ++ f.nc ++ f.nt)))

/-- R41: TEND ends the stream in its region or stops it; when it ends the last member, the region closes at this beat and C's
next word counts its IDLE from here. -/
def Sys2Proof.Spec.TendEndsStream : Prop :=
  ∀ (s : State) (e : Strm), AtIssue s e →
    (e = .c → s.me.c.live = false →
      (s.me.lockstep = false → Raises .tend s 0x04 0)
      ∧ (s.me.lockstep = true → ∃ t, exec .tend s = .next t ∧ OnlyTile s.cur.at_ s t ∧ OnlyCtx s.here t.here ∧ Issued s t
          ∧ (othersEnded s.me .c → regionClosed t.me s.here.beat)
          ∧ (¬ othersEnded s.me .c → t.me.cEnded = true ∧ t.me.lockstep = true ∧ RegionFrame s.me t.me
              ∧ t.me.v = s.me.v ∧ t.me.x = s.me.x ∧ t.me.s = s.me.s)))
    ∧ (e ≠ .c →
      ((s.me.strm e).levels ≠ [] → Raises .tend s 0x04 0)
      ∧ ((s.me.strm e).levels = [] →
          ∃ t, exec .tend s = .next t ∧ OnlyTile s.cur.at_ s t ∧ OnlyCtx s.here t.here ∧ Issued s t
            ∧ (t.me.strm e).running = false
            ∧ (s.me.lockstep = false ∨ s.me.member e = false ∧ s.me.cEnded = false →
                (t.me.strm e).ended = false ∧ t.me.lockstep = s.me.lockstep ∧ t.me.due = s.me.due ∧ RegionFrame s.me t.me)
            ∧ (s.me.lockstep = true → s.me.member e = true →
                (t.me.strm e).ended = true
                ∧ (othersEnded s.me e → regionClosed t.me s.here.beat)
                ∧ (¬ othersEnded s.me e → t.me.lockstep = true ∧ t.me.due = s.me.due ∧ RegionFrame s.me t.me))))

/-- R43: SREP opens a body of len words to be run the stated number of times, or skips it when the count is 0. -/
def Sys2Proof.Spec.SrepOpensBody : Prop :=
  ∀ (s : State) (f : FP) (e : Strm) (n : Nat), AtIssue s e → e ≠ .c → (s.me.strm e).levels.length < 2 →
    f.len ≠ 0 → s.cur.idx + f.len.toNat < secLen s e →
    (∀ l, l ∈ (s.me.strm e).levels → s.cur.idx + f.len.toNat ≤ l.fin) →
    (f.src = 0 → n = f.cnt.toNat) →
    (f.src = 1 → s.me.waits [f.sa] = false ∧ s.me.c.psn f.sa = false ∧ n = (s.reg f.sa).toNat ∧ n < 2 ^ 32) →
    ∃ t, exec (.srep f) s = .next t ∧ OnlyTile s.cur.at_ s t ∧ OnlyCtx s.here t.here ∧ Issued s t
      ∧ (n ≠ 0 → t.me = (suse e s.me).updStrm e fun y =>
          { y with levels := ⟨s.cur.idx + 1, s.cur.idx + f.len.toNat, n, 0⟩ :: y.levels, mpc := s.cur.idx + 1
                   due := .after (s.here.clock e) })
      ∧ (n = 0 → t.me = (suse e s.me).updStrm e (streamPast (s.cur.idx + f.len.toNat) (s.here.clock e)))

/-- R43: what stops an SREP: a third level, an empty body, a body that passes the section or the level around it, a count of
more than 32 bits; under poison it stalls. -/
def Sys2Proof.Spec.SrepStops : Prop :=
  ∀ (s : State) (f : FP) (e : Strm), AtIssue s e → e ≠ .c →
    let far := secLen s e ≤ s.cur.idx + f.len.toNat ∨ ∃ l, l ∈ (s.me.strm e).levels ∧ l.fin < s.cur.idx + f.len.toNat
    (2 ≤ (s.me.strm e).levels.length → Raises (.srep f) s 0x06 0)
    ∧ ((s.me.strm e).levels.length < 2 → f.len = 0 → Raises (.srep f) s 0x03 0)
    ∧ ((s.me.strm e).levels.length < 2 → f.len ≠ 0 → far →
        Raises (.srep f) s 0x05 (BitVec.ofNat 64 (s.cur.idx + f.len.toNat)))
    ∧ ((s.me.strm e).levels.length < 2 → f.len ≠ 0 → ¬ far → f.src = 1 → s.me.waits [f.sa] = false →
        (s.me.c.psn f.sa = true → Stalls (.srep f) s 0 0)
        ∧ (s.me.c.psn f.sa = false → 2 ^ 32 ≤ (s.reg f.sa).toNat → Raises (.srep f) s 0x03 0))

/-- R42, R35, R37: a TGO that its checks admit starts the joined streams at their entries, and with l = 1 opens the lockstep
region of C and those streams at counted beat 0. Its other outcomes are the traps of R42 in their order. -/
def Sys2Proof.Spec.TgoStartsStreams : Prop :=
  ∀ (s : State) (f : FT), AtIssue s .c → s.me.c.live = false →
    let busy := ∃ e, (tgoJoins f e).isSome ∧ (s.me.strm e).running = true
    (s.me.lockstep = true ∨ busy → Raises (.tgo f) s 0x04 0)
    ∧ (s.me.lockstep = false → ¬ busy → ∀ e n, tgoJoins f e = some n → secLen s e ≤ n →
        (∀ e' n', e'.num < e.num → tgoJoins f e' = some n' → n' < secLen s e') →
        Raises (.tgo f) s 0x05 (BitVec.ofNat 64 n))
    ∧ (s.me.lockstep = false → ¬ busy → (∀ e n, tgoJoins f e = some n → n < secLen s e) →
        ∃ t, exec (.tgo f) s = .next t ∧ OnlyTile s.cur.at_ s t ∧ Issued s t ∧ RegionFrame s.me t.me
          ∧ BackEdge s.me.c s.cur.idx t.me.c t.me.mpc
          ∧ (∀ e n, tgoJoins f e = some n →
              t.me.strm e = ⟨true, false, n, .after (if f.l = 1 then 0 else s.here.beat), []⟩)
          ∧ (∀ e, tgoJoins f e = none → t.me.strm e = s.me.strm e)
          ∧ (f.l = 1 → t.me.lockstep = true ∧ t.me.cEnded = false ∧ t.here.cnt = 0
              ∧ (s.me.trap.act = false → t.me.due = .after 0)
              ∧ t.here = { s.here with issued := t.here.issued, since := t.here.since, retried := t.here.retried, ctx := t.me
                                       cnt := 0, stores := s.here.stores.map fun p => { p with counted := none } }
              ∧ (t.me.memV = true ↔ f.jv = 1) ∧ (t.me.memX = true ↔ f.jx = 1) ∧ (t.me.memS = true ↔ f.js = 1))
          ∧ (f.l ≠ 1 → OnlyCtx s.here t.here ∧ t.me.lockstep = false ∧ t.me.due = .after s.here.beat))

/-- R35, R37, R40, R41, R42, R43, R104, R273, R274: `NopAndWaitcOnlyPass`, `TendEndsStream`, `SrepOpensBody`, `SrepStops` and
`TgoStartsStreams` hold. -/
def Obligations.StreamControlWords : Prop :=
  Sys2Proof.Spec.NopAndWaitcOnlyPass ∧ Sys2Proof.Spec.TendEndsStream ∧ Sys2Proof.Spec.SrepOpensBody
    ∧ Sys2Proof.Spec.SrepStops ∧ Sys2Proof.Spec.TgoStartsStreams

/-- R108, R109: MFS reads each special register zero-extended into sd, clean and with latency 1. -/
def Sys2Proof.Spec.MfsReadsRegister : Prop :=
  ∀ (s : State) (f : FCS) (n : Nat) (v : Word), AtIssue s .c → (n, v) ∈ sprTable s → f.spr.toNat = n →
    CWord (.mfs f) s { s.me with c := { s.me.c with pend := s.me.c.pend ++ written s f.sd v false 1 } }

/-- R279, R341: MFS of SFLAGS reads the flags placed so far, inside a region with those of the V words at least 16 counted beats
old; MFS of CLKPW reads the team's charge in tenths of a watt, rounded to a neighbour where it is no whole number (log entry 9: the
model's reading). -/
def Sys2Proof.Spec.MfsOfFlagsAndPower : Prop :=
  ∀ (s : State) (f : FCS), AtIssue s .c →
    (f.spr = 0x064 → s.me.lockstep = false →
      CWord (.mfs f) s { s.me with c := { s.me.c with
        pend := s.me.c.pend ++ written s f.sd (s.me.sflags.setWidth 64) false 1 } })
    ∧ (f.spr = 0x064 → s.me.lockstep = true → ∃ t, exec (.mfs f) s = .next t ∧ OnlyTile s.cur.at_ s t ∧ OnlyCtx s.here t.here
        ∧ t.me.c.pend = s.me.c.pend ++ written s f.sd ((s.me.sflags ||| oldFlags s).setWidth 64) false 1)
    ∧ (f.spr = 0x07A → ∃ t v, exec (.mfs f) s = .next t ∧ t.mem = s.mem
        ∧ t.me.c.pend = s.me.c.pend ++ written s f.sd (BitVec.setWidth 64 (BitVec.ofNat 16 v)) false 1
        ∧ v * 4000 < powerCharge s + 4000 ∧ powerCharge s < v * 4000 + 4000)

/-- R109, R110, R120, R121, R348, R349, R81: MTS writes the low bits of s[sa] into the special register, or into the staged
copy of a loop bound; nothing else changes. -/
def Sys2Proof.Spec.MtsWritesRegister : Prop :=
  ∀ (s : State) (f : FCS) (i : Instr) (g : Word → Ctx → Ctx), AtIssue s .c → mtsEffect i = some (f, g) →
    s.me.waits [f.sa] = false → s.me.c.live = false → CWord i s (g (s.reg f.sa) s.me)

/-- R279: MTS to SFLAGS clears the bits written as 1, but for the flags set at its own beat; inside a region those of the V words
at least 16 counted beats old are placed first. -/
def Sys2Proof.Spec.MtsClearsFlags : Prop :=
  ∀ (s : State) (f : FCS), AtIssue s .c → f.spr = 0x064 → s.me.waits [f.sa] = false → s.me.c.live = false →
    let gone := (s.reg f.sa).setWidth 5 &&& ~~~s.me.flagNew
    (s.me.lockstep = false → CWord (.mtsSflags f) s { s.me with sflags := s.me.sflags &&& ~~~gone })
    ∧ (s.me.lockstep = true → ∃ t, exec (.mtsSflags f) s = .next t ∧ OnlyTile s.cur.at_ s t ∧ OnlyCtx s.here t.here ∧ Issued s t
        ∧ Onward s t s.me.c ∧ t.me.sflags = (s.me.sflags ||| oldFlags s) &&& ~~~gone)

/-- R104, R108, R109: MTS to a register that is read only raises SPR_ACCESS; to any other it parks under live poison, and stalls
while s[sa] is awaited. -/
def Sys2Proof.Spec.MtsStops : Prop :=
  ∀ (s : State) (f : FCS), AtIssue s .c →
    let stops := fun (i : Instr) => (s.me.c.live = true → Parks i s 0x01 0)
      ∧ (s.me.c.live = false → s.me.waits [f.sa] = true → Stalls i s 0 0)
    (f.spr ∈ [(0x000 : BitVec 12), 0x001, 0x01C, 0x01D, 0x01E, 0x01F, 0x021, 0x030, 0x038, 0x039, 0x03A, 0x03B, 0x040, 0x041,
        0x048, 0x049, 0x04A, 0x04B, 0x04D, 0x060, 0x061, 0x062, 0x063, 0x071, 0x072, 0x073, 0x078, 0x079, 0x07A] →
      Raises (.mts f) s 0x29 0)
    ∧ (f.spr ∈ [(0x002 : BitVec 12), 0x031, 0x04C, 0x04E, 0x04F, 0x050, 0x051, 0x052] → stops (.mts f))
    ∧ (f.spr = 0x020 → stops (.mtsClkrq f)) ∧ (f.spr = 0x070 → stops (.mtsEvpend f)) ∧ (f.spr = 0x064 → stops (.mtsSflags f))
    ∧ (f.spr ∈ [(0x010 : BitVec 12), 0x011, 0x012] → stops (.mtsLpcnt f))
    ∧ (f.spr ∈ [(0x014 : BitVec 12), 0x015, 0x016, 0x018, 0x019, 0x01A] → stops (.mtsLpbegLpend f))

/-- R290, R291, R323: MTS to EVPEND clears the bits written as 1 in the box, but for events of the same beat; MTS to CLKRQ changes
the rank's register and, on rank 0, has the arbiter's changed grants (`BudgetsPeriodsAndGrants`) wait to take effect. -/
def Sys2Proof.Spec.MtsReachesBoxAndArbiter : Prop :=
  ∀ (s : State) (f : FCS), AtIssue s .c → s.me.waits [f.sa] = false → s.me.c.live = false →
    (f.spr = 0x070 → Rising s.boxes → ∃ t, exec (.mtsEvpend f) s = .next t
      ∧ (t.box s.myBox) = { s.box s.myBox with evpend := (s.box s.myBox).evpend &&& ~~~((s.reg f.sa).setWidth 32 &&& ~~~s.here.newEvents) }
      ∧ (∀ b, b ≠ s.myBox → t.box b = s.box b)
      ∧ ∃ s', t = { s' with boxes := t.boxes } ∧ PassesWith s s' s.me)
    ∧ (f.spr = 0x020 → ∃ t, exec (.mtsClkrq f) s = .next t
      ∧ t.me = { s.me with clkrq := (s.reg f.sa).setWidth 16, mpc := t.me.mpc, due := t.me.due
                           c := { s.me.c with lpcnt := t.me.c.lpcnt, lpact := t.me.c.lpact } }
      ∧ Issued s t ∧ Onward s t s.me.c ∧ t.mem = s.mem ∧ t.boxes = s.boxes
      ∧ (s.here.rank ≠ 0 → OnlyTile s.cur.at_ s t)
      ∧ (s.here.rank = 0 → boxDie s.myBox < 4 →
          let d := boxDie s.myBox
          let z := s.updMe fun c => { c with clkrq := (s.reg f.sa).setWidth 16 }
          ∀ b g, (b, g) ∈ z.arbitrate d → (s.box b).grant ≠ g → (b, g) ∈ (t.die d).grants))

/-- R81, R104, R108, R109, R110, R120, R121, R279, R290, R291, R323, R341, R348, R349: `MfsReadsRegister`, `MfsOfFlagsAndPower`,
`MtsWritesRegister`, `MtsClearsFlags`, `MtsStops` and `MtsReachesBoxAndArbiter` hold. -/
def Obligations.SpecialRegisterWords : Prop :=
  Sys2Proof.Spec.MfsReadsRegister ∧ Sys2Proof.Spec.MfsOfFlagsAndPower ∧ Sys2Proof.Spec.MtsWritesRegister
    ∧ Sys2Proof.Spec.MtsClearsFlags ∧ Sys2Proof.Spec.MtsStops ∧ Sys2Proof.Spec.MtsReachesBoxAndArbiter

/-- R203: an access whose address has a nonzero bit in [63:57] raises ADDR_RANGE with the address: of the words of C, FENCE's read
of its list among them; the translation of an access by an engine, a unit or the front end meets the same cause. A page's frame
and an offset within it make a physical address of 52 bits. An access that begins below 2^57 and passes it meets the cause at 2^57
(log entry 56: the model's choice). -/
def Obligations.AddressRange : Prop :=
  (∀ (s : State) (f : FCM), s.me.waits [f.sa] = false → bits (cmVa s f) 57 7 ≠ 0 → Raises (.ld f) s 0x40 (cmVa s f))
  ∧ (∀ (s : State) (f : FCS), s.me.c.live = false → f.sa ≠ 0 → s.me.waits [f.sa] = false → bits (s.reg f.sa) 57 7 ≠ 0 →
      Raises (.fence f) s 0x40 (s.reg f.sa))
  ∧ (∀ (s : State) (asid va n : Nat) (w : Bool),
      (2 ^ 57 ≤ va → s.reach asid va n w = (.cause 0x40 va, s) ∧ s.access asid va n w = (.cause 0x40 va, s))
      ∧ (va < 2 ^ 57 → 2 ^ 57 < va + n →
          s.reach asid va n w = (.cause 0x40 (2 ^ 57), s) ∧ s.access asid va n w = (.cause 0x40 (2 ^ 57), s)))
  ∧ (∀ (s : State) (i : Instr) (va : Word) (n : Nat) (w : Bool) (rs : List Reg), memoryWord s i = some (va, n, w, rs) →
      s.me.c.live = false → s.me.waits rs = false → bits va 57 7 ≠ 0 → Raises i s 0x40 va)
  ∧ (∀ (s : State) (f : FCR), s.me.c.live = false → s.me.waits [f.sa, f.sb, f.sc] = false →
      bits (s.reg f.sa) 57 7 ≠ 0 →
      Raises (.binit f) s 0x40 (s.reg f.sa) ∧ Raises (.barrive f) s 0x40 (s.reg f.sa)
        ∧ Raises (.bwait f) s 0x40 (s.reg f.sa) ∧ Raises (.btest f) s 0x40 (s.reg f.sa))
  ∧ (∀ (s : State) (f : FCR), s.me.c.live = false → s.me.waits [f.sa] = false → bits (s.reg f.sa) 57 7 ≠ 0 →
      Raises (.slsub f) s 0x40 (s.reg f.sa) ∧ Raises (.slget f) s 0x40 (s.reg f.sa)
        ∧ ((s.chain s.myBox (bits f.q 0 3).toNat).v = true → Raises (.ceapp f) s 0x40 (s.reg f.sa)))
  ∧ ∀ (l : Word) (va : Nat), lfPfn l * 65536 + va % 65536 < 2 ^ 52

/-- Of an atomic: its access is aligned, and an AMOCAS does not name s0, s15 or s31 (R230). -/
def Sys2Proof.Spec.AtomicFits (i : Instr) (va : Word) (n : Nat) : Prop :=
  va.toNat % n = 0 ∧ ∀ f, i = .amocas f → f.sd ≠ 0 ∧ f.sd ≠ 15 ∧ f.sd ≠ 31

/-- R205, R206, R212, R222, R226, R230: a store or an atomic raises the cause that translation meets, and parks as PAGE_ABSENT with
a record for each absent page; under poison it parks, and while a page is under move it stalls; an atomic that is not aligned, and
an AMOCAS into s0, s15 or s31, traps before either. -/
def Sys2Proof.Spec.StoresAndAtomicsStop : Prop :=
  ∀ (s : State) (i : Instr) (va : Word) (n : Nat) (w : Bool) (rs : List Reg), memoryWord s i = some (va, n, w, rs) →
    (s.me.c.live = true → Parks i s 0x01 0)
    ∧ (s.me.c.live = false → s.me.waits rs = true → Stalls i s 0 0)
    ∧ (s.me.c.live = false → s.me.waits rs = false → bits va 57 7 = 0 →
        (∀ c a s', s.access s.myAsid va.toNat n w = (.cause c a, s') → Raises i s c (BitVec.ofNat 64 a))
        ∧ (∀ ps s', (∃ f, i = .st f) ∨ Sys2Proof.Spec.AtomicFits i va n → s.access s.myAsid va.toNat n w = (.absent ps, s') →
            exec i s = .next ((s'.faultPages s.myBox 2 s.cur.at_ ps).parkTile s.cur.at_ 0x02 0))
        ∧ (∀ locs ls s', (∃ f, i = .st f) ∨ Sys2Proof.Spec.AtomicFits i va n → Served s va n w locs ls s' → ls.any lfMv = true →
            exec i s = .next (s'.stallWord s.cur.at_ s.cur.strm 0x08 (BitVec.setWidth 64 (va.extractLsb' 0 57))))
        ∧ (∀ a s', (∀ f, i ≠ .st f) → s.access s.myAsid va.toNat n w = (a, s') → (∀ c v, a ≠ .cause c v) →
            (va.toNat % n ≠ 0 → Raises i s 0x45 va)
            ∧ (va.toNat % n = 0 → ¬ Sys2Proof.Spec.AtomicFits i va n → Raises i s 0x03 0)))

/-- The page at `page` of an address space ends its walk at leaf `l`: each level's entry is valid and well formed (R205). -/
def Sys2Proof.Spec.Leads (s : State) (asid page : Nat) (l : Word) : Prop :=
  let r := sget ⟨false, 0⟩ s.asids asid
  let e1 := s.paWord (r.root.toNat + 8 * (page / 2 ^ 26 % 2 ^ 15))
  let e2 := s.paWord (lfPfn e1 * 65536 + 8 * (page / 2 ^ 13 % 2 ^ 13))
  r.v = true ∧ e1.getLsbD 63 = true ∧ bits e1 36 27 = 0 ∧ e2.getLsbD 63 = true ∧ bits e2 36 27 = 0
    ∧ l = s.paWord (lfPfn e2 * 65536 + 8 * (page % 2 ^ 13)) ∧ l.getLsbD 63 = true
    ∧ (lfTier l = 3 ∨ (s.loc (lfPfn l * 65536)).isSome)

/-- A leaf that R206 admits: its reserved bits zero, SLICE zero but under HOME 10, its frame in the tier that TIER names (a tile's
window 00, package HBM 01, the loft 10, or none of them 11), and HOME 01 with TIER 00 alone. -/
def Sys2Proof.Spec.Sound (l : Word) : Prop :=
  bits l 36 12 = 0 ∧ (lfHome l = 2 ∨ lfSlice l = 0) ∧ (lfHome l = 1 → lfTier l = 0)
    ∧ (lfTier l = 3 ∨ match placeOf (lfPfn l * 65536) with
        | .window _ _ => lfTier l = 0
        | .hbm _ => lfTier l = 1
        | .loft => lfTier l = 2
        | _ => False)

/-- R205, R206, R212, R222: where no cached translation of its pages stands, an access of words below 2^57 raises NO_MAPPING with
the first address that it makes in a page whose walk fails, ATTR_INVALID where that page's leaf is not sound, ATTR_STRADDLE with
its own address where two pages differ in an attribute, WRITE_PROT where a page without W is written; else the pages that are not
resident hold it off, or its bytes lie in the frames that the leaves name. -/
def Sys2Proof.Spec.TranslationMeets : Prop :=
  ∀ (s : State) (asid va n : Nat) (w : Bool), 0 < n → n ≤ 65536 → va + n ≤ 2 ^ 57 →
    let p := va / 65536
    let q := (va + n - 1) / 65536
    let first := fun page => max va (page * 65536)
    (∀ e, e ∈ s.tcache → e.1 ≠ asid ∨ e.2.1 ≠ p ∧ e.2.1 ≠ q) →
    let a := (s.access asid va n w).1
    (∀ page, page = p ∨ page = q → (page = q → q ≠ p → ∃ l, Sys2Proof.Spec.Leads s asid p l ∧ Sys2Proof.Spec.Sound l) →
      (∀ l, ¬ Sys2Proof.Spec.Leads s asid page l) → a = .cause 0x41 (first page))
    ∧ (∀ page l, page = p ∨ page = q → (page = q → q ≠ p → ∃ k, Sys2Proof.Spec.Leads s asid p k ∧ Sys2Proof.Spec.Sound k) →
      Sys2Proof.Spec.Leads s asid page l → ¬ Sys2Proof.Spec.Sound l → a = .cause 0x43 (first page))
    ∧ (∀ k l, Sys2Proof.Spec.Leads s asid p k → Sys2Proof.Spec.Leads s asid q l → Sys2Proof.Spec.Sound k → Sys2Proof.Spec.Sound l →
      let differ := lfHome k ≠ lfHome l ∨ lfTier k ≠ lfTier l ∨ lfLayout k ≠ lfLayout l ∨ lfKv k ≠ lfKv l ∨ lfW k ≠ lfW l
        ∨ lfX k ≠ lfX l ∨ lfSlice k ≠ lfSlice l
      (differ → a = .cause 0x44 va)
      ∧ (¬ differ → w = true → lfW k = false → a = .cause 0x42 va)
      ∧ (¬ differ → (w = true → lfW k = true) →
          let here := lfTier k = 0 ∨ lfTier k = 1 ∨ lfTier k = 2 ∧ lfKv k = false
          (¬ here → a = .absent (if p = q then [p * 65536] else [p * 65536, q * 65536]))
          ∧ (here → ∃ locs ls, a = .ok locs ls ∧ locs.length = n
              ∧ ∀ j, j < n →
                  let leaf := if (va + j) / 65536 = p then k else l
                  ∀ x, s.loc (lfPfn leaf * 65536 + (va + j) % 65536) = some x → locs[j]? = some x)))

/-- R203, R205, R206, R212, R222, R226, R230: `StoresAndAtomicsStop` and `TranslationMeets` hold. -/
def Obligations.AccessesThatStop : Prop := Sys2Proof.Spec.StoresAndAtomicsStop ∧ Sys2Proof.Spec.TranslationMeets

/-- R228, R234, R247, R270, R271: a load whose pages are resident sends its value, the bytes as its own stream sees them, zero- or
sign-extended, on its way to sd, and counts as a load until it lands; it writes no register yet, and of memory only what
an access sets in its leaf. A .fc load clears the full bits of its granules, but for one that a write of the same beat sets. -/
def Sys2Proof.Spec.LoadsDeliverMemory : Prop :=
  ∀ (s s' : State) (f : FCM) (va : Word) (locs : List Nat) (ls : List Word), AtIssue s .c → s.me.waits [f.sa] = false →
    va = cmVa s f → Served s va (2 ^ f.w.toNat) false locs ls s' → Clean s' locs →
    let z := if 2 ≤ f.q.toNat then s'.performOwn locs else s'
    let u := z.touch s.myAsid false (pagesOf va.toNat (2 ^ f.w.toNat))
    Room z 1 0 0 → (2 ≤ f.q.toNat → ∀ l, l ∈ locs → z.emptyAt l = false) →
    ∃ t, exec (.ld f) s = .next t
      ∧ t.me.loads = s.me.loads
          ++ [⟨.load, [(regNo s f.sd, loaded (2 ^ f.w.toNat) (f.q == 1) (locs.map (z.ownByte s.cur.at_ ·)))], true,
               z.reply va.toNat locs true, false, false, locs⟩]
      ∧ t.me.oc = { z.me.oc with ocl := z.me.oc.ocl + 1 }
      ∧ AccessFrame z t
      ∧ (∀ a, t.mem.read a = u.mem.read a)
      ∧ (f.q = 3 → ∀ l t' off, l ∈ locs → placeOf l = .window t' off → t' < 160 →
          (∀ b, (u.tile t').start = some b → off / 16 ∉ b.sets) → t.isFull t' (off / 16) = false)

/-- A write of tile `u` to one of the dies `homes` that the clock `v` names (R236): by the entry of the tile's die, modulo
2^32. -/
def Sys2Proof.Spec.Names (v : Vector (BitVec 32) 4) (homes : List Nat) (u : Nat) (q : PendStore) : Prop :=
  (∃ d, d ∈ homes ∧ d ∈ q.cross) ∧ (vget 0 v (u / 40) - vget 0 q.stamp (u / 40)).toNat < 2 ^ 31

/-- R234, R247: what comes before a consuming load (.fe, .fc) is each store of its own stream to one of its bytes, with the stores
before it, performed in issue order (log entry 17), where none of them names a write of another tile that is not performed yet;
so it returns no write later than the one that filled its granule. Without such a store nothing comes before. -/
def Sys2Proof.Spec.ConsumingLoadsFollowOwnStores : Prop :=
  ∀ (s : State) (locs : List Nat), s.cur.at_ < 160 →
    (∀ p u q, p ∈ s.here.stores → u < 160 → u ≠ s.cur.at_ → q ∈ (s.tile u).stores → ¬ Sys2Proof.Spec.Names p.stamp p.cross u q) →
    let hits := fun (p : PendStore) => s.here.box = some p.box ∧ p.rank = s.here.rank ∧ ∃ q, q ∈ p.bytes ∧ q.1 ∈ locs
    ((∀ p, p ∈ s.here.stores → ¬ hits p) → s.performOwn locs = s)
    ∧ ∀ l p r, s.here.stores = l ++ p :: r → hits p → (∀ q, q ∈ r → ¬ hits q) → (∀ q, q ∈ s.here.stores → s.srHeld q.locs = false) →
        (s.performOwn locs).here.stores = r
        ∧ ((∀ q, q ∈ s.here.stores → q.nack = none) → ∀ a, (s.performOwn locs).mem.read a
            = afterWrites s.mem ((l ++ [p]).flatMap (·.bytes)) a)

/-- R105, R106, R225, R266, R267: outside a lockstep region a load that meets an absent page writes 0 with poison at latency 1,
takes the checkpoint where none is held, and posts a record of kind 1 for each such page; inside a region it stalls. -/
def Sys2Proof.Spec.LoadsPoisonOnAbsentPages : Prop :=
  ∀ (s s' : State) (f : FCM) (ps : List Nat), s.inv → AtIssue s .c → s.me.waits [f.sa] = false →
    bits (cmVa s f) 57 7 = 0 →
    s.access s.myAsid (cmVa s f).toNat (2 ^ f.w.toNat) false = (.absent ps, s') →
    (s.me.lockstep = false → ∃ t, exec (.ld f) s = .next t
      ∧ t.me.c.pend = s.me.c.pend ++ written s f.sd 0 true 1
      ∧ OnlyPend s.me.c t.me.c ∧ t.mem = s.mem ∧ Issued s t ∧ Onward s t s.me.c
      ∧ (s.me.ckpt ≠ none → t.me.ckpt = s.me.ckpt)
      ∧ (s.me.ckpt = none → ∃ k, t.me.ckpt = some k ∧ k.regs = s.me.c ∧ k.idx = s.cur.idx)
      ∧ (s.myBox < 65536 → ∃ z, (∀ p l, ps = p :: l → RecordPosted s z s.myBox 1 s.cur.at_ 0 0 (BitVec.ofNat 64 p) 0)
          ∧ (∀ p q, ps = [p, q] → RecordPosted z t s.myBox 1 s.cur.at_ 0 0 (BitVec.ofNat 64 q) 0)
          ∧ (∀ p, ps = [p] → t.boxes = z.boxes ∧ t.dies = z.dies)))
    ∧ (s.me.lockstep = true → exec (.ld f) s = .next ((s'.faultPages s.myBox 1 s.cur.at_ ps).stallWord s.cur.at_ s.cur.strm
        0x09 (BitVec.setWidth 64 ((cmVa s f).extractLsb' 0 57))))

/-- R105, R106, R225, R228, R234, R247, R266, R267, R270, R271: `LoadsDeliverMemory`, `ConsumingLoadsFollowOwnStores` and
`LoadsPoisonOnAbsentPages` hold. The order among a tile's stores is the model's (log entry 17). -/
def Obligations.LoadWords : Prop :=
  Sys2Proof.Spec.LoadsDeliverMemory ∧ Sys2Proof.Spec.ConsumingLoadsFollowOwnStores ∧ Sys2Proof.Spec.LoadsPoisonOnAbsentPages

/-- R99, R105, R219, R228, R230: when a value lands, its registers take it clean and the load count falls; a negative
reply leaves them unwritten and raises its cause, and the operation goes on holding their readers. While the stack that it reads
is in forced self-refresh it does not land. -/
def Sys2Proof.Spec.ValuesLand : Prop :=
  ∀ (s : State) (i : Instr) (t n : Nat) (f : Fly), t < 160 → (s.ctx t).loads[n]? = some f → f.raised = false →
    (i = .loadValueLand t n ∧ f.kind ≠ .atomic ∨ i = .atomicOldValueLand t n ∧ f.kind = .atomic) →
    (s.srHeld f.locs = true → exec i s = .next { s with last := .event })
    ∧ (s.srHeld f.locs = false → f.nack = none → ∃ u, exec i s = .next u ∧ OnlyTile t s u ∧ (u.ctx t).loads = (s.ctx t).loads.eraseIdx n
      ∧ (u.ctx t).oc.ocl = (if f.counted then (s.ctx t).oc.ocl - 1 else (s.ctx t).oc.ocl)
      ∧ ∀ r, 0 < r → r < 32 →
          match f.writes.reverse.find? fun p => p.1 = r with
          | some p => vget 0 (u.ctx t).c.s r = p.2 ∧ (u.ctx t).c.poison.getLsbD r = false
          | none => vget 0 (u.ctx t).c.s r = vget 0 (s.ctx t).c.s r
              ∧ (u.ctx t).c.poison.getLsbD r = (s.ctx t).c.poison.getLsbD r)
    ∧ (∀ m b, s.srHeld f.locs = false → f.nack = some m → (s.tile t).box = some b → s.tileOf b (s.tile t).rank = some t →
        ∃ u, exec i s = .next u ∧ (u.ctx t).c = (s.ctx t).c ∧ (u.ctx t).trap.tpend.getLsbD (tpendBit (nackCause m.1)) = true
          ∧ (u.ctx t).loads[n]? = some { f with raised := true })

/-- R134, R161, R191, R239, R279: a V word lands once its latency has passed, an S word completes after its occupancy, an X
transfer completes: its flags join SFLAGS and its counts fall, and nothing else changes. -/
def Sys2Proof.Spec.EngineWordsLand : Prop :=
  ∀ (s : State), s.cur.at_ < 160 →
    (∀ f l l', s.me.vec.fly = l ++ f :: l' → (∀ x, x ∈ l → s.here.beat < x.due) → f.due ≤ s.here.beat →
      ∃ t, exec .vWordLand s = .next t
        ∧ OnlyCtxAt s.cur.at_ s t (landed { s.me with vec := { s.me.vec with fly := l ++ l' } } f))
    ∧ (∀ f l, s.me.spe.fly = f :: l → f.due ≤ s.here.beat →
      ∃ t, exec .sWordComplete s = .next t
        ∧ OnlyCtxAt s.cur.at_ s t (completed { s.me with spe := { s.me.spe with fly := l } } f))
    ∧ ∀ f l, s.me.mat.fly = f :: l →
      ∃ t, exec .xWordComplete s = .next t
        ∧ OnlyCtxAt s.cur.at_ s t (completed { s.me with mat := { s.me.mat with fly := l } } f)

/-- R99, R105, R134, R161, R191, R219, R228, R230, R239, R279: `ValuesLand` and `EngineWordsLand` hold. -/
def Obligations.WordsLand : Prop :=
  Sys2Proof.Spec.ValuesLand ∧ Sys2Proof.Spec.EngineWordsLand

/-- The stamp of a store of the tile at issue (R236): its die's vector clock, in which the die's own entry counts a write that goes
to another die (log entry 16: the model's update rule). -/
def Sys2Proof.Spec.stampFor (s : State) (cross : List Nat) : Vector (BitVec 32) 4 :=
  let v := (s.die (s.cur.at_ / 40)).vclock
  if cross ≠ [] then vput v (s.cur.at_ / 40) (vget 0 v (s.cur.at_ / 40) + 1) else v

/-- R229, R234, R236, R239, R271: a store goes into the tile's order of stores with the low bytes of s[sd], and counts as a store;
one that crosses dies, in any of its bytes, takes its die's stamp. No byte of it is in memory yet, and of memory only what a write
sets in its leaf and its dirty log changes. -/
def Sys2Proof.Spec.StoresIssue : Prop :=
  ∀ (s s' : State) (f : FCM) (locs : List Nat) (ls : List Word), AtIssue s .c → s.me.c.live = false →
    s.me.waits [f.sa, f.sd] = false → Served s (cmVa s f) (2 ^ f.w.toNat) true locs ls s' → ls.any lfMv = false → Room s 0 1 0 →
    ∃ t, exec (.st f) s = .next t
      ∧ t.here.stores = s.here.stores
          ++ [⟨s.myBox, s.here.rank, locs.zip (toBytes (2 ^ f.w.toNat) (s.reg f.sd).toNat), f.q == 1,
               crossHomes s.cur.at_ ls locs, if s.me.lockstep then some s.here.cnt else none,
               s'.reply (cmVa s f).toNat locs false, locs, Sys2Proof.Spec.stampFor s (crossHomes s.cur.at_ ls locs)⟩]
      ∧ (t.die (s.cur.at_ / 40)).vclock = Sys2Proof.Spec.stampFor s (crossHomes s.cur.at_ ls locs)
      ∧ t.me.oc = { s.me.oc with ocs := s.me.oc.ocs + 1 } ∧ t.me.loads = s.me.loads ∧ AccessFrame s t
      ∧ ∀ a, t.mem.read a = (s'.touch s.myAsid true (pagesOf (cmVa s f).toNat (2 ^ f.w.toNat))).mem.read a

/-- A tile whose streams have begun their words of the present beat: one has issued, has stalled, or has changed the SRAM
(R237). -/
def Sys2Proof.Spec.MidBeat (x : Tile) : Prop :=
  x.box ≠ none ∧ (x.issued ≠ 0 ∨ x.start ≠ none ∨ ∃ e y, e < 4 ∧ vget none x.since e = some y ∧ y.seen = x.beat)

/-- What an access by another requester than a tile's own streams waits for: a stack in forced self-refresh that holds one of the
bytes, or a tile between the words of a beat whose SRAM does (R219, R237). -/
def Sys2Proof.Spec.Awaited (s : State) (locs : List Nat) : Prop :=
  s.srHeld locs = true ∨ ∃ l u off, l ∈ locs ∧ placeOf l = .window u off ∧ Sys2Proof.Spec.MidBeat (s.tile u)

/-- R177, R219, R236, R237, R239: the tile's oldest store is performed: its bytes stand in memory, every other byte reads as before,
its granules are full unless it is an .nf store, the store count of its rank falls, and each other die that homes it takes its
stamp in. It is not performed while its stack is in forced self-refresh, in the middle of a beat of the tile whose window it goes
through, or before a write to one of the same dies that its stamp names. -/
def Sys2Proof.Spec.StoresPerform : Prop :=
  ∀ (s : State) (i : Instr) (p : PendStore) (r : List PendStore), s.inv → s.cur.at_ < 160 → s.here.stores = p :: r →
    p.nack = none → s.tileOf p.box p.rank = some s.cur.at_ →
    (i = .storePerformed ∧ p.cross = [] ∨ i = .crossDieWritePerform ∧ p.cross ≠ []) →
    let midBeat := Sys2Proof.Spec.MidBeat s.here ∧ ∃ l off, l ∈ p.locs ∧ placeOf l = .window s.cur.at_ off
    let named := ∃ u q, u < 160 ∧ u ≠ s.cur.at_ ∧ q ∈ (s.tile u).stores ∧ Sys2Proof.Spec.Names p.stamp p.cross u q
    (s.srHeld p.locs = true ∨ midBeat ∨ named → exec i s = .next { s with last := .event })
    ∧ (s.srHeld p.locs = false → ¬ midBeat → ¬ named →
      ∃ u, exec i s = .next u ∧ u.here.stores = r ∧ u.me.oc = { s.me.oc with ocs := s.me.oc.ocs - 1 }
        ∧ (∀ a, u.mem.read a = afterWrites s.mem p.bytes a)
        ∧ (p.nf = false → ∀ l, l ∈ p.bytes.map Prod.fst → ∀ t off, placeOf l = .window t off → t < 160 →
            u.isFull t (off / 16) = true)
        ∧ ∀ d k, d ∈ p.cross → d < 4 → k < 4 →
            let x := vget 0 (s.die d).vclock k
            let y := vget 0 p.stamp k
            vget 0 (u.die d).vclock k = if (y - x).toNat < 2 ^ 31 then y else x)

/-- R177, R219, R229, R234, R236, R237, R239, R271: `StoresIssue` and `StoresPerform` hold. That a tile's stores are kept and
performed in issue order, oldest first, is the model's choice (log entry 17), and so is the update of the vector clocks (log entry
16). -/
def Obligations.StoreWords : Prop :=
  Sys2Proof.Spec.StoresIssue ∧ Sys2Proof.Spec.StoresPerform

/-- R216, R230, R236, R250, R271: an atomic changes its word at its home as one action, after the stores of its own stream and every
write that its die's clock names to that home, and sends the old word, zero-extended, on its way to sd; it counts as a load and as a
store. That the stores of its stream and the named writes are performed at once, the own stores in issue order, and what the clock is
afterwards, is the model's mechanism (log entries 16 and 17): R236 states no rule of update. -/
def Sys2Proof.Spec.AtomicsUpdateMemory : Prop :=
  ∀ (s s' : State) (i : Instr) (f : FCM) (cas : Bool) (new : Nat → Nat) (locs : List Nat) (ls : List Word),
    atomicOp s i = some (f, cas, new) → s.inv → AtIssue s .c → s.me.c.live = false → s.me.waits (atomicReads f cas) = false →
    Served s (cmVa s f) (2 ^ f.w.toNat) true locs ls s' → (cmVa s f).toNat % 2 ^ f.w.toNat = 0 →
    (cas = true → f.sd ≠ 0 ∧ f.sd ≠ 15 ∧ f.sd ≠ 31) → ls.any lfMv = false → Clean s' locs →
    s'.reply (cmVa s f).toNat locs true = none → locs.Nodup →
    let s1 := (s'.performAll s.cur.at_).crossLines (s.cur.at_ / 40) ls locs
    let old := ofBytes (locs.map (s1.mem.read ·))
    Clean s1 locs → Room s 1 1 0 →
    ∃ t, exec i s = .next t
      ∧ t.me.loads = s1.me.loads ++ [⟨.atomic, [(regNo s f.sd, BitVec.ofNat 64 old)], true, none, false, false, locs⟩]
      ∧ t.me.oc = { s1.me.oc with ocl := s1.me.oc.ocl + 1, ocs := s1.me.oc.ocs + 1 }
      ∧ (∀ a, t.mem.read a = afterWrites (s1.touch s.myAsid true (pagesOf (cmVa s f).toNat (2 ^ f.w.toNat))).mem
          (locs.zip (toBytes (2 ^ f.w.toNat) (new old))) a)
      ∧ AccessFrame s1 t

/-- R222, R230: an atomic at an address that is not naturally aligned raises ATOMIC_ALIGN; an AMOCAS whose sd + 1 is not a
second register raises RSV_VALUE. -/
def Sys2Proof.Spec.AtomicsThatTrap : Prop :=
  ∀ (s s' : State) (i : Instr) (f : FCM) (cas : Bool) (new : Nat → Nat) (locs : List Nat) (ls : List Word),
    atomicOp s i = some (f, cas, new) → s.me.c.live = false → s.me.waits (atomicReads f cas) = false →
    Served s (cmVa s f) (2 ^ f.w.toNat) true locs ls s' →
    ((cmVa s f).toNat % 2 ^ f.w.toNat ≠ 0 → Raises i s 0x45 (cmVa s f))
    ∧ ((cmVa s f).toNat % 2 ^ f.w.toNat = 0 → cas = true → (f.sd = 0 ∨ f.sd = 15 ∨ f.sd = 31) → Raises i s 0x03 0)

/-- R216, R222, R230, R236, R250, R271: `AtomicsUpdateMemory` and `AtomicsThatTrap` hold. What is performed before an atomic, and the
clocks that it leaves, are the model's mechanism for R234 and R236 (log entries 16 and 17). -/
def Obligations.AtomicWords : Prop :=
  Sys2Proof.Spec.AtomicsUpdateMemory ∧ Sys2Proof.Spec.AtomicsThatTrap

/-- `n` words from `va` read one by one as LD.d reads them, with the bytes read and the state that the reads leave (R242). -/
def Sys2Proof.Spec.FenceReads : Nat → Word → State → List Byte → State → Prop
  | 0, _, s, bs, t => bs = [] ∧ t = s
  | n + 1, va, s, bs, t => ∃ locs ls s1 r, Served s va 8 false locs ls s1 ∧ Clean s1 locs ∧ s1.reply va.toNat locs true = none
      ∧ bs = locs.map (s1.ownByte s.cur.at_ ·) ++ r
      ∧ Sys2Proof.Spec.FenceReads n (va + 8) (s1.touch s1.myAsid false (pagesOf va.toNat 8)) r t

/-- A release at FABRIC by the rank at issue (R242, R387): none of its writes is hidden from peers any more, and no other write comes
to be. Which writes of others come before it and are seen with it is a free choice (log entry 81). -/
def Sys2Proof.Spec.Released (s t : State) : Prop :=
  (∀ u, u ∈ t.unseen → u ∈ s.unseen ∧ u.by_ ≠ some (s.myBox, s.here.rank))

/-- A region list as R244 lays it out: its head, entries less one, and the entries, each an address and a length. -/
def Sys2Proof.Spec.RegionList (head : Nat) (body : List Byte) : Prop :=
  head < 16 ∧ ∀ i, i ≤ head →
    let a := fieldOf body (16 * i) 8
    let n := fieldOf body (16 * i + 8) 8
    a < 2 ^ 57 ∧ a % 64 = 0 ∧ 0 < n ∧ n < 2 ^ 40 ∧ n % 64 = 0 ∧ a + n ≤ 2 ^ 57

/-- R104, R242, R243, R244, R387: a FENCE waits for the stores of its stream in its release part and for its loads and atomics in its
acquire part, under .tile for those through its tile's window alone; when they are done it only passes, and a release at FABRIC lets
peers see every write of its rank. One with a list first reads the list word by word; a list off its alignment or its layout raises
FENCE_LIST. That a FENCE with a list waits for every store and load of its stream, and which lists raise FENCE_LIST beyond R244's
words, are the model's choices (log entry 51). -/
def Sys2Proof.Spec.FenceWaits : Prop :=
  ∀ (s : State) (f : FCS), AtIssue s .c →
    let within := fun (locs : List Nat) => bits f.imm 0 3 = 0 → ∃ l off, l ∈ locs ∧ placeOf l = .window s.cur.at_ off
    let stores := ∃ p, p ∈ s.here.stores ∧ s.here.box = some p.box ∧ p.rank = s.here.rank ∧ within p.locs
    let loads := ∃ g, g ∈ s.me.loads ∧ g.kind ≠ .word ∧ g.raised = false ∧ within g.locs
    let fabric := f.q.getLsbD 1 = true ∧ bits f.imm 0 3 = 4
    (s.me.c.live = true → Parks (.fence f) s 0x01 0)
    ∧ (s.me.c.live = false → f.sa = 0 →
        (¬ (f.q.getLsbD 1 = true ∧ stores) → ¬ (f.q.getLsbD 0 = true ∧ loads) →
          (¬ fabric → CWord (.fence f) s s.me)
          ∧ (fabric → ∃ t z, exec (.fence f) s = .next t ∧ t = { z with unseen := t.unseen, fresh := t.fresh }
              ∧ PassesWith s z s.me ∧ Sys2Proof.Spec.Released s t))
        ∧ (f.q.getLsbD 1 = true ∧ stores ∨ f.q.getLsbD 0 = true ∧ loads → Stalls (.fence f) s 0 0))
    ∧ (s.me.c.live = false → f.sa ≠ 0 → s.me.waits [f.sa] = false → bits (s.reg f.sa) 57 7 = 0 →
        ((s.reg f.sa).toNat % 8 ≠ 0 → Raises (.fence f) s 0x80 0)
        ∧ ∀ (s1 s2 : State) (head body : List Byte),
            let va := s.reg f.sa
            let n := ofBytes head
            va.toNat % 8 = 0 → Sys2Proof.Spec.FenceReads 1 va s head s1 →
            Sys2Proof.Spec.FenceReads (2 * (n % 16 + 1)) (va + 8) s1 body s2 →
            (¬ Sys2Proof.Spec.RegionList n body → Raises (.fence f) s 0x80 0)
            ∧ (Sys2Proof.Spec.RegionList n body → ¬ (f.q.getLsbD 1 = true ∧ stores) → ¬ (f.q.getLsbD 0 = true ∧ loads) →
                ∃ t, exec (.fence f) s = .next t ∧ AccessFrame s t ∧ (∀ a, t.mem.read a = s2.mem.read a)
                  ∧ (fabric → ∀ u, u ∈ t.unseen → u.by_ ≠ some (s.myBox, s.here.rank)))
            ∧ (Sys2Proof.Spec.RegionList n body → f.q.getLsbD 1 = true ∧ stores ∨ f.q.getLsbD 0 = true ∧ loads →
                exec (.fence f) s = .next (s2.stallWord s.cur.at_ s.cur.strm 0 0)))

/-- R177, R234, R236, R270, R271, R275 to R277: the stores of the stream to the object come first (`ConsumingLoadsFollowOwnStores`).
BINIT stores both words of an object as one store, and sets no full bit; BARRIVE applies one arrival at the object's home and sends
the old word 0 to sd, and one more than the phase expects, at ARR = 0, also makes BAR_OVERFLOW pending; BTEST sends whether PHASE
differs; BWAIT passes once it differs and stalls until then. What is performed before each, its order and the stamps are the model's
(log entries 16 and 17); the order of the checks is its reading (log entry 51). -/
def Sys2Proof.Spec.BarrierWords : Prop :=
  ∀ (s s' : State) (f : FCR) (locs : List Nat) (ls : List Word), s.inv → AtIssue s .c → s.me.c.live = false →
    s.me.waits [f.sa, f.sb, f.sc] = false →
    let x := s.reg f.sa
    let z := s'.performOwn locs
    let z1 := z.crossLines (s.cur.at_ / 40) ls (locs.take 8)
    Room z 1 1 0 →
    (Barred s f true locs ls s' → ls.any lfMv = false →
      ((s.reg f.sb).toNat < 2 ^ 48 → (s.reg f.sc).toNat < 2 ^ 15 → ¬ (s.reg f.sb = 0 ∧ s.reg f.sc = 0) →
        ∃ t, exec (.binit f) s = .next t ∧ AccessFrame z t
          ∧ (let w := (s.reg f.sb).toNat + (s.reg f.sc).toNat * 2 ^ 48
             t.here.stores = z.here.stores
              ++ [⟨s.myBox, s.here.rank, locs.zip (toBytes 8 w ++ toBytes 8 w), true, crossHomes s.cur.at_ ls locs,
                   if s.me.lockstep then some s.here.cnt else none, z.reply x.toNat locs false, locs,
                   Sys2Proof.Spec.stampFor z (crossHomes s.cur.at_ ls locs)⟩])
          ∧ t.me.oc = { z.me.oc with ocs := z.me.oc.ocs + 1 } ∧ t.me.loads = s.me.loads)
      ∧ (2 ^ 48 ≤ (s.reg f.sb).toNat ∨ 2 ^ 15 ≤ (s.reg f.sc).toNat ∨ (s.reg f.sb = 0 ∧ s.reg f.sc = 0) →
          Raises (.binit f) s 0x03 0)
      ∧ (z.reply x.toNat locs true = none → locs.Nodup → locs.length = 16 →
          let ovf := (wordAt z1 (locs.take 8)).extractLsb' 48 15 = 0
          (ovf → s.tileOf s.myBox s.here.rank = some s.cur.at_) →
          ∃ t, exec (.barrive f) s = .next t
            ∧ (¬ ovf → AccessFrame z1 t)
            ∧ (ovf → Issued z1 t ∧ Onward z1 t z1.me.c ∧ t.me.trap = { z1.me.trap with tpend := z1.me.trap.tpend ||| 8 })
            ∧ (let w := arrived (wordAt z1 (locs.take 8)) (wordAt z1 (locs.drop 8))
               ∀ a, t.mem.read a = afterWrites (z1.touch s.myAsid true (pagesOf x.toNat 16)).mem
                ((locs.take 8).zip (toBytes 8 w.toNat)) a)
            ∧ t.me.loads = s.me.loads
                ++ [⟨.word, [(regNo s f.sd, wordAt z1 (locs.take 8))], true, none, false, false, locs⟩]
            ∧ t.me.oc = { z1.me.oc with ocl := z1.me.oc.ocl + 1, ocs := z1.me.oc.ocs + 1 }))
    ∧ (Barred s f false locs ls s' → z.reply x.toNat locs true = none → locs.length = 16 →
        let phase := (BitVec.ofNat 64 (ofBytes ((locs.take 8).map z.seen))).getLsbD 63
        let p := (s.reg f.sb).getLsbD 63
        (∃ t, exec (.btest f) s = .next t ∧ AccessFrame z t
          ∧ t.me.loads = s.me.loads
              ++ [⟨.word, [(regNo s f.sd, if phase ≠ p then 1 else 0)], true, none, false, false, locs⟩]
          ∧ t.me.oc = { z.me.oc with ocl := z.me.oc.ocl + 1 })
        ∧ (phase ≠ p → ∃ t, exec (.bwait f) s = .next t ∧ AccessFrame z t ∧ t.me.loads = s.me.loads ∧ t.me.oc = z.me.oc)
        ∧ (phase = p → exec (.bwait f) s = .next (z.stallWord s.cur.at_ s.cur.strm 0x05
            (BitVec.setWidth 64 (x.extractLsb' 0 57) ||| (if p then 1 <<< 59 else 0)))))

/-- R104, R177, R234, R236, R242, R243, R244, R270, R271, R275 to R277: `FenceWaits` and `BarrierWords` hold. What a listed FENCE waits
for, the details of FENCE_LIST and the order of the barrier checks are log entry 51, what comes before a barrier word and the stamps
log entries 16 and 17, and what a release at FABRIC covers of others' writes log entry 81. -/
def Obligations.FencesAndBarriers : Prop :=
  Sys2Proof.Spec.FenceWaits ∧ Sys2Proof.Spec.BarrierWords

/-- R348, R351, R52, R101: a precise cause of any word, where no poison is live and no handler is active, enters the handler:
FAULTPC, TCAUSE, TVAL and TWORD are written, ACT is set, and C goes to the handler. The engines' words before the boundary have
taken effect. -/
def Sys2Proof.Spec.PreciseTrapEntry : Prop :=
  ∀ (s : State) (i : Instr) (code : BitVec 8) (tval : Word), s.cur.at_ < 160 → Raises i s code tval → s.me.c.live = false →
    s.me.trap.act = false → Usable s →
    ∃ t, exec i s = .next t ∧ t.last = .trapped code
      ∧ HandlerEntered (s.landEngines s.cur.at_) t (s.remIdle s.cur.at_ .c) (causeBits s.cur.idx 0 s.cur.strm code) tval
          s.cur.word

/-- R351: under live poison a cause parks the context instead; with its handler active, or with no usable one, the context
parks HALTED and leaves its tiles, and the owner of its fault domain is told the code, after NESTED where the handler was
active. -/
def Sys2Proof.Spec.UnhandledTrapHalts : Prop :=
  ∀ (s : State) (i : Instr) (code : BitVec 8) (tval : Word) (b : Nat), s.inv → s.cur.at_ < 160 → TeamAtIssue s b →
    Raises i s code tval →
    (s.me.c.live = true → exec i s = .next ((s.landEngines s.cur.at_).parkTile s.cur.at_ 0x01 0))
    ∧ (s.me.c.live = false → s.me.trap.act = true ∨ ¬ Usable s →
        let fd := s.effFdom (boxDie b) (s.box b).rcb
        ∃ t, exec i s = .next t ∧ t.last = .parked ∧ LeftTiles s t b ∧ (t.box b).state = .parked
          ∧ (t.box b).reason = 0x0D ∧ (t.box b).watch = BitVec.ofNat 64 s.here.rank <<< 60
          ∧ (s.me.trap.act = true → t.reports = (fd, b, code) :: (fd, b, 0x0A) :: s.reports)
          ∧ (s.me.trap.act = false → t.reports = (fd, b, code) :: s.reports))

/-- R26, R349, R352, R353: at a boundary of a tile where no poison is live and no handler is active, the pending asynchronous cause
with the lowest code is delivered: its bit in TPEND clears and the handler is entered with ASYNC set and STR, SIDX, TVAL and
TWORD 0. A wait that has passed the region's threshold at the beat takes the boundary first and parks the team; while a word with
such a wait is still to be tried at the beat, the boundary is not decided. Elsewhere nothing changes. -/
def Sys2Proof.Spec.AsyncCauseDelivered : Prop :=
  ∀ (s : State), s.cur.at_ < 160 → s.here.box.isSome = true → s.me.done = false →
    let counted := fun (e : Strm) (y : Stall) => vget none s.here.since e.num = some y ∧ y.reason ≠ 0
    let long := fun (y : Stall) => (s.effWthr (boxDie s.myBox) (s.box s.myBox).rcb).toNat < s.here.beat - y.start
    let boundary := s.me.trap.tpend ≠ 0 ∧ s.me.trap.act = false ∧ s.me.c.live = false ∧ s.here.issued = 0 ∧ s.here.holdAll ≤ s.here.beat
    (¬ boundary → exec .asyncCauseDelivery s = .next { s with last := .event })
    ∧ (boundary → (∃ e y, counted e y ∧ y.start < s.here.beat ∧ s.canIssue s.cur.at_ e = true) →
        exec .asyncCauseDelivery s = .next { s with last := .event })
    ∧ (boundary → (∀ e y, counted e y → y.seen = s.here.beat) → ∀ e y, counted e y → long y →
        (∀ e' y', e'.num < e.num → counted e' y' → ¬ long y') →
        exec .asyncCauseDelivery s = .next (s.parkTile s.cur.at_ y.reason y.watch))
    ∧ (∀ k, k < 8 → s.me.trap.tpend.getLsbD k = true → (∀ j, j < k → s.me.trap.tpend.getLsbD j = false) →
        boundary → (∀ e y, counted e y → y.seen = s.here.beat ∧ ¬ long y) → Usable s →
        let code := asyncCodes.getD k 0
        let s1 := (s.landEngines s.cur.at_).updCtx s.cur.at_ fun c => { c with
          trap := { c.trap with tpend := c.trap.tpend &&& ~~~ (1 <<< k : BitVec 8) }
          loads := c.loads.filter fun f => !(f.raised && f.nack.any fun n => (if n.1 = 5 then 0xD1 else 0x46) == code) }
        ∃ t, exec .asyncCauseDelivery s = .next t ∧ t.last = .trapped code
          ∧ HandlerEntered s1 t (s1.remIdle s.cur.at_ .c) (causeBits 0 1 .c code) 0 0)

/-- R52, R101, R348, R349, R351, R352, R353: `PreciseTrapEntry`, `UnhandledTrapHalts` and `AsyncCauseDelivered` hold. -/
def Obligations.CausesTaken : Prop :=
  Sys2Proof.Spec.PreciseTrapEntry ∧ Sys2Proof.Spec.UnhandledTrapHalts ∧ Sys2Proof.Spec.AsyncCauseDelivered

/-- R354, R355: TRAP raises TRAP_SW with its immediate, and TRAP.nz only where its register is not 0; otherwise it only passes.
TRET outside a handler raises HANDLER_STATE. Under live poison they park. -/
def Sys2Proof.Spec.TrapWordsRaise : Prop :=
  ∀ (s : State) (f : FCI), AtIssue s .c →
    (s.me.c.live = true → ∀ i, i ∈ [Instr.trap f, .tret f, .tretPass f, .syscExit f, .syscNotify f] → Parks i s 0x01 0)
    ∧ (s.me.c.live = false →
        (f.q = 0 ∨ s.me.waits [f.sa] = false ∧ s.reg f.sa ≠ 0 → Raises (.trap f) s 0x08 (f.imm.setWidth 64))
        ∧ (f.q ≠ 0 → s.me.waits [f.sa] = false → s.reg f.sa = 0 → CWord (.trap f) s s.me)
        ∧ (s.me.trap.act = false → Raises (.tret f) s 0x09 0 ∧ Raises (.tretPass f) s 0x09 0)
        ∧ (s.me.lockstep = true → Raises (.syscExit f) s 0x0B 0 ∧ Raises (.syscNotify f) s 0x0B 0))

/-- R355, R36, R101: TRET leaves the handler: C resumes at FAULTPC, three beats on at the earliest, the frozen writes are
released, and the stopped streams go on with their remaining idle counts. TRET 1 after a precise cause also passes the raising
word, with the close or back-edge that falls at it; after an asynchronous cause it acts as TRET. -/
def Sys2Proof.Spec.TretResumes : Prop :=
  ∀ (s : State) (f : FCI), AtIssue s .c → s.me.c.live = false → s.me.trap.act = true →
    let c := returned s
    let k := (s.me.trap.tcause.extractLsb' 24 24).toNat
    let at_ := fun e => if c.member e then s.here.cnt - 1 else s.here.beat + 2
    let frame := fun t => OnlyTile s.cur.at_ s t ∧ Issued s t
      ∧ t.here = { s.here with holdAll := s.here.beat + 3, holdC := 0, since := Vector.replicate 4 none, ctx := t.me
                               issued := t.here.issued, retried := t.here.retried }
    (∃ t, exec (.tret f) s = .next t ∧ frame t ∧ t.me = c)
    ∧ (∃ t, exec (.tretPass f) s = .next t ∧ frame t
        ∧ (s.me.trap.tcause.getLsbD 10 = true → t.me = c)
        ∧ (s.me.trap.tcause.getLsbD 10 = false →
            (∀ e, e ≠ .c → (s.me.trap.tcause.extractLsb' 8 2).toNat = e.num → t.me = c.updStrm e (streamPast k (at_ e)))
            ∧ (s.me.trap.tcause.extractLsb' 8 2 = 0 → BackEdge c.c k t.me.c t.me.mpc
                ∧ t.me = { c with mpc := t.me.mpc, due := .after (at_ .c)
                                  c := { c.c with lpcnt := t.me.c.lpcnt, lpact := t.me.c.lpact } })))

/-- R36, R101, R354, R355: `TrapWordsRaise` and `TretResumes` hold. -/
def Obligations.TrapWords : Prop :=
  Sys2Proof.Spec.TrapWordsRaise ∧ Sys2Proof.Spec.TretResumes

/-- R300, R290, R291: CXPARK sets PWAKE and EVMASK and arms a deadline, whose TIMER is an event of this beat where the deadline
has passed; with an event of its mask pending it goes on, and otherwise the team is saved and the context parks on EVENT. A mask
above 32 bits, none without a deadline, or a deadline 0 raises RSV_VALUE. -/
def Sys2Proof.Spec.CxparkParksOnEvents : Prop :=
  ∀ (s : State) (f : FCB) (b : Nat), s.inv → AtIssue s .c → TeamAtIssue s b → s.me.c.live = false →
    s.me.lockstep = false → NoLoopEnd s.me.c s.cur.idx → s.me.waits [f.sa, f.sb] = false →
    let m := s.reg f.sa
    let w := s.reg f.sb
    let dl := f.q.getLsbD 0
    let y := armed s m w dl (s.box b)
    let bad := 2 ^ 32 ≤ m.toNat ∨ (m = 0 ∧ dl = false) ∨ (dl = true ∧ w = 0)
    let old := if dl then w else (s.box b).deadline
    let z := if ((s.box b).dl = true ∨ dl = true) ∧ old.toNat ≤ s.timeb then { s with tiles := marked s b 31 } else s
    (bad → Raises (.cxpark f) s 0x03 0)
    ∧ (¬ bad → y.evpend &&& y.evmask ≠ 0 → ∃ t s', exec (.cxpark f) s = .next t ∧ t = { s' with boxes := t.boxes }
        ∧ PassesWith z s' s.me ∧ t.box b = y ∧ ∀ a, a ≠ b → t.box a = s.box a)
    ∧ (¬ bad → y.evpend &&& y.evmask = 0 → ∃ t, exec (.cxpark f) s = .next t ∧ LeftTiles s t b
        ∧ (t.box b).state = .parked ∧ (t.box b).reason = 0x0A
        ∧ (t.box b).watch = BitVec.ofNat 64 s.here.rank <<< 60 ||| (if y.dl then 1 else 0)
        ∧ (t.box b).pwake = y.pwake ∧ (t.box b).evmask = y.evmask ∧ (t.box b).evpend = y.evpend ∧ (t.box b).dl = y.dl
        ∧ (t.box b).deadline = y.deadline)

/-- R299: CXSW without a context to switch to goes on; one that names no box which it may name raises CX_TARGET; otherwise the
caller is saved and READY, and its tiles are on their way to the context chosen or named, which stays READY until they reach it.
Which boxes those are, `CxswTargets` says. -/
def Sys2Proof.Spec.CxswHandsTilesOver : Prop :=
  ∀ (s : State) (f : FCB) (b : Nat), s.inv → AtIssue s .c → TeamAtIssue s b → s.me.c.live = false →
    s.me.lockstep = false → NoLoopEnd s.me.c s.cur.idx → s.me.waits [f.sa] = false →
    (f.sa = 0 → s.cxChoice = none → CWord (.cxsw f) s s.me)
    ∧ (f.sa ≠ 0 → 65536 ≤ (s.reg f.sa).toNat ∨ s.cxTarget (s.reg f.sa).toNat = false → Raises (.cxsw f) s 0xA0 0)
    ∧ ∀ a, (f.sa = 0 ∧ s.cxChoice = some a ∨ f.sa ≠ 0 ∧ s.reg f.sa = BitVec.ofNat 64 a ∧ a < 65536 ∧ s.cxTarget a = true) →
        ∃ t, exec (.cxsw f) s = .next t ∧ LeftTiles s t b ∧ (t.box b).state = .ready
          ∧ (t.box a).handed = some ((s.box b).tiles, f.sa == 0) ∧ (t.box a).state = .ready

/-- R294, R299: the box that a CXSW names is another READY box of the caller's die, of the caller's region or one below it, eligible,
and of a team no larger: whether its launch may start is not asked (DESIGN CHOICE, notes/assumptions/31.md). Of s0 it is the
context that R296 would choose for the caller's tiles: the first of the die's run list, the caller left out, that no waiting
context at AGE 8 keeps back, whose team fits, and whose live state, where it has one on tiles, lies on the caller's. -/
def Sys2Proof.Spec.CxswTargets : Prop :=
  ∀ (s : State) (b : Nat), s.inv → TeamAtIssue s b → b < 65536 →
    let x := s.box b
    (∀ a, a < 65536 → (s.cxTarget a = true ↔
      let y := s.box a
      boxDie a = boxDie b ∧ a ≠ b ∧ y.state = .ready ∧ (∀ r, r ∈ s.charged (boxDie b) y.rcb → r.used < s.budgetOf r)
        ∧ (∃ r, r ∈ s.chainOf (boxDie b) y.rcb ∧ r.va = x.rcb) ∧ s.teamOf a ≤ x.tiles.length))
    ∧ (let run := (s.runList (boxDie b)).filter (· != b)
       let kept := fun a => ∃ c, c ∈ run ∧ c ≠ a ∧ (s.box c).age = 8 ∧ (s.box a).prio.toNat ≤ (s.box c).prio.toNat
         ∧ ((s.box a).age = 8 → (s.box a).prio = (s.box c).prio → (s.box c).readySeq < (s.box a).readySeq)
       let may := fun a => ¬ kept a ∧ s.teamOf a ≤ x.tiles.length ∧ ((s.box a).live = true → ∀ u, u ∈ (s.box a).tiles → u ∈ x.tiles)
       (s.cxChoice = none ↔ ∀ a, a ∈ run → ¬ may a)
       ∧ ∀ a, s.cxChoice = some a → ∃ l r, run = l ++ a :: r ∧ may a ∧ ∀ c, c ∈ l → ¬ may c)

/-- R299, R318: tiles that a CXSW has handed over reach the context it named: the context runs on them, on its own where its live
state stands there, and those beyond its team return to the scheduler core, where its lease meets no other and no image is
needed. One that may not start by then, its budget spent or its launch held, leaves them all (notes/assumptions/31.md). -/
def Sys2Proof.Spec.HandedTilesReachTheirContext : Prop :=
  ∀ (s : State) (a : Nat) (ts : List Nat) (aged : Bool), s.inv → (s.box a).handed = some (ts, aged) →
    (s.startable a = false → ∃ t, s.handOver a = t ∧ (t.box a).handed = none ∧ (t.box a).state = (s.box a).state
      ∧ (∀ o, o ≠ a → t.box o = s.box o) ∧ ∀ u, t.tile u = s.tile u)
    ∧ (s.startable a = true → (∀ o, o ≠ a → leasesMeet (s.box a) (s.box o) = false) → ts.Nodup → (∀ u, u ∈ ts → u < 160) →
        (∀ u, u ∈ ts → (s.tile u).box = none) →
        ((s.box a).live = true ∧ (∀ u, u ∈ (s.box a).tiles → u ∈ ts) ∧ (s.box a).tiles.Nodup
          ∨ (s.box a).live = false ∧ (s.box a).img = false) →
        let us := if (s.box a).live then (s.box a).tiles else ts.take (s.teamOf a)
        ((s.handOver a).box a).state = .running ∧ ((s.handOver a).box a).tiles = us ∧ ((s.handOver a).box a).handed = none
          ∧ (∀ r u, us[r]? = some u → ((s.handOver a).tile u).box = some a ∧ ((s.handOver a).tile u).rank = r)
          ∧ ∀ u, u ∈ ts → u ∉ us → ((s.handOver a).tile u).box = none)

/-- R298, R104, R119: what the three context words share: they park under live poison, raise CX_LOCKSTEP in a lockstep region,
and LOOP_STATE at the end of a loop body. For the context words that last clause is the model's reading of R119, which names
only the CB word (DEDUCED, notes/assumptions/29.md). -/
def Sys2Proof.Spec.ContextWordsStop : Prop :=
  ∀ (s : State) (f : FCB) (i : Instr), AtIssue s .c → i ∈ [Instr.cxsw f, .cxpark f, .cxyield f] →
    (s.me.c.live = true → Parks i s 0x01 0)
    ∧ (s.me.c.live = false → s.me.lockstep = true → Raises i s 0xA1 0)
    ∧ (s.me.c.live = false → s.me.lockstep = false → ¬ NoLoopEnd s.me.c s.cur.idx → Raises i s 0x07 0)

/-- R104, R119, R290, R291, R294, R296, R297, R298, R299, R300, R318: `CxparkParksOnEvents`, `CxswHandsTilesOver`, `CxswTargets`,
`HandedTilesReachTheirContext` and `ContextWordsStop` hold. -/
def Obligations.ParkAndSwitchWords : Prop :=
  Sys2Proof.Spec.CxparkParksOnEvents ∧ Sys2Proof.Spec.CxswHandsTilesOver ∧ Sys2Proof.Spec.CxswTargets
    ∧ Sys2Proof.Spec.HandedTilesReachTheirContext ∧ Sys2Proof.Spec.ContextWordsStop

/-- R301: CXYIELD saves the team, makes the caller READY at the tail of its run list, and runs a selection; no other context's
AGE changes before that selection. The caller resumes at the word after it. -/
def Obligations.CxyieldRunsASelection : Prop :=
  ∀ (s : State) (f : FCB) (b : Nat), s.inv → AtIssue s .c → TeamAtIssue s b → s.me.c.live = false →
    s.me.lockstep = false → NoLoopEnd s.me.c s.cur.idx →
    ∃ u, exec (.cxyield f) s = .next (u.select (boxDie b)) ∧ LeftTiles s u b
      ∧ (u.box b).state = .ready ∧ (u.box b).readySeq = s.seq ∧ u.seq = s.seq + 1 ∧ (u.box b).age = 0
      ∧ (u.box b).prio = s.effPrio (boxDie b) (s.box b).rcb
      ∧ (∀ a, a ≠ b → (u.box a).age = (s.box a).age ∧ (u.box a).readySeq = (s.box a).readySeq)
      ∧ ((u.box b).saved[s.here.rank]?).map (·.mpc) = some (s.cur.idx + 1)

/-- R288, R356, R386, R387: SYSC 0 ends the tile's part of the launch: ACT clears, frozen writes are discarded, and every engine stream
stops with its words issued so far in effect. SYSC 1 stalls while a store of its stream is not performed or the notification
cannot be posted, and otherwise lets peers see every write of its rank, posts its record of kind 2 in the die's ring and signals
it. -/
def Obligations.SyscEndsOrNotifies : Prop :=
  ∀ (s : State) (f : FCI), AtIssue s .c → s.me.c.live = false → s.me.lockstep = false →
    (let stop := fun (y : Stream) => { y with running := false, ended := false, levels := [] }
     let c := s.me.landEngines
     CWord (.syscExit f) s { c with frozen := [], trap := { c.trap with act := false }, done := true, v := stop c.v
                                    x := stop c.x, s := stop c.s })
    ∧ (s.me.waits [f.sa] = false →
        let d := boxDie s.myBox
        let r := (s.die d).nring
        let out := ∃ p, p ∈ s.here.stores ∧ s.here.mine p = true
        let record := [2, 0xFF] ++ toBytes 2 (s.myBox % 65536) ++ toBytes 4 s.here.rank ++ toBytes 8 (s.reg f.sa).toNat
          ++ toBytes 8 (s.timeb % 2 ^ 64) ++ List.replicate 8 0
        let slot := r.base + BitVec.ofNat 64 (32 * (r.prod.toNat % 2 ^ r.log.toNat))
        (out ∨ (r.prod - r.cons).toNat = 2 ^ r.log.toNat → Stalls (.syscNotify f) s 0 0)
        ∧ ∃ z, z = { s with unseen := z.unseen, fresh := z.fresh } ∧ Sys2Proof.Spec.Released s z
          ∧ (z.writeWaits 0 slot.toNat 32 = true ∨ z.writeFrom d 0 slot record = none → Stalls (.syscNotify f) s 0 0)
          ∧ ∀ s1, ¬ out → 4 ≤ r.log.toNat → r.log.toNat ≤ 12 → r.base.toNat % 4096 = 0 →
            (r.prod - r.cons).toNat ≠ 2 ^ r.log.toNat → d < 4 → z.writeWaits 0 slot.toNat 32 = false →
            z.writeFrom d 0 slot record = some s1 →
            ∃ t, exec (.syscNotify f) s = .next t ∧ (∀ a, t.mem.read a = s1.mem.read a)
              ∧ (t.die d).nring = { r with prod := r.prod + 1 }
              ∧ (s.msixMask.getLsbD d = true → t.msixPend = s.msixPend ||| (1 <<< d : BitVec 8) ∧ t.msixSent = s.msixSent)
              ∧ (s.msixMask.getLsbD d = false → t.msixSent = (d, vget (0, 0) s.msixTable d) :: s.msixSent ∧ t.msixPend = s.msixPend)
              ∧ Issued s t ∧ Onward s t s.me.c)

/-- R255, R261, R263, R240: CETAIL on a bound chain with room publishes n commands, CEAPP copies its 64 bytes into the ring slot and
publishes them; both first perform the stores of their stream (R240 orders them; that they are performed at once, in issue order and
with the writes that their stamps name, is the model's mechanism, log entries 16 and 17), count the commands and write 1. Without
room, counted as at the start of the team's beat, they write 0 and change nothing. -/
def Sys2Proof.Spec.CommandsArePublished : Prop :=
  ∀ (s : State) (f : FCR) (c : Nat), s.inv → AtIssue s .c → s.me.c.live = false → c = (f.q.extractLsb' 0 3).toNat →
    let x := s.chain s.myBox c
    let slots := 2 ^ (x.logn.toNat + 4)
    let waiting := (x.tail - x.head).toNat + (x.fetches.filter fun k => decide (s.here.beat - s.here.base ≤ k)).length
    let s1 := s.performAll s.cur.at_
    let n := (s.reg f.sa).toNat
    (x.v = false → Raises (.ceapp f) s 0x65 0 ∧ Raises (.cetail f) s 0x65 0)
    ∧ (x.v = true → s.me.waits [f.sa] = false →
        (slots < n → Raises (.cetail f) s 0x64 0)
        ∧ (n ≤ slots → slots < waiting + n → CWord (.cetail f) s (wrote s f.sd 0 1))
        ∧ (n ≤ slots → waiting + n ≤ slots → ∃ t, exec (.cetail f) s = .next t
            ∧ (t.chain s.myBox c).tail = x.tail + BitVec.ofNat 32 n
            ∧ (t.chain s.myBox c).pubs = x.pubs ++ List.replicate n s.here.rank
            ∧ t.me.c.pend = s.me.c.pend ++ written s f.sd 1 false 1 ∧ OnlyPend s.me.c t.me.c
            ∧ t.me.oc.occ = s.me.oc.occ + BitVec.ofNat 32 n
            ∧ ((∀ p, p ∈ s.here.stores → s.srHeld p.locs = false) → t.here.stores = []) ∧ (∀ a, t.mem.read a = s1.mem.read a)
            ∧ Issued s t ∧ Onward s t s.me.c)
        ∧ (bits (s.reg f.sa) 57 7 ≠ 0 → Raises (.ceapp f) s 0x40 (s.reg f.sa))
        ∧ (bits (s.reg f.sa) 57 7 = 0 → n % 64 ≠ 0 → Raises (.ceapp f) s 0x66 0)
        ∧ ∀ la lb ls ms s2 s3, bits (s.reg f.sa) 57 7 = 0 → n % 64 = 0 →
            let slot := x.base + BitVec.ofNat 64 (64 * (x.tail.toNat % slots))
            s.access s.myAsid n 64 false = (.ok la ls, s2) → s.access s.myAsid slot.toNat 64 true = (.ok lb ms, s3) →
            (slots ≤ waiting → CWord (.ceapp f) s (wrote s f.sd 0 1))
            ∧ (waiting < slots → ms.any lfMv = false → Clean s la → s.reply n la true = none → s.reply slot.toNat lb false = none →
                let s4 := (((s1.ceasePages s.myBox (pageBases n 64 ++ pageBases slot.toNat 64)).touch s.myAsid false
                  (pagesOf n 64)).touch s.myAsid true (pagesOf slot.toNat 64)).crossLines (s.cur.at_ / 40) ms lb
                ∃ t, exec (.ceapp f) s = .next t ∧ (t.chain s.myBox c).tail = x.tail + 1
                  ∧ t.me.oc.occ = s.me.oc.occ + 1 ∧ t.me.c.pend = s.me.c.pend ++ written s f.sd 1 false 1
                  ∧ (∀ a, t.mem.read a = afterWrites s4.mem (lb.zip (la.map (s.ownByte s.cur.at_))) a) ∧ Issued s t ∧ Onward s t s.me.c))

/-- R264, R265, R254: QSEND, once the stores of its stream are performed, sends its message and writes its sequence number, or
writes 0 where the peer's queue may take none; QRECV and QPOLL take the message with seq = RSEQ, and without one QRECV stalls
and QPOLL delivers zeros. An unbound pair raises Q_UNBOUND. -/
def Sys2Proof.Spec.MessagesSentAndReceived : Prop :=
  ∀ (s : State) (f : FCR) (p : Nat), s.inv → AtIssue s .c → s.me.c.live = false → p = (f.q.extractLsb' 0 3).toNat →
    let x := s.pair s.myBox p
    let out := ∃ p, p ∈ s.here.stores ∧ s.here.mine p = true
    let b := x.pbox.toNat
    let c := x.ppair.toNat
    let take := Takes 4096 (s.pair b c).queue (s.otherPairs b c)
    let lone := f.sd = 0 ∨ f.sd = 15 ∨ f.sd = 31
    let got := fun (v w : Word) => { s.me with loads := s.me.loads ++
      [⟨.word, [(regNo s f.sd, v), (regNo s (f.sd + 1), w)], false, none, false, false, []⟩] }
    (x.v = false → Raises (.qsend f) s 0x69 0 ∧ Raises (.qrecv f) s 0x69 0 ∧ Raises (.qpoll f) s 0x69 0)
    ∧ (x.v = true →
        (s.me.waits [f.sa, f.sb] = false →
          (out → Stalls (.qsend f) s 0 0)
          ∧ (¬ out → ¬ take → CWord (.qsend f) s (wrote s f.sd 0 1))
          ∧ (¬ out → take → ∃ t, CWordBoxes (.qsend f) s (wrote s f.sd (x.sseq.setWidth 64) 1) t
              ∧ (t.pair b c).flying = (s.pair b c).flying ++ [⟨s.reg f.sa, (s.reg f.sb).setWidth 32, x.sseq⟩]
              ∧ (t.pair s.myBox p).sseq = seqAfter x.sseq))
        ∧ (lone → Raises (.qrecv f) s 0x03 0 ∧ Raises (.qpoll f) s 0x03 0)
        ∧ (¬ lone →
            ((∀ m, m ∈ x.held → m.seq ≠ x.rseq) →
              Stalls (.qrecv f) s 0x07 (BitVec.ofNat 64 p) ∧ CWord (.qpoll f) s (got 0 0))
            ∧ ∀ m, x.held.find? (fun m => m.seq = x.rseq) = some m → ∀ i, i ∈ [Instr.qrecv f, .qpoll f] →
                ∃ t, CWordBoxes i s (got m.w0 (m.seq ++ m.w1)) t ∧ (t.pair s.myBox p).rseq = seqAfter x.rseq
                  ∧ (∀ m', m' ∈ (t.pair s.myBox p).held ↔ m' ∈ x.held ∧ m' ≠ m)))

/-- R240, R254, R255, R261, R263, R264, R265: `CommandsArePublished` and `MessagesSentAndReceived` hold. That publishing performs the
stores of the stream, and the clocks that this leaves, are the model's mechanism (log entries 16 and 17). -/
def Obligations.CommandAndMessageWords : Prop :=
  Sys2Proof.Spec.CommandsArePublished ∧ Sys2Proof.Spec.MessagesSentAndReceived

/-- R326, R340, R254: SLSUB copies 64 bytes into its unit's queue and writes 1, or writes 0 where the queue may take none;
SLGET delivers the word once it is DONE, or with .nw, or with no command of the context left; SLCFG.drain passes once the
named units hold no command of the context, and .flush takes those commands out of their queues and writes how many. -/
def Obligations.SelectionWords : Prop :=
  ∀ (s : State) (f : FCR), s.inv → AtIssue s .c → s.me.c.live = false → s.me.waits [f.sa] = false → s.myBox < 65536 →
    let b := s.myBox
    let d := boxDie b
    let x := s.reg f.sa
    let u := (f.q.extractLsb' 0 3).toNat
    (∀ i n, (i, n) ∈ [(Instr.slsub f, 64), (.slget f, 8)] →
      (bits x 57 7 ≠ 0 → Raises i s 0x40 x) ∧ (bits x 57 7 = 0 → x.toNat % n ≠ 0 → Raises i s 0xC2 0))
    ∧ (∀ locs s', SlServed s f 64 locs s' → u < 6 →
        let q := (s.die d).units.toList.getD u []
        let held := fun (a : Nat) => (q.filter (·.box == a)).length
        let others := (s.boxes.filter fun p => p.2.state != .free && boxDie p.1 == d && p.1 != b).map fun p =>
          (⟨8, 1024, held p.1⟩ : PoolQueue)
        let take := q.length < 1024 ∧ Takes 1024 ⟨8, 1024, held b⟩ others
        (¬ take → ∃ t, exec (.slsub f) s = .next t ∧ t.me.c.pend = s.me.c.pend ++ written s f.sd 0 false 1
            ∧ (t.die d).units = (s.die d).units ∧ Issued s t ∧ Onward s t s.me.c)
        ∧ (take → ∃ t, exec (.slsub f) s = .next t ∧ t.me.c.pend = s.me.c.pend ++ written s f.sd 1 false 1
            ∧ (t.die d).units.toList.getD u [] = q ++
                [⟨b, s.here.rank, BitVec.ofNat 512 (ofBytes (locs.map (s'.ownByte s.cur.at_)))⟩]
            ∧ Issued s t ∧ Onward s t s.me.c))
    ∧ (∀ locs s', SlServed s f 8 locs s' →
        let w := BitVec.ofNat 64 (ofBytes (locs.map (s'.ownByte s.cur.at_)))
        let wait := w.getLsbD 63 = false ∧ f.q.getLsbD 0 = false ∧ s.slPend b ≠ 0
        (wait → exec (.slget f) s = .next (s'.stallWord s.cur.at_ s.cur.strm 0 0))
        ∧ (¬ wait → ∃ t, exec (.slget f) s = .next t ∧ AccessFrame s t
            ∧ t.me.loads = s.me.loads ++ [⟨.word, [(regNo s f.sd, w)], false, none, false, false, []⟩]))
    ∧ (64 ≤ x.toNat → Raises (.slcfgDrain f) s 0x03 0 ∧ Raises (.slcfgFlush f) s 0x03 0)
    ∧ (x.toNat < 64 →
        (unitCmds s b x = 0 → CWord (.slcfgDrain f) s s.me)
        ∧ (unitCmds s b x ≠ 0 → Stalls (.slcfgDrain f) s 0 0)
        ∧ ∃ t, exec (.slcfgFlush f) s = .next t ∧ Issued s t ∧ Onward s t s.me.c
            ∧ t.me.c.pend = s.me.c.pend ++ written s f.sd (BitVec.ofNat 64 (unitCmds s b x)) false 1
            ∧ ∀ v, v < 6 → (t.die d).units.toList.getD v [] =
                ((s.die d).units.toList.getD v []).filter fun c => c.box != b || !x.getLsbD v)

/-- R129, R131, R134, R95: a read takes the oldest unconsumed transient of its register before its queue, raises BYPASS_LOST
or VQ_UNDERFLOW where there is neither, and pops or consumes unless it peeks. A V word stalls until what it reads is ready, and
raises the first cause that its reads meet. -/
def Sys2Proof.Spec.VectorReads : Prop :=
  (∀ (v : VState) (r : Reg) (pk : Bool),
    let live := fun i => ∃ b, vget none v.byp i = some b ∧ b.t = true ∧ b.used = false ∧ b.reg = r
    (∀ i b, i < 3 → live i → (∀ j, i < j → j < 3 → ¬ live j) → vget none v.byp i = some b →
      readOne v r pk = .ok (b.entry, if pk then v else { v with byp := vput v.byp i (some { b with used := true }) }))
    ∧ ((∀ i, i < 3 → ¬ live i) →
        (v.lost.getLsbD r.toNat = true → readOne v r pk = .error (0x23, r.setWidth 64))
        ∧ (v.lost.getLsbD r.toNat = false → vget [] v.q r.toNat = [] → readOne v r pk = .error (0x21, r.setWidth 64))
        ∧ ∀ e l, v.lost.getLsbD r.toNat = false → vget [] v.q r.toNat = e :: l →
            readOne v r pk = .ok (e, if pk then v else { v with q := vput v.q r.toNat l })))
  ∧ ∀ (s : State) (i : Instr) (src : List Src) (ms : List Nat),
      ((∃ f n lat g, laneOp i = some (f, n, lat, g) ∧ src = vrSrc f n ∧ ms = maskOfWord f.m f.me)
        ∨ ∃ f lat g, immOp i = some (f, true, lat, g) ∧ src = [⟨f.va, f.pka, tagOf f.fmt⟩] ∧ ms = maskOfWord f.m f.me) →
      (¬ VReady s src ms [] → Stalls i s 0 0)
      ∧ (VReady s src ms [] → ∀ c x, readAll s.me.vec src = .error (c, x) → Raises i s c x)

/-- R128, R136, R139, R140, R141, R76 to R81, R134: an elementwise or immediate word applies its row's operation to each
enabled element, keeps the element of va where it is disabled (0 for VSPLAT), sets the flags of the enabled elements only, and
delivers the entry after its latency. -/
def Sys2Proof.Spec.VectorElementwise : Prop :=
  ∀ (s : State) (i : Instr), AtIssue s .v →
    (∀ f n lat g es v, laneOp i = some (f, n, lat, g) → f.fmt.toNat < 13 →
      (i ∈ [Instr.vsll f, .vsrl f, .vsra f, .vfsl f, .vfsr f, .vmulh f, .vavg f, .vclz f, .vpopc f] → fmtI f.fmt = true) →
      VReady s (vrSrc f n) (maskOfWord f.m f.me) [] → readAll s.me.vec (vrSrc f n) = .ok (es, v) →
      let y := fun j => g (s.drawOf .v j) (el f.fmt es 0 j) (el f.fmt es 1 j) (el f.fmt es 2 j)
      let en := enabled v f.fmt f.m f.me
      Delivers i s v f.vd f.fmt f.tr lat f.rnd (fun j => if en j then (y j).1 else el f.fmt es 0 j)
        (flagsOf (elemCount f.fmt) en y))
    ∧ (∀ f reads lat g es v, immOp i = some (f, reads, lat, g) → f.fmt.toNat < 13 →
      (i ∈ [Instr.vslli f, .vsrli f, .vsrai f, .vfsli f, .vfsri f] → fmtI f.fmt = true) →
      let src : List Src := if reads then [⟨f.va, f.pka, tagOf f.fmt⟩] else []
      VReady s src (maskOfWord f.m f.me) [] → readAll s.me.vec src = .ok (es, v) →
      let y := fun j => g (s.drawOf .v j) (el f.fmt es 0 j) 0 0
      let en := enabled v f.fmt f.m f.me
      Delivers i s v f.vd f.fmt f.tr lat f.rnd (fun j => if en j then (y j).1 else if reads then el f.fmt es 0 j else 0)
        (flagsOf (elemCount f.fmt) en y))

/-- R139, R143: VSEL takes a where enabled and b where not; VMOV passes the entry on, under .b with its own tag; VPACK and VUNPK
join the lower or the upper halves of their sources. -/
def Sys2Proof.Spec.VectorMoves : Prop :=
  ∀ (s : State) (f : FVR) (es : List Entry) (v : VState), AtIssue s .v → f.fmt.toNat < 13 →
    (VReady s (vrSrc f 2) (maskOfWord f.m f.me) [] → readAll s.me.vec (vrSrc f 2) = .ok (es, v) →
      Delivers (.vsel f) s v f.vd f.fmt f.tr 2 0 (fun j => el f.fmt es (if enabled v f.fmt f.m f.me j then 0 else 1) j) 0)
    ∧ (∀ e, VReady s (vrSrc f 1) (maskOfWord f.m f.me) [] → readAll s.me.vec (vrSrc f 1) = .ok ([e], v) →
        let tag := if f.fmt = 0 then e.tag else f.fmt
        Delivers (.vmov f) s v f.vd tag f.tr 2 0 (fun j => elemOf tag e.data j) 0)
    ∧ (VReady s (vrSrc f 2) [] [] → readAll s.me.vec (vrSrc f 2) = .ok (es, v) →
        let half := fun (n : Nat) (j : Nat) =>
          let h := elemCount f.fmt / 2
          if j < h then el f.fmt es 0 (n * h + j) else el f.fmt es 1 (n * h + (j - h))
        Delivers (.vpack f) s v f.vd f.fmt f.tr 3 0 (half 0) 0 ∧ Delivers (.vunpk f) s v f.vd f.fmt f.tr 3 0 (half 1) 0)

/-- R76, R81, R95, R128, R129, R131, R134, R136, R139, R140, R141, R143: `VectorReads`, `VectorElementwise` and `VectorMoves`
hold. -/
def Obligations.VectorRegisterWords : Prop :=
  Sys2Proof.Spec.VectorReads ∧ Sys2Proof.Spec.VectorElementwise ∧ Sys2Proof.Spec.VectorMoves

/-- R142, R144: VCVT converts part p of its source into its format, in its place of the entry; an unconvertible tag raises
FMT_MISMATCH and a part out of range RSV_VALUE. A reduction gives in element 0, or in each enabled element of a group, the
rounded exact sum, the greatest or the least of the enabled elements, or the index of the greatest. -/
def Obligations.VectorConvertsAndReduces : Prop :=
  ∀ (s : State) (f : FVR) (v : VState) (e : Entry), AtIssue s .v →
    (∀ src, src = [⟨f.va, f.pka, none⟩] → VReady s src (maskOfWord f.m f.me) [] → readAll s.me.vec src = .ok ([e], v) →
      f.fmt.toNat < 12 → f.fmt ≠ 0 →
      let g := e.tag
      let ns := elemCount g
      let nd := elemCount f.fmt
      let p := f.vc.toNat
      (g = 0 ∨ g = 12 → Raises (.vcvt f) s 0x20 ((f.fmt ++ g).setWidth 64))
      ∧ (g.toNat < 12 → g ≠ 0 →
        (max ns nd ≤ p * min ns nd → Raises (.vcvt f) s 0x03 0)
        ∧ (p * min ns nd < max ns nd →
          let from_ := fun i => if nd ≤ ns then some (p * nd + i) else if p * ns ≤ i ∧ i < p * ns + ns then some (i - p * ns) else none
          let en := fun i => ((from_ i).any fun k => enabled v g f.m f.me k)
          let y := fun i => converted g f.fmt f.rnd f.sat (s.drawOf .v i) (elemOf g e.data ((from_ i).getD 0))
          Delivers (.vcvt f) s v f.vd f.fmt f.tr 3 f.rnd (fun i => if en i then (y i).1 else 0) (flagsOf nd en y))))
    ∧ (VReady s (vrSrc f 1) (maskOfWord f.m f.me) [] → readAll s.me.vec (vrSrc f 1) = .ok ([e], v) → FmtFI f.fmt →
      let n := elemCount f.fmt
      let en := enabled v f.fmt f.m f.me
      let a := fun i => elemOf f.fmt e.data i
      let all := enabledFrom en a 0 n
      let alone := fun r j => if j = 0 then r else 0
      let sum := sumLane f.fmt f.rnd f.sat (s.drawOf .v 0) all
      Delivers (.vrsum f) s v f.vd f.fmt f.tr 6 f.rnd (alone sum.1) sum.2
      ∧ (∃ r, IsExtreme f.fmt true all r ∧ Delivers (.vrmax f) s v f.vd f.fmt f.tr 6 f.rnd (alone r) 0)
      ∧ (∃ r, IsExtreme f.fmt false all r ∧ Delivers (.vrmin f) s v f.vd f.fmt f.tr 6 f.rnd (alone r) 0)
      ∧ (let ok := fun i => i < n ∧ en i = true ∧ decodeNum f.fmt (a i) ≠ .nan
         ∃ r, ((∀ i, ¬ ok i) → r = 2 ^ 32 - 1)
          ∧ ((∃ i, ok i) → ok r ∧ ∀ i, ok i → ¬ belowElem f.fmt false (a r) (a i) ∧ (i < r → belowElem f.fmt false (a i) (a r)))
          ∧ Delivers (.vrarg f) s v f.vd 10 f.tr 6 f.rnd (alone r) 0)
      ∧ ((f.vb = 0 ∨ n < 2 ^ f.vb.toNat) → Raises (.vgmax f) s 0x03 0 ∧ Raises (.vgsum f) s 0x03 0)
      ∧ (f.vb ≠ 0 → 2 ^ f.vb.toNat ≤ n →
          let group := fun i => enabledFrom en a (i / 2 ^ f.vb.toNat * 2 ^ f.vb.toNat) (2 ^ f.vb.toNat)
          let sums := fun i => sumLane f.fmt f.rnd f.sat (s.drawOf .v i) (group i)
          Delivers (.vgsum f) s v f.vd f.fmt f.tr 6 f.rnd (fun i => if en i then (sums i).1 else a i) (flagsOf n en sums)
          ∧ ∃ r : Nat → Nat, (∀ i, i < n → en i = true → IsExtreme f.fmt true (group i) (r i))
              ∧ Delivers (.vgmax f) s v f.vd f.fmt f.tr 6 f.rnd (fun i => if en i then r i else a i) 0))

/-- R145 to R147: a compare writes 1 to the mask bits of each enabled element for which it holds, none for a NaN; VCONF those
of each enabled token that exits; VKSET appends the enabling of its elements to a condition vector and raises KW_RANGE beyond
bit 1,023; VKCLR clears one. -/
def Obligations.VectorMasks : Prop :=
  ∀ (s : State), AtIssue s .v →
    (∀ i f op es v, compareOp i = some (f, op) → f.vd.toNat < 8 → 1 ≤ f.fmt.toNat → f.fmt.toNat ≤ 11 → f.fmt ≠ 6 →
      VReady s (vrSrc f 2) (maskOfWord f.m f.me) [] → readAll s.me.vec (vrSrc f 2) = .ok (es, v) →
      let w := elemBits f.fmt / 8
      WritesMask i s v f.vd.toNat 2 fun j =>
        let a := el f.fmt es 0 (j / w)
        let b := el f.fmt es 1 (j / w)
        enabled v f.fmt f.m f.me (j / w) = true ∧ decodeNum f.fmt a ≠ .nan ∧ decodeNum f.fmt b ≠ .nan ∧ op a b)
    ∧ (∀ (f : FVI) (e : Entry) (v : VState), f.fmt = 1 → f.vd.toNat < 8 →
      VReady s [⟨f.va, f.pka, some 1⟩] (maskOfWord f.m f.me) [] → readAll s.me.vec [⟨f.va, f.pka, some 1⟩] = .ok ([e], v) →
      WritesMask (.vconf f) s v f.vd.toNat 6 fun j =>
        let x := fun i => decodeFloat 1 (elemOf 1 e.data i)
        let d := addNum 0 (x (2 * (j / 8))) (negNum (x (2 * (j / 8) + 1)))
        let theta := decodeFloat 2 f.imm.toNat
        enabled v 1 f.m f.me (2 * (j / 8)) = true ∧ d.1 ≠ .nan ∧ theta ≠ .nan ∧ ltNum false d.1 theta = false)
    ∧ ∀ (f : FVR), f.vd.toNat < 4 →
      let j := f.vd.toNat
      let v := s.me.vec
      let p := (vget 0 v.kwcur j).toNat
      let n := elemCount f.fmt
      EWord (.vkclr f) s .v (withVec s (flying s { v with kw := vput v.kw j 0, kwcur := vput v.kwcur j 0 } 0 0 0 true 2))
      ∧ (VReady s [] (maskOfWord f.m f.me) [] →
          (1024 < p + n → Raises (.vkset f) s 0x26 0)
          ∧ (p + n ≤ 1024 → ∃ k, EWord (.vkset f) s .v (withVec s (flying s
                { v with kw := vput v.kw j k, kwcur := vput v.kwcur j (BitVec.ofNat 11 (p + n)) } 0 0 0 true 2))
              ∧ ∀ b, b < 1024 → k.getLsbD b = if p ≤ b ∧ b < p + n then enabled v f.fmt f.m f.me (b - p)
                else (vget 0 v.kw j).getLsbD b))

/-- R152 to R156: VCPUSH appends the enabled elements, then the disabled ones, to the queues that its route names, and raises
FMT_MISMATCH or CQ_OVERFLOW queue by queue; VCPOP gives its enabled elements the oldest of a queue; VSWCFG sets RTW and VSOFF
and VSWGET reads the switch; VTOPK pushes the k first elements by value, then their indices. -/
def Obligations.VectorQueuesAndTopK : Prop :=
  ∀ (s : State), AtIssue s .v →
    (∀ (f : FVR) (e : Entry) (v : VState), f.vd.toNat < 4 → f.fmt.toNat < 13 → f.fmt ≠ 6 →
      VReady s (vrSrc f 1) (maskOfWord f.m f.me) [0, 1] → readAll s.me.vec (vrSrc f 1) = .ok ([e], v) →
      let en := enabled v f.fmt f.m f.me
      let elements := fun (b : Bool) => ((List.range (elemCount f.fmt)).filter fun i => en i == b).flatMap fun i =>
        toBytes (elemBits f.fmt / 8) (elemOf f.fmt e.data i)
      let r := fun k => v.rtw.getLsbD (4 * f.vd.toNat + k)
      let sent := fun (q : Nat) => (if r 3 = true ∧ r 2 = (q == 1) then elements true else [])
        ++ (if r 1 = true ∧ r 0 = (q == 1) then elements false else [])
      let bad := fun q => sent q ≠ [] ∧ (condQ v q).data ≠ [] ∧ (condQ v q).tag ≠ f.fmt
      let full := fun q => 512 < (condQ v q).data.length + (sent q).length
      (∀ q, q < 2 → (∀ p, p < q → ¬ bad p ∧ ¬ full p) →
        (bad q → Raises (.vcpush f) s 0x20 ((f.fmt ++ (condQ v q).tag).setWidth 64))
        ∧ (¬ bad q → full q → Raises (.vcpush f) s 0x25 (BitVec.ofNat 64 q)))
      ∧ ((∀ q, q < 2 → ¬ bad q ∧ ¬ full q) → ∃ cq rd,
          EWord (.vcpush f) s .v (withVec s (flying s { v with cq := cq, cqReady := rd } 0 0 0 false 3))
          ∧ ∀ q, q < 2 → vget ⟨[], 0, 0⟩ cq q = ⟨(condQ v q).data ++ sent q, (condQ v q).head,
              if sent q = [] then (condQ v q).tag else f.fmt⟩))
    ∧ (∀ (f : FVR), f.va.toNat < 2 → f.fmt.toNat < 13 → f.fmt ≠ 6 →
      let q := f.va.toNat
      VReady s [] (maskOfWord f.m f.me) [q] →
      let v := s.me.vec
      let c := condQ v q
      let en := enabled v f.fmt f.m f.me
      let w := elemBits f.fmt / 8
      let before := fun i => ((List.range i).filter en).length
      let need := before (elemCount f.fmt)
      (need ≠ 0 → c.tag ≠ f.fmt → Raises (.vcpop f) s 0x20 ((f.fmt ++ c.tag).setWidth 64))
      ∧ (need = 0 ∨ c.tag = f.fmt →
        (c.data.length < need * w → Raises (.vcpop f) s 0x24 (BitVec.ofNat 64 q))
        ∧ (need * w ≤ c.data.length →
          let rest := c.data.drop (need * w)
          let v' := { v with
            cq := vput v.cq q ⟨rest, c.head + BitVec.ofNat 9 (need * w), if rest = [] then 0 else c.tag⟩
            cqReady := vput v.cqReady q (max (s.here.beat + 3) (vget 0 v.cqReady q)) }
          Delivers (.vcpop f) s v' f.vd f.fmt f.tr 3 0
            (fun i => if en i then ofBytes ((c.data.drop (w * before i)).take w) else 0) 0)))
    ∧ (∀ (f : FVR) (e : Entry) (v : VState), VReady s [⟨f.va, f.pka, some 10⟩] [] [] →
      readAll s.me.vec [⟨f.va, f.pka, some 10⟩] = .ok ([e], v) →
      let x := fun i => BitVec.ofNat 32 (elemOf 10 e.data i)
      EWord (.vswcfg f) s .v (withVec s (flying s { v with
        rtw := if (x 2).getLsbD 0 then (x 0).setWidth 16 else v.rtw
        vsoff := if (x 2).getLsbD 1 then (x 1).setWidth 24 else v.vsoff } 0 0 0 false 2)))
    ∧ (∀ (f : FVR), VReady s [] [] [0, 1] →
      let v := s.me.vec
      Delivers (.vswget f) s v f.vd 10 f.tr 2 0 (fun i =>
        [(condQ v 0).data.length, (condQ v 1).data.length, (condQ v 0).tag.toNat, (condQ v 1).tag.toNat, v.rtw.toNat,
          v.vsoff.toNat].getD i 0) 0)
    ∧ ∀ (f : FVI) (e : Entry) (v : VState), FmtFI f.fmt → VReady s [⟨f.va, f.pka, some f.fmt⟩] (maskOfWord f.m f.me) [] →
      readAll s.me.vec [⟨f.va, f.pka, some f.fmt⟩] = .ok ([e], v) →
      let n := elemCount f.fmt
      let a := fun i => elemOf f.fmt e.data i
      let k := (f.imm.extractLsb' 0 7).toNat
      let base := (f.imm.extractLsb' 7 8).toNat
      let full := 4 < (vget [] v.q f.vd.toNat).length + 2
      (full → Raises (.vtopk f) s 0x22 (f.vd.setWidth 64))
      ∧ (¬ full → ∃ (l : List Nat) (x y : BitVec 2048),
          l.Perm ((List.range n).filter fun i => enabled v f.fmt f.m f.me i && decodeNum f.fmt (a i) != .nan)
          ∧ l.Pairwise (fun i j => belowElem f.fmt false (a j) (a i) ∨ (¬ belowElem f.fmt false (a i) (a j) ∧ i < j))
          ∧ (∀ j, j < n → elemOf f.fmt x j = (((l.take k)[j]?).map a).getD (leastOf f.fmt))
          ∧ (∀ j, j < 64 → elemOf 10 y j = (((l.take k)[j]?).map fun i => base * n + i).getD (2 ^ 32 - 1))
          ∧ EWord (.vtopk f) s .v (withVec s (flying s
              (delivered (delivered v f.vd f.fmt x false (s.here.beat + 24)) f.vd 10 y false (s.here.beat + 24))
              0 0 0 false 24)))

/-- R45, R130, R148 to R150, R176, R178, R237: VLD loads the enabled bytes at its tile address, 0 elsewhere, VLDM a mask, as the beat found
them; outside the lease they raise LEASE_RANGE, under .fe and .fc they stall on the first empty granule, on an error of a row
they raise SRAM_UE, .fc clears the granules that no write of the beat sets, and .ht reads empty ones as 0 and reports them in its
mask. Each counts as a load until it lands. A full queue raises VQ_OVERFLOW before any of it. The TVAL of SRAM_UE, rounded down to
64 bytes, is the model's (DEDUCED, notes/assumptions/18.md). -/
def Sys2Proof.Spec.VectorLoads : Prop :=
  ∀ (s : State) (f : FVM), AtIssue s .v → Room s 1 0 0 →
    let v := s.me.vec
    let ea := eaOf s f.gidx f.step
    let lanes := if f.fq = 3 then List.range 256 else lanesOf v f
    let run := List.range 32
    let loc := fun (j : Nat) => tileLoc s (ea + j)
    let empty := fun (j : Nat) => s.emptyAt (loc j)
    let spoilt := fun (i : Instr) (l : List Nat) => ∀ j, l.find? (fun j => ueAt s (loc j)) = some j →
      Raises i s 0xD0 (BitVec.ofNat 64 ((ea + j) % 2 ^ 24 / 64 * 64))
    let waits := fun (i : Instr) (l : List Nat) => ∀ a, l.find? empty = some a →
      exec i s = .next (s.stallWord s.cur.at_ .v 0x06 (BitVec.ofNat 64 ((ea + a) % 2 ^ 24 / 16 * 16)))
    let cleared := fun (t : State) (l : List Nat) => ∀ j u off, j ∈ l → placeOf (loc j) = .window u off →
      (∀ b, (s.tile u).start = some b → off / 16 ∉ b.sets) → t.isFull u (off / 16) = false
    let granules := fun (t : State) (l : List Nat) =>
      (∀ a, t.mem.read a = s.mem.read a) ∧ (f.fq = 2 → cleared t l) ∧ (f.fq ≠ 2 → t.here.full = s.here.full)
    ((f.fq ≠ 3 → VReady s [] (maskOfWord f.m f.me) []) → 4 ≤ (vget [] v.q f.v.toNat).length →
      Raises (.vld f) s 0x22 (f.v.setWidth 64))
    ∧ ((f.fq ≠ 3 → VReady s [] (maskOfWord f.m f.me) []) → (vget [] v.q f.v.toNat).length < 4 →
      (∀ j, lanes.find? (fun j => decide ¬ inLease s (ea + j)) = some j →
        Raises (.vld f) s 0x50 (BitVec.ofNat 64 ((ea + j) % 2 ^ 24)))
      ∧ ((∀ j, j ∈ lanes → inLease s (ea + j)) →
          (f.fq = 1 ∨ f.fq = 2 → waits (.vld f) lanes)
          ∧ ((f.fq = 1 ∨ f.fq = 2 → ∀ j, j ∈ lanes → empty j = false) → spoilt (.vld f) lanes)
          ∧ ((f.fq = 1 ∨ f.fq = 2 → ∀ j, j ∈ lanes → empty j = false) → Clean s (lanes.map loc) →
              ∃ t data k, exec (.vld f) s = .next t
                ∧ (let v1 := if f.fq = 3 then { v with
                      m := vput v.m f.m.toNat k
                      mReady := vput v.mReady f.m.toNat (max (s.here.beat + 6) (vget 0 v.mReady f.m.toNat)) } else v
                   EPass s t .v (vMem s (flying s (delivered v1 f.v f.fmt data false (s.here.beat + 6)) 0 1 0 false 6) 1 0))
                ∧ (∀ j, j < 256 → (f.fq = 3 → k.getLsbD j = empty j)
                    ∧ (data.extractLsb' (8 * j) 8 : Byte) =
                        if j ∈ lanes ∧ (f.fq = 3 → empty j = false) then s.seen (loc j) else 0)
                ∧ granules t lanes)))
    ∧ (f.v.toNat < 8 → f.fq ≠ 3 →
      (∀ j, run.find? (fun j => decide ¬ inLease s (ea + j)) = some j →
        Raises (.vldm f) s 0x50 (BitVec.ofNat 64 ((ea + j) % 2 ^ 24)))
      ∧ ((∀ j, j < 32 → inLease s (ea + j)) →
          (f.fq ≠ 0 → waits (.vldm f) run)
          ∧ ((f.fq ≠ 0 → ∀ j, j < 32 → empty j = false) → spoilt (.vldm f) run)
          ∧ ((f.fq ≠ 0 → ∀ j, j < 32 → empty j = false) → Clean s (run.map loc) →
              ∃ t k, exec (.vldm f) s = .next t
                ∧ EPass s t .v (vMem s (flying s { v with
                    m := vput v.m f.v.toNat k
                    mReady := vput v.mReady f.v.toNat (max (s.here.beat + 6) (vget 0 v.mReady f.v.toNat)) } 0 1 0 false 6) 1 0)
                ∧ (∀ j, j < 256 → k.getLsbD j = (s.seen (loc (j / 8))).getLsbD (j % 8))
                ∧ granules t run)))

/-- R150, R151, R177, R178, R237: VST writes the enabled bytes of its entry at its tile address, VSTU at that address moved by VSOFF,
which goes past the highest enabled byte, VSTM a mask; the granules written become full unless it is .nf. A byte that a write of
the same beat has taken which comes after the streams' own keeps that write's value. Outside the lease they raise LEASE_RANGE.
Every other byte reads as before. -/
def Sys2Proof.Spec.VectorStores : Prop :=
  ∀ (s : State) (f : FVM), s.inv → AtIssue s .v → Room s 0 1 0 →
    let ea := eaOf s f.gidx f.step
    let stored := fun (t : State) (l : List (Nat × Byte)) =>
      (∀ a, t.mem.read a = afterWrites s.mem (standing s l) a) ∧ (f.fq ≠ 1 → Filled t (l.map Prod.fst))
        ∧ (f.fq = 1 → t.here.full = s.here.full)
    (∀ e v i base, VReady s [⟨f.v, f.pk, tagOf f.fmt⟩] (maskOfWord f.m f.me) [] →
      readAll s.me.vec [⟨f.v, f.pk, tagOf f.fmt⟩] = .ok ([e], v) →
      (i = .vst f ∧ base = ea ∨ i = .vstu f ∧ base = ea + s.me.vec.vsoff.toNat) →
      let lanes := lanesOf v f
      let moved := BitVec.ofNat 24 ((lanes.getLast?.map (· + 1)).getD 0)
      (∀ j, lanes.find? (fun j => decide ¬ inLease s (base + j)) = some j →
        Raises i s 0x50 (BitVec.ofNat 64 ((base + j) % 2 ^ 24)))
      ∧ ((∀ j, j ∈ lanes → inLease s (base + j)) → ∃ t, exec i s = .next t
          ∧ stored t (lanes.map fun j => (tileLoc s (base + j), e.data.extractLsb' (8 * j) 8))
          ∧ EPass s t .v (vMem s (flying s (if i = .vstu f then { v with vsoff := v.vsoff + moved } else v)
              0 0 1 false 0) 0 1)))
    ∧ (f.v.toNat < 8 → VReady s [] [f.v.toNat] [] →
      (∀ j, (List.range 32).find? (fun j => decide ¬ inLease s (ea + j)) = some j →
        Raises (.vstm f) s 0x50 (BitVec.ofNat 64 ((ea + j) % 2 ^ 24)))
      ∧ ((∀ j, j < 32 → inLease s (ea + j)) → ∃ t, exec (.vstm f) s = .next t
          ∧ stored t ((List.range 32).map fun j =>
              (tileLoc s (ea + j), (vget 0 s.me.vec.m f.v.toNat).extractLsb' (8 * j) 8))
          ∧ EPass s t .v (vMem s (flying s s.me.vec 0 0 1 false 0) 0 1)))

/-- R45, R130, R148, R149, R150, R151, R176, R177, R178, R237: `VectorLoads` and `VectorStores` hold. -/
def Obligations.VectorMemoryWords : Prop :=
  Sys2Proof.Spec.VectorLoads ∧ Sys2Proof.Spec.VectorStores

/-- R193, R194, R197, R191: XLNT writes one field of the active record, XSCALE and XSPAR its configurations; XCLAIM claims a free
slot and XREL frees a claimed one, SLOT_STATE otherwise; XZERO clears a buffer and gives it its tag. XREL and XZERO stall on a
slot or buffer that a running XGO uses. -/
def Obligations.MatrixRecordsAndSlots : Prop :=
  ∀ (s : State), AtIssue s .x →
    let m := s.me.mat
    let r := m.active
    (∀ f, f.lvl.toNat < 6 →
      (f.sel.toNat < 6 → ∃ l, levelFields l = (levelFields (vget ⟨0, 0, 0, 0, 0, 0⟩ r.levels f.lvl.toNat)).set f.sel.toNat f.val
        ∧ EWord (.xlnt f) s .x (xOut s { m with active := { r with levels := vput r.levels f.lvl.toNat l } } 0 false))
      ∧ (f.sel = 6 → EWord (.xlnt f) s .x (xOut s { m with active := { r with org := vput r.org f.lvl.toNat f.val } } 0 false)))
    ∧ (∀ f : FXC,
        EWord (.xscale f) s .x (xOut s { m with active := { r with scl := f.scl, sclA := f.oa, sclB := f.ob } } 0 false)
        ∧ EWord (.xspar f) s .x (xOut s { m with active := { r with spa := f.spa, spaM := f.ob } } 0 false))
    ∧ ∀ f : FXS,
      let x := slotOf m f.o.toNat
      (x.cl = true → Raises (.xclaim f) s 0x60 0)
      ∧ (x.cl = false → EWord (.xclaim f) s .x
          (xOut s { m with slot := vput m.slot f.o.toNat ⟨true, 0, 0, 0, false, []⟩ } 0 false))
      ∧ (x.busy = true → Stalls (.xrel f) s 0 0)
      ∧ (x.busy = false → x.cl = false → Raises (.xrel f) s 0x60 0)
      ∧ (x.busy = false → x.cl = true → EWord (.xrel f) s .x
          (xOut s { m with slot := vput m.slot f.o.toNat ⟨false, 0, 0, 0, false, []⟩ } 0 false))
      ∧ ((accOf m f.a.toNat).busy = true → Stalls (.xzero f) s 0 0)
      ∧ ((accOf m f.a.toNat).busy = false → Room s 0 0 1 → EWord (.xzero f) s .x
          (xOut s (xFly s { m with acc := vput m.acc f.a.toNat ⟨true, f.fmt, false, []⟩ } 0) 1 false))

/-- R197 to R201, R191, R176, R178, R237: XFILL, XSCLD and XMETA copy 8,192 bytes into a quarter of a claimed slot of their role
and tag; XDRAIN and XCVT write a column group of a buffer of their tags, XSTAT the descriptors, and set the granules full. Each
counts as a tile operation. Their other outcomes are a stall on BUSY, SLOT_STATE, FMT_MISMATCH, LEASE_RANGE, for the first three
a stall on the first empty granule, and, but for XSTAT, SRAM_UE, in that order: that FMT_MISMATCH comes before LEASE_RANGE is
the model's for XDRAIN and XCVT (DESIGN CHOICE, notes/assumptions/74.md). The TVAL of a FMT_MISMATCH names the tags as
notes/assumptions/26.md chooses (DEDUCED), and that of SRAM_UE is rounded down to 64 bytes as notes/assumptions/18.md says
(DEDUCED). A byte that a write of the same beat has taken which comes after the streams' own keeps that write's value. -/
def Obligations.MatrixMemoryWords : Prop :=
  ∀ (s : State), s.inv → AtIssue s .x → Room s 0 0 1 →
    let m := s.me.mat
    let loc := fun (ea j : Nat) => tileLoc s (ea + j)
    let leased := fun (ea n : Nat) => ∀ j, j < n → inLease s (ea + j)
    let stored := fun (t : State) (ea : Nat) (b : List Byte) =>
      let l := ((List.range b.length).map (loc ea)).zip b
      (∀ a, t.mem.read a = afterWrites s.mem (standing s l) a) ∧ Filled t (l.map Prod.fst)
    let beyond := fun (i : Instr) (ea n : Nat) => ∀ j, (List.range n).find? (fun j => decide ¬ inLease s (ea + j)) = some j →
      Raises i s 0x50 (BitVec.ofNat 64 ((ea + j) % 2 ^ 24))
    let spoilt := fun (i : Instr) (ea n : Nat) => ∀ j, (List.range n).find? (fun j => ueAt s (loc ea j)) = some j →
      Raises i s 0xD0 (BitVec.ofNat 64 ((ea + j) % 2 ^ 24 / 64 * 64))
    (∀ i f role, fillOp i = some (f, role) →
      let x := slotOf m f.o.toNat
      let ea := eaOf s f.gidx f.step
      let empty := fun (j : Nat) => s.emptyAt (loc ea j)
      let misfit := x.role ≠ 0 ∧ (x.role ≠ role ∨ x.tag ≠ f.fmt)
      (x.busy = true → Stalls i s 0 0)
      ∧ (x.busy = false → x.cl = false → Raises i s 0x60 0)
      ∧ (x.busy = false → x.cl = true → misfit → Raises i s 0x20 ((f.fmt ++ x.tag).setWidth 64))
      ∧ (x.busy = false → x.cl = true → ¬ misfit →
          beyond i ea 8192
          ∧ (leased ea 8192 → ∀ j, (List.range 8192).find? empty = some j →
              Stalls i s 0x06 (BitVec.ofNat 64 ((ea + j) % 2 ^ 24 / 16 * 16)))
          ∧ (leased ea 8192 → (∀ j, j < 8192 → empty j = false) → spoilt i ea 8192
            ∧ (Clean s ((List.range 8192).map (loc ea)) → ∃ t d, exec i s = .next t
                ∧ EPass s t .x (xOut s (xFly s { m with slot := (vput m.slot f.o.toNat
                    ⟨true, role, f.fmt, x.fq ||| (1 <<< f.a.toNat), false, d⟩) } 0) 1 false)
                ∧ (∀ k, d.read k = if 8192 * f.a.toNat ≤ k ∧ k < 8192 * f.a.toNat + 8192 then
                    s.seen (loc ea (k - 8192 * f.a.toNat)) else x.data.read k)
                ∧ ∀ a, t.mem.read a = s.mem.read a))))
    ∧ (∀ i f tags need g, drainOp s i = some (f, tags, need, g) →
      let x := accOf m f.a.toNat
      let ea := eaOf s f.gidx f.step
      let w := elemBits f.fmt
      let y := fun (k : Nat) => g x.tag k (cell x f.o.toNat (k / 32) (k % 32))
      (x.busy = true → Stalls i s 0 0)
      ∧ (x.busy = false → ¬ tags x.tag → Raises i s 0x20 ((need ++ x.tag).setWidth 64))
      ∧ (x.busy = false → tags x.tag → beyond i ea (512 * w)
          ∧ (leased ea (512 * w) → spoilt i ea (512 * w)
            ∧ (Clean s ((List.range (512 * w)).map (loc ea)) →
              ∃ t b, exec i s = .next t ∧ b.length = 512 * w ∧ stored t ea b
                ∧ (∀ k, k < 4096 →
                    nbits (ofBytes ((b.drop (4 * w * (k / 32))).take (4 * w))) (w * (k % 32)) w = (y k).1 % 2 ^ w)
                ∧ EPass s t .x (xOut s (xFly s m (flagsOf 4096 (fun _ => true) y)) 1 (f.rnd == 4))))))
    ∧ ∀ f : FXS,
      let ea := eaOf s f.gidx f.step
      beyond (.xstat f) ea 64
      ∧ (leased ea 64 → ∃ t, exec (.xstat f) s = .next t ∧ stored t ea (xStatBytes m)
          ∧ EPass s t .x (xOut s (xFly s m 0) 1 false))

/-- R184, R195, R196: XGO stalls while another runs, and raises XCOMBO, X_CONFIG, NEST_RANGE, SLOT_STATE or FMT_MISMATCH in that
order; NEST_RANGE wherever a step of the nest leaves a range. Otherwise the shadow takes the active record, the buffer its tag,
and the nest counts as a tile operation until its last step. (Which tags the TVAL of FMT_MISMATCH names is the model's reading,
DEDUCED, notes/assumptions/26.md.) -/
def Sys2Proof.Spec.MatrixNestStarts : Prop :=
  ∀ (s : State) (f : FXC), AtIssue s .x →
    let m := s.me.mat
    let r := m.active
    let bad := f.scl ≠ r.scl ∨ f.spa ≠ r.spa
    let rs := r.reads f
    let x := accOf m f.a.toNat
    let tag : BitVec 4 := if fmtI f.fa then 10 else 1
    (m.shadow.run = true → Stalls (.xgo f) s 0 0)
    ∧ (m.shadow.run = false →
        (comboOk f = false → Raises (.xgo f) s 0x61 0)
        ∧ (comboOk f = true → bad → Raises (.xgo f) s 0x62 0)
        ∧ (comboOk f = true → ¬ bad → 2 ^ 40 < nestSteps r ∨ (∃ idx, Tuple r idx ∧ ¬ StepInRange r f idx) →
            Raises (.xgo f) s 0x63 0)
        ∧ (comboOk f = true → ¬ bad → nestSteps r ≤ 2 ^ 40 → (∀ n, n < 6 → (vget ⟨0, 0, 0, 0, 0, 0⟩ r.levels n).cnt ≠ 0) →
            (∀ idx, Tuple r idx → StepInRange r f idx) →
            (rs.any m.unready = true → Raises (.xgo f) s 0x60 0)
            ∧ (rs.any m.unready = false →
                (∀ v, rs.findSome? m.misfit = some v → Raises (.xgo f) s 0x20 v)
                ∧ (rs.findSome? m.misfit = none →
                    (x.tag ≠ 0 → x.tag ≠ tag → Raises (.xgo f) s 0x20 ((tag ++ x.tag).setWidth 64))
                    ∧ (x.tag = 0 ∨ x.tag = tag → Room s 0 0 1 → ∃ slots : Vector Slot 16,
                        EWord (.xgo f) s .x (xOut s { m with
                          shadow := { r with xgow := s.cur.word, idx := Vector.replicate 6 0, run := true }
                          acc := vput m.acc f.a.toNat { x with tag := tag, wr := true, busy := true }
                          slot := slots, steps := 0 } 1 false)
                        ∧ ∀ o, o < 16 → vget ⟨false, 0, 0, 0, false, []⟩ slots o =
                            { slotOf m o with busy :=
                                (slotOf m o).busy || (rs.any fun y => y.quarters.any fun q => q / 4 == o) })))))

/-- R188, R192, R92: a step of the running XGO gives each element of its rows and columns its new value, and leaves the others;
for dense integer operands that value is the exact total modulo 2^32. The nest goes on to the next index tuple in nest order;
after the last it has run: RUN and BUSY clear and the tile operation ends. -/
def Sys2Proof.Spec.MatrixStepAccumulates : Prop :=
  ∀ (s : State) (f : FXC), s.cur.at_ < 160 → s.me.mat.running = some f →
    let m := s.me.mat
    let r := m.shadow
    let x := accOf m f.a.toNat
    let n := 64 * 2 ^ f.shape.toNat
    let c := (pointer r 0 2 (·.dc) r.idx).toNat
    let old := fun (i j : Nat) => (sparseRun 0 x.data (512 * i + c) n).getD j 0
    let y := fun (i j : Nat) => m.element f i j (m.rowA f i) (m.rowB f j) (old i j)
    let ra := (pointer r (f.oa.toNat * rowsOf f.fa false) 0 (·.da) r.idx).toNat
    let rb := (pointer r (f.ob.toNat * rowsOf f.fb false) 1 (·.db) r.idx).toNat
    Tuple r r.idx → c + n ≤ 512 →
    (fmtI f.fa = true → fmtI f.fb = true → f.spa = 0 → f.scl = 0 → ∀ i j, i < 128 → j < n →
      BitVec.ofNat 32 (y i j).1 = BitVec.ofInt 32 ((old i j).toInt + ((List.range 64).map fun t =>
        intVal f.fa (rowElem m f.fa (ra + i) t) * intVal f.fb (rowElem m f.fb (rb + j) t)).sum))
    ∧ ∃ t d, exec .xgoStep s = .next t ∧ t.last = .event ∧ OnlyTile s.cur.at_ s t
      ∧ (∀ k, sget 0 d k = if k < 65536 ∧ c ≤ k % 512 ∧ k % 512 < c + n then BitVec.ofNat 32 (y (k / 512) (k % 512 - c)).1
          else sget 0 x.data k)
      ∧ t.me.mat.steps = m.steps + 1
      ∧ (∃ fl, t.me.sflags = s.me.sflags ||| fl)
      ∧ (nestOrder r r.idx + 1 < nestSteps r → Tuple r t.me.mat.shadow.idx
          ∧ nestOrder r t.me.mat.shadow.idx = nestOrder r r.idx + 1 ∧ t.me.mat.shadow = { r with idx := t.me.mat.shadow.idx }
          ∧ t.me.mat.acc = vput m.acc f.a.toNat { x with data := d } ∧ t.me.mat.slot = m.slot ∧ t.me.oc = s.me.oc)
      ∧ (nestOrder r r.idx + 1 = nestSteps r → t.me.mat.shadow.run = false
          ∧ t.me.mat.acc = vput m.acc f.a.toNat { x with data := d, busy := false }
          ∧ (∀ o, o < 16 → (slotOf t.me.mat o).busy = false) ∧ t.me.oc.oct = s.me.oc.oct - 1)

/-- R89, R90, R91, R181, R185, R187, R188: a step's new value of an element of float operands. The exact sum of the block's products,
each operand under fine scales times the scale of its group of 16, is rounded to FP32; under coarse scales that is multiplied by
the rounded product of the two scales and rounded; it is added to the element and rounded. Of a sparse row the 32 stored elements
count, each at the place that its metadata gives, and none of a row that is marked zero. A NaN among the products' operands gives
a NaN. (Here where every operand, scale and rounded value is finite, or an operand of A is a NaN. That a pruned product takes no
part in the sum's sign is the model's choice, notes/assumptions/65.md.) -/
def Sys2Proof.Spec.MatrixFloatElements : Prop :=
  ∀ (s : State) (f : FXC) (i j : Nat) (old : BitVec 32), s.me.mat.running = some f → fmtI f.fa = false → fmtI f.fb = false → i < 128 →
    let m := s.me.mat
    let r := m.shadow
    let sparse := decide (f.spa ≠ 0)
    let count := if sparse then 32 else 64
    let ra := (pointer r (f.oa.toNat * rowsOf f.fa false) 0 (·.da) r.idx).toNat
    let rb := (pointer r (f.ob.toNat * rowsOf f.fb sparse) 1 (·.db) r.idx).toNat
    let p := (pointer r 0 3 (·.dsa) r.idx).toNat
    let q := (pointer r 0 4 (·.dsb) r.idx).toNat
    let bytesB := (if sparse then 4 else 8) * elemBits f.fb
    let elemB := fun (e : Nat) => nbits (ofBytes (m.slotBytes ((rb + j) * bytesB) bytesB)) (elemBits f.fb * e) (elemBits f.fb)
    let pos := ofBytes (m.slotBytes (32768 * r.spaM.toNat + 8 * (rb + j - f.ob.toNat * rowsOf f.fb sparse)) 8)
    let place := fun (e : Nat) => if sparse then 4 * (e / 2) + pos / 4 ^ e % 4 else e
    let none_ := f.spa = 2 ∧ pos = 2 ^ 64 - 1
    let fine := fun (slot row t : Nat) =>
      if f.scl = 2 then numVal (decodeFloat 7 (ofBytes (m.slotBytes (32768 * slot + 4 * row + t / 16) 1))) else some 1
    let entry := fun (slot e : Nat) => numVal (decodeFloat 1 (ofBytes (m.slotBytes (32768 * slot + 4 * e) 4)))
    let fp32 := fun (v : Rat) (y : Nat) => ∃ w : Machine.Num, numVal w = some v ∧ y = (encodeFloat 1 0 false 0 w).1
    let y := (m.element f i j (m.rowA f i) (m.rowB f j) old).1
    (∀ (a b ka kb : Nat → Rat),
      (∀ t, t < 64 → numVal (decodeFloat f.fa (rowElem m f.fa (ra + i) t)) = some (a t) ∧ fine r.sclA.toNat (p * 128 + i) t = some (ka t)
        ∧ fine r.sclB.toNat (q + j) t = some (kb t)) →
      (∀ e, e < count → numVal (decodeFloat f.fb (elemB e)) = some (b e)) →
      let total : Rat := if none_ then 0 else
        ((List.range count).map fun e => a (place e) * ka (place e) * (b e * kb (place e))).sum
      ∃ p0, fp32 total p0 ∧ ∀ v0 c, numVal (decodeFloat 1 p0) = some v0 → numVal (decodeFloat 1 old.toNat) = some c →
        (f.scl ≠ 1 → fp32 (c + v0) y)
        ∧ (f.scl = 1 → ∀ sx sw, entry r.sclA.toNat (p * 128 + i) = some sx → entry r.sclB.toNat (q + j / 128) = some sw →
            ∃ k, fp32 (sx * sw) k ∧ ∀ vk, numVal (decodeFloat 1 k) = some vk →
              ∃ p1, fp32 (v0 * vk) p1 ∧ ∀ v1, numVal (decodeFloat 1 p1) = some v1 → fp32 (c + v1) y))
    ∧ (¬ none_ → ∀ e, e < count → decodeFloat f.fa (rowElem m f.fa (ra + i) (place e)) = .nan → y = 0x7FC00000)

/-- R89, R90, R91, R92, R184, R185, R187, R188, R192, R195, R196: `MatrixNestStarts`, `MatrixStepAccumulates` and
`MatrixFloatElements` hold. -/
def Obligations.MatrixNests : Prop :=
  Sys2Proof.Spec.MatrixNestStarts ∧ Sys2Proof.Spec.MatrixStepAccumulates ∧ Sys2Proof.Spec.MatrixFloatElements

/-- R83 to R87, R158 to R171: a word of the sum-product engine on registers reads every source before it writes, and each lane of
its result is formed from the exact value that its rule gives; the result may be read B + 5 beats on, and the engine is busy for
B beats. A run beyond index 255 raises BANK_RANGE; a register not yet readable stalls the word. For a logarithm of a value that
is no power of two the statement says only where it goes. That the logarithm of a power of two with a negative exponent is
rounded by its sign under rnd 2 and 3 is the model's (DESIGN CHOICE, notes/assumptions/68.md). -/
def Sys2Proof.Spec.SumProductRegisters : Prop :=
  (∀ (p : SState) (b i n k : Nat), Rising p.word → Rising p.g → k < 32 * n →
    (p.run b i n)[k]? = some ⟨sget 0 p.word (32 * (256 * b + i) + k), sget 0 p.g (32 * (256 * b + i) + k)⟩)
  ∧ ∀ (s : State) (i : Instr) (op : SumOp), AtIssue s .s → sumOp s i = some op →
    let all := op.dst :: op.reads
    ((∃ r, r ∈ all ∧ ¬ inBank255 r) → Raises i s 0x2A 0)
    ∧ ((∀ r, r ∈ all → inBank255 r) → ¬ SumReady s op.reads → Stalls i s 0 0)
    ∧ ((∀ r, r ∈ all → inBank255 r) → SumReady s op.reads → Room s 0 0 1 →
        ∃ (t : State) (l : List (Lane32 × Flags)) (p : SState), exec i s = .next t ∧ OnlyTile s.cur.at_ s t ∧ l.length = 32 * op.dst.n
          ∧ (∀ k y, l[k]? = some y → op.out k y)
          ∧ putLanes s.me.spe op.dst (l.map Prod.fst) (s.here.beat + beatsOf op.reads [op.dst] + 5) p
          ∧ SWord s t s p (beatsOf op.reads [op.dst]) op.rnd ((l.map Prod.snd).foldl (· ||| ·) 0))

/-- R159, R168, R177, R178, R237: SLD and SLDW load a run of registers from the tile address as the beat found it, with their
exponents or with 0, SST and SSTG store one; the granules stored to become full. A byte that a write of
the same beat has taken which comes after the streams' own keeps that write's value. Each is busy for a beat a register. -/
def Sys2Proof.Spec.SumProductMemory : Prop :=
  ∀ (s : State) (f : FSM), s.inv → AtIssue s .s → Room s 0 0 1 →
    let ea := eaOf s f.gidx f.step
    let n := f.n.toNat + 1
    let r : Run := ⟨f.b.toNat, f.i.toNat, n⟩
    (¬ inBank255 r → ∀ i, i ∈ [Instr.sld f, .sldw f, .sst f, .sstg f] → Raises i s 0x2A 0)
    ∧ (∀ i w, (i, w) ∈ [(Instr.sld f, 192), (.sldw f, 128), (.sst f, 192), (.sstg f, 128)] → inBank255 r → SumReady s [r] →
        ∀ j, (List.range (w * n)).find? (fun j => decide ¬ inLease s (ea + j)) = some j →
          Raises i s 0x50 (BitVec.ofNat 64 ((ea + j) % 2 ^ 24)))
    ∧ (∀ i w, (i, w) ∈ [(Instr.sld f, 192), (.sldw f, 128)] → inBank255 r → Reachable s ea (w * n) →
        ∃ (t : State) (l : List Lane32) (p : SState), exec i s = .next t ∧ l.length = 32 * n
          ∧ (∀ k x, l[k]? = some x →
              let byte := fun j => s.seen (tileLoc s (ea + w * (k / 32) + j))
              x.w = (byte (4 * (k % 32) + 3) ++ byte (4 * (k % 32) + 2) ++ byte (4 * (k % 32) + 1) ++ byte (4 * (k % 32)) : BitVec 32)
              ∧ x.g = if w = 192 then (byte (128 + 2 * (k % 32) + 1) ++ byte (128 + 2 * (k % 32)) : BitVec 16) else 0)
          ∧ putLanes s.me.spe r l (s.here.beat + n + 5) p ∧ SWord s t s p n 0 0 ∧ ∀ a, t.mem.read a = s.mem.read a)
    ∧ (∀ i w, (i, w) ∈ [(Instr.sst f, 192), (.sstg f, 128)] → inBank255 r → SumReady s [r] →
        (∀ j, j < w * n → inLease s (ea + j)) →
        ∃ t, exec i s = .next t ∧ SWord s t s s.me.spe n 0 0
          ∧ (∀ a, (∀ j, j < w * n → a ≠ tileLoc s (ea + j)) → t.mem.read a = s.mem.read a)
          ∧ Filled t ((List.range (w * n)).map fun j => tileLoc s (ea + j))
          ∧ (∀ j, j < w * n →
              let x := lane s r (j / w) (if j % w < 128 then j % w / 4 else (j % w - 128) / 2)
              t.mem.read (tileLoc s (ea + j)) =
                (if standing s [(tileLoc s (ea + j), 0)] = [] then s.mem.read (tileLoc s (ea + j))
                 else if j % w < 128 then x.w.extractLsb' (8 * (j % 4)) 8 else x.g.extractLsb' (8 * (j % 2)) 8)))

/-- R83, R87, R158, R159, R168, R171, R177, R178: `SumProductRegisters` and `SumProductMemory` hold. -/
def Obligations.SumProductWords : Prop :=
  Sys2Proof.Spec.SumProductRegisters ∧ Sys2Proof.Spec.SumProductMemory

/-- R100: when two writes to one register become visible at the same beat, the later-issued one wins, and each of the writes that
become visible at different beats lands at its own. Writes not yet visible stay pending; nothing else changes, but that the
checkpoint goes once no poison is live. -/
def Obligations.PendingWritesLand : Prop :=
  ∀ (s : State), s.cur.at_ < 160 →
    ∃ t, exec .pendingWriteLand s = .next t
      ∧ OnlyCtxAt s.cur.at_ s t { s.me with
          c := { s.me.c with s := t.me.c.s, poison := t.me.c.poison, pend := s.me.c.pend.filter fun w => decide (s.here.beat < w.vis) }
          ckpt := if t.me.c.live then s.me.ckpt else none }
      ∧ ∀ r, 0 < r → r < 32 →
        let due := s.me.c.pend.filter fun w => decide (w.vis ≤ s.here.beat) && w.reg == r
        (due = [] → vget 0 t.me.c.s r = vget 0 s.me.c.s r ∧ t.me.c.poison.getLsbD r = s.me.c.poison.getLsbD r)
        ∧ ∀ l w l', due = l ++ w :: l' → (∀ x, x ∈ l → x.vis ≤ w.vis) → (∀ x, x ∈ l' → x.vis < w.vis) →
            vget 0 t.me.c.s r = w.value ∧ t.me.c.poison.getLsbD r = w.psn

/-- R26, R35, R53, R224, R359: a word due on a page that is not resident stalls its stream on FETCH and posts a record of kind 5; a
counted stall longer than the region's wait threshold parks the team with its reason; a discarded fetch of a running stream that
failed, of any word but the next, leaves one RAS record and no cause, and a stream that does not run fetches nothing. -/
def Obligations.StallsOfATile : Prop :=
  ∀ (s : State) (u b : Nat) (e : Strm), s.inv → u < 160 → (s.tile u).box = some b → b < 65536 →
    (∀ page, (s.ctx u).active e = true → s.due u e = true → s.fetch u e ((s.ctx u).pcOf e) = .absent page →
      ∃ t y, exec (.fetchPageAbsent u e) s = .next t ∧ t.last = .stalled ∧ t.mem = s.mem
        ∧ vget none (t.tile u).since e.num = some y ∧ y.seen = (s.tile u).beat ∧ y.reason = 0x03
        ∧ RecordPosted s t b 5 u 0 0 (BitVec.ofNat 64 page) 0 ∧ t.ctx u = s.ctx u)
    ∧ (∀ y, vget none (s.tile u).since e.num = some y → y.reason ≠ 0 → y.seen = (s.tile u).beat →
      (s.effWthr (boxDie b) (s.box b).rcb).toNat < (s.tile u).beat - y.start → s.tileOf b (s.tile u).rank = some u →
      (s.box b).tiles.Nodup → (∀ v, v ∈ (s.box b).tiles → v < 160) →
      ∃ t, exec (.waitThresholdExpiry u e) s = .next t ∧ t.last = .parked ∧ LeftTiles s t b
        ∧ ((t.box b).state = .ready
          ∨ (t.box b).state = .parked ∧ (t.box b).reason = y.reason
            ∧ (t.box b).watch = BitVec.ofNat 64 (s.tile u).rank <<< 60 ||| y.watch))
    ∧ ∃ t, exec (.fetchDiscard u e) s = .next t
        ∧ (t = { s with fresh := s.fresh + 1, last := .event }
          ∨ ∃ k va, (s.ctx u).active e = true ∧ (s.ctx u).pcOf e ≠ k
              ∧ t = { s with dies := t.dies, fresh := s.fresh + 1, last := .event }
              ∧ RasReported { s with fresh := s.fresh + 1 } t (tileDie u) 0xD4 b (unitTile u) va.toNat
              ∧ ({ s with fresh := s.fresh + 1 }.fetchAny u e k = .failed va
                ∨ { s with fresh := s.fresh + 1 }.fetchAny u e k = .error va))

/-- R28, R30, R289, R290, R300, R353, R360: a pre-emption request is kept for a running team, whose save at a boundary makes it READY
at the tail of its run list; a wait past the threshold and the delivery of an asynchronous cause come first there; a parked
context becomes READY when its wake condition holds; an armed deadline that TIMEB reaches sets TIMER, and in PS3 stays armed. -/
def Sys2Proof.Spec.PreemptionAndWakes : Prop :=
  ∀ (s : State) (b : Nat), s.inv → b < 65536 →
    let x := s.box b
    ((x.state = .running → ∃ t, exec (.preemptRequest b) s = .next t ∧ OnlyBox s t b { x with preempt := true, asked := some (x.asked.getD s.timeb) })
      ∧ (x.state ≠ .running → exec (.preemptRequest b) s = .next { s with last := .event }))
    ∧ (TeamOn s b → x.preempt = true → x.oneStep = false → x.halting = false →
        (∀ u, u ∈ x.tiles → (s.tile u).issued = 0 ∧ s.entered u = false) →
        (∀ z, x.tiles.findSome? s.parkOverdue = some z → exec (.preemptSaveComplete b) s = .next z)
        ∧ ((∀ u, u ∈ x.tiles → s.parkOverdue u = none ∧ s.waitOpen u = false) →
            ∀ u, x.tiles.find? s.delivers = some u → exec (.preemptSaveComplete b) s = .next (s.deliver u)))
    ∧ (TeamOn s b → x.preempt = true → x.oneStep = false → x.halting = false → (∃ u, u ∈ x.tiles ∧ (s.ctx u).done = false) →
        (∀ u, u ∈ x.tiles → (s.tile u).issued = 0 ∧ s.entered u = false ∧ s.parkOverdue u = none ∧ s.waitOpen u = false
          ∧ s.delivers u = false) →
        ∃ t, exec (.preemptSaveComplete b) s = .next t ∧ LeftTiles s t b ∧ EntersReady s t b ∧ (t.box b).preempt = false)
    ∧ (x.state = .parked ∨ x.state = .swapped → x.stopping = false →
        (s.wakeHolds b = true → ∃ t, exec (.contextWake b) s = .next t ∧ EntersReady s t b ∧ ∀ a, a ≠ b → t.box a = s.box a)
        ∧ (s.wakeHolds b = false → exec (.contextWake b) s = .next { s with last := .event }))
    ∧ ((x.reason = 0x0A → (s.wakeHolds b = true ↔ x.evpend &&& x.evmask ≠ 0))
      ∧ (x.reason = 0x0B → (s.wakeHolds b = true ↔ x.queue ≠ []))
      ∧ (x.reason = 0x0C → s.wakeHolds b = true) ∧ (x.reason = 0x0D → s.wakeHolds b = false)
      ∧ (x.reason = 0x07 → (s.wakeHolds b = true ↔
          ∃ m, m ∈ (s.pair b (x.watch.extractLsb' 0 3).toNat).held ∧ m.seq = (s.pair b (x.watch.extractLsb' 0 3).toNat).rseq)))
    ∧ (let due := s.ps3 = false ∧ x.dl = true ∧ x.deadline.toNat ≤ s.timeb
       (due → ∃ t, exec (.timer b) s = .next t
          ∧ OnlyBox { s with tiles := marked s b 31 } t b { x with evpend := x.evpend ||| 1 <<< 31, dl := false })
       ∧ (¬ due → exec (.timer b) s = .next { s with last := .event }))

/-- R281, R294, R295, R296, R299, R318: a die's run list holds each READY context of the die once that is eligible, is not to stop,
has been handed no tiles, and has a point to resume at or a launch that nothing holds; by priority, highest first, and within one
in the order of entry into READY. -/
def Sys2Proof.Spec.RunListOrder : Prop :=
  ∀ (s : State) (d : Nat), s.inv →
    let run := s.runList d
    (∀ b, b ∈ run ↔
      let x := s.box b
      boxDie b = d ∧ x.state = .ready ∧ x.stopping = false ∧ x.halting = false ∧ x.handed = none
        ∧ (∀ r, r ∈ s.charged d x.rcb → r.used < s.budgetOf r)
        ∧ (x.resume = true → ∀ l, x.current = some l → MayStart s l)
        ∧ (x.resume = false → ∃ l, x.queue.head? = some l ∧ MayStart s l))
    ∧ run.Nodup
    ∧ run.Pairwise fun a b => (s.box b).prio.toNat < (s.box a).prio.toNat
        ∨ (s.box a).prio = (s.box b).prio ∧ (s.box a).readySeq ≤ (s.box b).readySeq

/-- R284, R296, R377: a selection starts nothing in PS2 or PS3; elsewhere the first candidate of the run lists that a waiting
context at AGE 8 does not keep back, and that fits, runs on free tiles of its die, one rank on each. -/
def Sys2Proof.Spec.SelectionStartsTheFirst : Prop :=
  ∀ (s : State) (d : Nat), s.inv → d = s.cur.at_ → d < 4 →
    ((s.die d).ps2 = true ∨ s.ps3 = true ∨ s.runList d = [] → exec .selection s = .next { s with last := .event })
    ∧ ∀ b l, (s.die d).ps2 = false → s.ps3 = false → s.runList d = b :: l → s.ageBlocked (b :: l) b = false →
        (s.box b).live = false → (s.box b).img = false → s.teamOf b ≤ (s.freeTiles d).length →
        (∀ o, o ≠ b → leasesMeet (s.box b) (s.box o) = false) →
        ∃ t, exec .selection s = .next t ∧ (t.box b).state = .running ∧ (t.box b).age = 0 ∧ (t.box b).tiles.length = s.teamOf b
          ∧ (t.box b).tiles.Nodup ∧ (∀ u, u ∈ (t.box b).tiles → u ∈ s.freeTiles d)
          ∧ (∀ r u, (t.box b).tiles[r]? = some u → (t.tile u).box = some b ∧ (t.tile u).rank = r)
          ∧ ∀ u, u ∉ (t.box b).tiles → (t.tile u).box = (s.tile u).box

/-- R28, R281, R284, R289, R290, R294, R295, R296, R297, R300, R377: `PreemptionAndWakes`, `RunListOrder` and
`SelectionStartsTheFirst` hold. -/
def Obligations.RunListsAndSelections : Prop :=
  Sys2Proof.Spec.PreemptionAndWakes ∧ Sys2Proof.Spec.RunListOrder ∧ Sys2Proof.Spec.SelectionStartsTheFirst

/-- R281, R294, R323: when a budget is spent the running teams that charge the block are to be pre-empted; a period starts with
USED 0 in the root and every block below it; a start timestamp that is reached frees its launches; a changed grant takes effect
with the CLOCK event. -/
def Sys2Proof.Spec.BudgetsAndPeriods : Prop :=
  ∀ (s : State), s.inv →
    (∀ rcb r, s.region s.cur.at_ rcb = some r → s.budgetOf r ≤ r.used → ∃ t, exec (.budgetSpent rcb) s = .next t
      ∧ (∀ b, Charges s r.die rcb b →
          KeepsBox { s.box b with preempt := true, asked := some ((s.box b).asked.getD s.timeb) } (t.box b))
      ∧ (∀ b, ¬ Charges s r.die rcb b → KeepsBox (s.box b) (t.box b)) ∧ t.regions = s.regions ∧ t.tiles.map (·.box) = s.tiles.map (·.box))
    ∧ (∀ rcb r, s.region s.cur.at_ rcb = some r → r.root = true → r.periodNo < 2 * s.timeb / r.period →
      ∃ t, exec (.periodStart rcb) s = .next t ∧ (∀ b, KeepsBox (s.box b) (t.box b))
        ∧ t.regions = s.regions.map fun y =>
            let y := if y.die = r.die ∧ y.va = rcb then { y with periodNo := 2 * s.timeb / r.period } else y
            if y.die = r.die ∧ s.under r.die y.va rcb = true then { y with used := 0 } else y)
    ∧ (∀ b, ∃ t, exec (.startTimestampReached b) s = .next t ∧ (∀ a, a ≠ b → KeepsBox (s.box a) (t.box a))
        ∧ (let hit := fun (l : Launch) => { l with timed := l.timed || decide (l.start.toNat ≤ s.timeb) }
           KeepsBox { s.box b with queue := (s.box b).queue.map hit, current := (s.box b).current.map hit } (t.box b)))
    ∧ (s.cur.at_ < 4 → ((s.die s.cur.at_).grants.map Prod.fst).Nodup →
      ∃ t, exec .grantChange s = .next t ∧ (t.die s.cur.at_).grants = [] ∧ t.mem = s.mem
        ∧ (∀ b g, (b, g) ∈ (s.die s.cur.at_).grants → (s.box b).grant ≠ g →
            t.box b = { s.box b with grant := g, evpend := (s.box b).evpend ||| 2 }
            ∧ (TeamOn s b → (∀ a g', (a, g') ∈ (s.die s.cur.at_).grants → a ≠ b → ∀ u, u ∈ (s.box a).tiles → u ∉ (s.box b).tiles) →
                ∀ u, u ∈ (s.box b).tiles → (t.tile u).clkgr = g))
        ∧ ∀ b, (∀ g, (b, g) ∈ (s.die s.cur.at_).grants → (s.box b).grant = g) → t.box b = s.box b)

/-- R320: the request of a team for a domain is the nibble of the CLKRQ of its rank 0 where bit 3 is set; else that of the first
region up the chain whose default sets bit 3; else code 5. -/
def Sys2Proof.Spec.RequestsOfTeams : Prop :=
  ∀ (s : State) (b k u : Nat), TeamOn s b → (s.box b).tiles.head? = some u → k < 4 →
    let code := fun (w : BitVec 16) => (w.extractLsb' (4 * k) 3).toNat
    let own := fun (w : BitVec 16) => w.getLsbD (4 * k + 3)
    let up := s.chainOf (boxDie b) (s.box b).rcb
    let rq := (s.ctx u).clkrq
    (own rq = true → s.request b k = code rq)
    ∧ (own rq = false → ∀ pre r post, up = pre ++ r :: post → (∀ q, q ∈ pre → own q.clock = false) → own r.clock = true →
        s.request b k = code r.clock)
    ∧ (own rq = false → (∀ q, q ∈ up → own q.clock = false) → s.request b k = 5)

/-- R320, R321, R322: the arbiter grants the running teams of a die one after the other, by priority and then by start: each gets
the admissible set of ratios nearest its request, and of several equally near the one with the greatest ratio of X, then of M,
V and N; no grant exceeds a request. A set is admissible when the die stays within 620 W with the later teams at code 0, and
the region within its share. Powers are in milliwatts, the team's part of N and M in fortieths. -/
def Sys2Proof.Spec.ArbiterGrants : Prop :=
  ∀ (s : State) (d : Nat), s.inv →
    let gs := s.arbitrate d
    let ts := gs.map Prod.fst
    let size := fun (b : Nat) => (s.box b).tiles.length
    let code := fun (w : BitVec 16) (k : Nat) => (w.extractLsb' (4 * k) 3).toNat
    let f := fun (c : Nat) => [10, 18, 27, 38, 50, 64, 80, 100].getD c 0
    let power := fun (p : Nat × BitVec 16) => size p.1 * (105 * f (code p.2 0) + 30 * f (code p.2 1))
    let part := fun (p : Nat × BitVec 16) =>
      40 * power p + size p.1 * (875 * f (code p.2 2) + 1875 * f (code p.2 3))
    (∀ b, b ∈ ts ↔ (s.box b).state = .running ∧ boxDie b = d) ∧ ts.Nodup
    ∧ ts.Pairwise (fun a b => (s.box b).prio.toNat < (s.box a).prio.toNat
        ∨ (s.box a).prio = (s.box b).prio ∧ (s.box a).startSeq ≤ (s.box b).startSeq)
    ∧ ((ts.map size).sum ≤ 40 → ∀ pre b w post, gs = pre ++ (b, w) :: post →
        let high := fun (v : BitVec 16) (k : Nat) => pre.foldl (fun n p => max n (code p.2 k)) (code v k)
        let mine := fun (v : BitVec 16) =>
          ((pre.filter fun p => (s.box p.1).rcb == (s.box b).rcb).map part).sum + part (b, v)
        let admitted := fun (v : BitVec 16) =>
          (pre.map power).sum + power (b, v) + (post.map fun p => size p.1 * 1350).sum + 875 * f (high v 2) + 1875 * f (high v 3)
              ≤ 620000
          ∧ (v = 0x8888 ∨ mine v ≤ 620000 * 40
              ∧ mine v * (40 * s.rootPeriod (boxDie b) (s.box b).rcb) ≤ 620000 * 40 * s.effBudget (boxDie b) (s.box b).rcb)
        let below := fun (v : BitVec 16) => v &&& 0x8888 = 0x8888 ∧ ∀ k, k < 4 → code v k ≤ s.request b k
        let far := fun (v : BitVec 16) => ((List.range 4).map fun k => s.request b k - code v k).sum
        let rank := fun (v : BitVec 16) => 512 * code v 0 + 64 * code v 3 + 8 * code v 1 + code v 2
        below w ∧ admitted w ∧ ∀ v, below v → admitted v → far w < far v ∨ far w = far v ∧ rank v ≤ rank w)

/-- R281, R294, R320, R321, R322, R323: `BudgetsAndPeriods`, `RequestsOfTeams` and `ArbiterGrants` hold. -/
def Obligations.BudgetsPeriodsAndGrants : Prop :=
  Sys2Proof.Spec.BudgetsAndPeriods ∧ Sys2Proof.Spec.RequestsOfTeams ∧ Sys2Proof.Spec.ArbiterGrants

/-- R245, R288, R366, R369, R370, R378: a launch ends once its tiles have, and completes once the counters of its ranks are 0, or
with KEY where its start has no key; one held by edges is released, after the stores before it, when its producers completed OK,
and dropped when one failed; CANCEL takes an unstarted launch out, which completes CANCELLED; a die long idle takes an ANY launch
from the first die of the ring that has one whose team fits. That a release by an edge performs the stores of every tile, beyond
the regions that R245 lists, is the model's (DESIGN CHOICE, notes/assumptions/16.md); so are what a queue keeps of its TAGs
(notes/assumptions/34.md) and that the first producer known to have failed decides at once (notes/assumptions/44.md). -/
def Obligations.LaunchesEndAndMove : Prop :=
  ∀ (s : State) (b : Nat), s.inv → b < 65536 →
    let x := s.box b
    (TeamOn s b → s.teamEnded b = true → ∃ t, exec (.launchEnd b) s = .next t
      ∧ (∀ u, u ∈ x.tiles → (t.tile u).box = none) ∧ (t.box b).resume = false ∧ (t.box b).live = false ∧ (t.box b).img = false
      ∧ (t.box b).current = none ∧ (t.box b).ending = x.ending ++ (x.current.map fun l => (l, x.tiles.length)).toList
      ∧ (x.queue = [] → (t.box b).state = .parked ∧ (t.box b).reason = 0x0B) ∧ (x.queue ≠ [] → (t.box b).state = .ready))
    ∧ (∀ l r q, x.queue = l :: r → x.keyless = true → x.resume = false → x.everRan = true → l.source = none → l.queue = some q →
      q < 32 → l.die < 4 → ∃ t, exec (.launchComplete b) s = .next t ∧ (t.box b).queue = r ∧ (t.box b).keyless = false
        ∧ (l.compl = 0 → l.flags.getLsbD 0 = false →
            (t.mq l.die q).doneTags = (l.tag, 8) :: (s.mq l.die q).doneTags.filter (·.1 != l.tag)))
    ∧ (∀ l n r q, x.ending = (l, n) :: r → l.source = none → l.queue = some q → q < 32 → l.die < 4 →
      (x.keyless = true → x.resume = true ∨ x.queue = []) →
      let quiet := ∀ k, k < n → (s.rankCtx b k).oc.ocl = 0 ∧ (s.rankCtx b k).oc.ocs = 0 ∧ (s.rankCtx b k).oc.occ = 0
      (¬ quiet → exec (.launchComplete b) s = .next { s with last := .event })
      ∧ (quiet → ∃ t, exec (.launchComplete b) s = .next t ∧ (t.box b).ending = r
          ∧ (l.compl = 0 → l.flags.getLsbD 0 = false →
              (t.mq l.die q).doneTags = (l.tag, 0) :: (s.mq l.die q).doneTags.filter (·.1 != l.tag)
              ∧ (t.mq l.die q).openTags = (s.mq l.die q).openTags.filter (· != l.tag))))
    ∧ (x.everRan = true → ∀ l, (x.queue.find? fun l => l.held && (s.producers l).isSome) = some l → l.source = none →
      (s.producers l = some true → ∃ t, exec (.edgeRelease b) s = .next t
        ∧ (t.box b).queue = x.queue.map (fun m => if m = l then { m with held := false } else m)
        ∧ ((∀ u p, u < 160 → p ∈ (s.tile u).stores → s.srHeld p.locs = false) → ∀ u, u < 160 → (t.tile u).stores = []))
      ∧ (s.producers l = some false → ∃ t, exec (.edgeRelease b) s = .next t ∧ (t.box b).queue = x.queue.erase l))
    ∧ (∀ (p : Packet) l, AtQueue s → p.compl.toNat % 8 = 0 → l ∈ x.unstarted → l.source = none →
      let mine := fun (l : Launch) => l.die == s.cur.at_ && l.queue == some s.cur.sub && l.tag.toNat == opnd p 0x10 4
      (s.boxes.findSome? fun q => (q.2.unstarted.find? mine).map fun l => (q.1, l)) = some (b, l) →
      ∃ z, Completes (.cancel p) s z p false false 0 none
        ∧ (l.compl = 0 → l.flags.getLsbD 0 = false → (l.tag, 7) ∈ (z.mq s.cur.at_ s.cur.sub).doneTags)
        ∧ (x.everRan = true → (z.box b).queue = x.queue.erase l)
        ∧ (x.everRan = false → x.current = some l → (z.box b).current = none ∧ (z.box b).state = .parked
            ∧ (z.box b).reason = 0x0B ∧ (z.box b).resume = false ∧ (z.box b).dl = false))
    ∧ (∀ u, s.cur.at_ = u → u < 4 →
      let ring := [(u + 1) % 4, (u + 2) % 4, (u + 3) % 4]
      let idle := ((s.die u).idleSince.any fun t => decide (t + 20000 ≤ s.timeb)) = true ∧ s.runList u = [] ∧ s.freeTiles u ≠ []
      let fits := fun (d c : Nat) (l : Launch) (a : Nat) (k : BlockReg) => boxDie c = d ∧ l ∈ (s.box c).unstarted
        ∧ l.any[u]? = some a ∧ s.block l.lbh = some k ∧ k.team ≤ (s.freeTiles u).length
      (¬ idle → exec .stealOffer s = .next { s with last := .event })
      ∧ (idle → exec .stealOffer s = .next { (ring.findSome? (s.steal u)).getD s with last := .event })
      ∧ ∀ d, (∀ z, s.steal u d = some z → ∃ c l a k, fits d c l a k
            ∧ ((s.box c).everRan = true → a ≠ c → (z.box c).queue = (s.box c).queue.erase l)
            ∧ (l.image = 0 → a ≠ c → (z.box a).queue = (s.box a).queue ++ [l]))
          ∧ (∀ c l a k, fits d c l a k → l.image = 0 → a ≠ c → (s.box a).state ≠ .free → s.admits a k = true →
              (s.steal u d).isSome = true))

/-- R365, R368, R386, R387, R398: a completion frees the thread of its queue and, where COMPL is not 0, writes its word there, after
the writes to its home that its die's clock names; under FAB a release at FABRIC comes first, after which peers miss no write
that they saw before. A word whose page is absent, under move, in a stack in forced self-refresh or in the window of a tile
between the words of a beat waits, one that no check of ST admits is lost with a RAS record. The notification goes to the ring
when it has room and waits otherwise; both waits end later. The ring sizes are those of notes/assumptions/20.md (DEDUCED). -/
def Obligations.FrontEndCompletes : Prop :=
  ∀ (s : State) (p : Packet) (launch named : Bool) (st : Nat) (res : BitVec 32), s.inv → AtQueue s → st < 256 →
    let z := s.complete p launch named st (some res.toNat)
    let m := s.myQueue
    let va := p.compl.toNat
    let free := { tagsAfter m launch res st with busy := none }
    let d : Deferred := ⟨s.cur.sub, true, launch, p.compl, wordOf st res, p.flags.getLsbD 0, if named then some p.box.toNat else none⟩
    let ring := if named then boxDie p.box.toNat else s.cur.at_
    let note : Notif := ⟨1, s.cur.at_, s.cur.sub, !launch, if named then p.box else 0, 0, wordOf st res⟩
    (∃ x, (p.flags.getLsbD 1 = false → x = s) ∧ x = { s with unseen := x.unseen, fresh := x.fresh } ∧ (∀ u, u ∈ x.unseen → u ∈ s.unseen)
    ∧ (p.flags.getLsbD 0 = false →
      (p.compl = 0 → z.mq s.cur.at_ s.cur.sub = free ∧ z.mem = s.mem ∧ z.tiles = s.tiles ∧ z.boxes = s.boxes)
      ∧ (p.compl ≠ 0 → va % 8 = 0 → ∀ locs ls, x.reach m.asid.toNat va 8 true = (.ok locs ls, x) →
          ls.any lfMv = false → ¬ Sys2Proof.Spec.Awaited x locs → x.reply va locs false = none →
          (∀ u, u < 160 → (s.tile u).stores = []) → z.mq s.cur.at_ s.cur.sub = free ∧ z.boxes = s.boxes
            ∧ ∀ a, z.mem.read a = afterWrites ((x.crossLines s.cur.at_ ls locs).touch m.asid.toNat true (pagesOf va 8)).mem
                (locs.zip (toBytes 8 (wordOf st res).toNat)) a)
      ∧ (p.compl ≠ 0 → va % 8 = 0 → ∀ c a y, x.reach m.asid.toNat va 8 true = (.cause c a, y) →
          z.mq s.cur.at_ s.cur.sub = free
          ∧ RasReported s z s.cur.at_ 0xE4 (if named then p.box.toNat else 0xFFFF) unitFront va))
    ∧ (p.compl ≠ 0 → va % 8 = 0 →
        ((∃ ps y, x.reach m.asid.toNat va 8 true = (.absent ps, y))
          ∨ ∃ locs ls, x.reach m.asid.toNat va 8 true = (.ok locs ls, x) ∧ (ls.any lfMv = true ∨ Sys2Proof.Spec.Awaited x locs)) →
        (z.die s.cur.at_).deferred = (s.die s.cur.at_).deferred ++ [d] ∧ z.mem = s.mem
        ∧ z.mq s.cur.at_ s.cur.sub = { m with busy := m.busy.map fun b => { b with completing := true } })
    ∧ (p.compl = 0 → p.flags.getLsbD 0 = true → (named = true → p.box.toNat < 65536) →
        let r := (s.die ring).nring
        let slot := r.base + BitVec.ofNat 64 (32 * (r.prod.toNat % 2 ^ r.log.toNat))
        let y := x.updMq s.cur.at_ s.cur.sub fun m => tagsAfter m launch res st
        let put := y.writeFrom ring 0 slot (notifBytes note s.timeWord)
        ((s.die ring).notifs ≠ [] ∨ r.log.toNat < 4 ∨ 12 < r.log.toNat ∨ r.base.toNat % 4096 ≠ 0 ∨
            (r.prod - r.cons).toNat = 2 ^ r.log.toNat ∨ y.writeWaits 0 slot.toNat 32 = true ∨ put = none →
          (z.die ring).notifs = (s.die ring).notifs ++ [note] ∧ z.mem = s.mem
          ∧ (z.mq s.cur.at_ s.cur.sub).busy = if launch then none else m.busy.map fun b => { b with completing := true })
        ∧ (∀ s1, (s.die ring).notifs = [] → 4 ≤ r.log.toNat → r.log.toNat ≤ 12 → r.base.toNat % 4096 = 0 →
            (r.prod - r.cons).toNat ≠ 2 ^ r.log.toNat → y.writeWaits 0 slot.toNat 32 = false → put = some s1 →
            (z.die ring).nring = { r with prod := r.prod + 1 } ∧ z.mq s.cur.at_ s.cur.sub = free ∧ z.mem = s1.mem)))
    ∧ ((s.die s.cur.at_).deferred ≠ [] → ∃ (k : Nat) (d : Deferred), (s.die s.cur.at_).deferred[k]? = some d ∧
        exec .completionWordWrite s = .next { (({ s with fresh := s.fresh + 1 }.updDie s.cur.at_ fun x =>
          { x with deferred := x.deferred.eraseIdx k }).writeCompl s.cur.at_ d) with last := .event })
    ∧ ∀ n l, (s.die s.cur.at_).notifs = n :: l →
        (∀ s1, s.putNotif s.cur.at_ n = some s1 → ∃ t, exec .notificationPost s = .next t ∧ (t.die s.cur.at_).notifs = l
          ∧ t.mem = s1.mem ∧ (t.die s.cur.at_).nring.prod = (s.die s.cur.at_).nring.prod + 1
          ∧ (n.holds = true → n.qdie < 4 → n.queue < 32 → (t.mq n.qdie n.queue).busy = none))
        ∧ (s.putNotif s.cur.at_ n = none → exec .notificationPost s = .next { s with last := .event })

/-- R365: the checks of a packet that names a box, in their order: a COMPL off its alignment is BADPKT, a FREE box or one of another
die is STATE, a box outside the queue's region is OWNER with a RAS record. -/
def Sys2Proof.Spec.PacketsAreChecked : Prop :=
  ∀ (s : State) (p : Packet) (i : Instr), AtQueue s →
    i ∈ [Instr.signal p, .wakehint p, .swap p, .halt p, .destroy p, .chbind p, .prbind p] →
    let x := s.box p.box.toNat
    (p.compl.toNat % 8 ≠ 0 → Completes i s s p false true 1 none)
    ∧ (p.compl.toNat % 8 = 0 → x.state = .free ∨ boxDie p.box.toNat ≠ s.cur.at_ → Completes i s s p false true 4 none)
    ∧ (p.compl.toNat % 8 = 0 → x.state ≠ .free → boxDie p.box.toNat = s.cur.at_ →
        s.under s.cur.at_ x.rcb s.myQueue.own = false → ∃ z, OneRasRecord s z s.cur.at_ ∧ Completes i s z p false true 2 none)

/-- R231, R269, R283, R287, R290, R309, R312, R316, R366, R376, R399: SIGNAL sets SIGNAL, WAKEHINT sets PWAKE, CREATE gives a FREE box
of the die its fields, PARKED and IDLE. SWAP, HALT and DESTROY first wait for the context's work, and HALT for a move of its pages;
SWAP then writes the context's image, or under IMGBAD takes the one that stands, and leaves it SWAPPED, HALT leaves it HALTED
with an image of kind 2, DESTROY leaves its box FREE. What a SWAP of a READY context leaves, and what makes HALT wait, are the
model's readings in notes/assumptions/32.md and 43.md (DEDUCED); that a SWAP of a RUNNING or of a SWAPPED box completes with
STATE, and that one whose own image is refused completes with 0x10 and the image's status, is its choice there
(notes/assumptions/32.md, DESIGN CHOICE). -/
def Sys2Proof.Spec.BoxCommands : Prop :=
  ∀ (s : State) (p : Packet), s.inv → AtQueue s →
    let b := p.box.toNat
    let x := s.box b
    let s1 := s.updBox b fun x => { x with stopping := true }
    let s2 := s1.someRank b
    let swapped := fun (z : State) => (z.box b).live = false ∧ (z.box b).img = true ∧ (z.box b).stopping = false
      ∧ ∀ u, u < 160 → ∀ q, q ∈ (z.tile u).owners → q.1 ≠ b
    let busy := s1.settled b = false ∨ s1.pageMoves x.asid.toNat = true
    let noKey := s.keyOf (s.effIso (boxDie b) x.rcb) = none ∧ s.stepOk b = false
    (Commands s p →
      Completes (.signal p) s { s.updBox b (fun x => { x with evpend := x.evpend ||| 1 }) with tiles := marked s b 0 } p
        false true 0 none
      ∧ Completes (.wakehint p) s (s.updBox b fun x => { x with pwake := BitVec.ofNat 64 (opnd p 0x10 8) }) p false true 0 none
      ∧ (s.security = .w → Completes (.swap p) s s p false true 8 none ∧ Completes (.halt p) s s p false true 8 none)
      ∧ (s.security ≠ .w →
          (x.state = .running ∨ x.state = .swapped ∨ (x.state = .parked ∧ x.reason = 0x0D) → Completes (.swap p) s s p false true 4 none)
          ∧ (x.state = .ready ∨ (x.state = .parked ∧ x.reason ≠ 0x0D) →
              (s1.settled b = false → exec (.swap p) s = .next { s1 with last := .event })
              ∧ (s1.settled b = true → x.reason = 0x0E → ∃ z, Completes (.swap p) s z p false true 0 none ∧ swapped z
                  ∧ (z.box b).state = .ready ∧ z.mem = s.mem)
              ∧ (s1.settled b = true → x.reason ≠ 0x0E → s.keyOf (s.effIso (boxDie b) x.rcb) = none →
                  ∃ z, Completes (.swap p) s z p false true 8 none ∧ (z.box b).stopping = false ∧ z.mem = s.mem)
              ∧ (s1.settled b = true → x.reason ≠ 0x0E → s.keyOf (s.effIso (boxDie b) x.rcb) ≠ none →
                  (∀ st, s2.offRanks b 1 = .error st → ∃ z, Completes (.swap p) s z p false true (0x10 + st) none
                    ∧ (z.box b).stopping = false)
                  ∧ ∀ rs n z1, s2.offRanks b 1 = .ok rs → s2.writeImage b rs 1 false = some (n, z1) →
                    ∃ z, Completes (.swap p) s z p false true 0 none ∧ z.mem = z1.mem ∧ swapped z
                      ∧ (x.state = .parked → (z.box b).state = .swapped ∧ (z.box b).reason = x.reason)
                      ∧ (x.state = .ready → (z.box b).state = .ready)))
          ∧ (x.state = .running → ∃ t, exec (.halt p) s = .next t ∧ (t.box b).preempt = true ∧ (t.box b).stopping = true)
          ∧ (x.state ≠ .running → busy → exec (.halt p) s = .next { s1 with last := .event })
          ∧ (x.state ≠ .running → ¬ busy → noKey → ∃ z, Completes (.halt p) s z p false true 8 none ∧ (z.box b).stopping = false)
          ∧ (x.state ≠ .running → ¬ busy → ¬ noKey →
              ∀ n z1, s1.haltImage b = .ok (n, z1) → ∃ z, z.mem = z1.mem ∧ (z.box b).state = .parked ∧ (z.box b).reason = 0x0D
                ∧ (z.box b).stopping = true
                ∧ Completes (.halt p) s z p false true 0 (some ((z1.box b).imggen.toNat * 65536 + n / 4096 % 65536))))
      ∧ (x.state = .running → ∃ t, exec (.destroy p) s = .next t ∧ (t.box b).preempt = true)
      ∧ (x.state ≠ .running → (∀ l, l ∈ x.queue ∨ x.current = some l ∨ l ∈ x.ending.map Prod.fst → False) → s1.settled b = true →
          (∀ c, c < 8 → (s.pair b c).v = false) →
          ∃ z, Completes (.destroy p) s z p false true 0 none ∧ z.box b = Box.reset ∧ z.mem = s.mem
            ∧ (∀ a, a ≠ b → z.box a = s.box a) ∧ ∀ u, u < 160 → ∀ q, q ∈ (z.tile u).owners → q.1 ≠ b))
    ∧ (p.compl.toNat % 8 = 0 → ¬ (s.security = .w ∧ s.debug = .d2) →
        let lease : BitVec 32 := BitVec.ofNat 32 (opnd p 0x2C 4)
        let y : Box := { Box.reset with
          state := .parked, reason := 0x0B, rcb := BitVec.ofNat 64 (opnd p 0x10 8), image := BitVec.ofNat 64 (opnd p 0x18 8)
          lqhead := BitVec.ofNat 64 (opnd p 0x20 8), asid := BitVec.ofNat 16 (opnd p 0x28 2), imgsize := BitVec.ofNat 16 (opnd p 0x2A 2)
          lbase := lease.extractLsb' 0 10, lsize := lease.extractLsb' 10 11, lsave := lease.extractLsb' 21 11
          prio := s.effPrio s.cur.at_ (BitVec.ofNat 64 (opnd p 0x10 8)) }
        let ok := y.asid ≠ 0 ∧ y.imgsize ≠ 0 ∧ y.image.toNat % 4096 = 0 ∧ y.lsize ≠ 0 ∧ y.lbase.toNat + y.lsize.toNat ≤ 1024
          ∧ y.lsave.toNat ≤ y.lsize.toNat ∧ (s.region s.cur.at_ y.rcb).isSome = true
        let room := ∃ k, k < 16384 ∧ (s.box (16384 * s.cur.at_ + k)).state = .free
        (ok → room → s.under s.cur.at_ y.rcb s.myQueue.own = true → ∃ b z, Completes (.create p) s z p false false 0 (some b)
          ∧ boxDie b = s.cur.at_ ∧ (s.box b).state = .free ∧ z.box b = y ∧ ∀ a, a ≠ b → KeepsBox (s.box a) (z.box a))
        ∧ (¬ ok ∨ ¬ room → ∃ z, z.boxes = s.boxes ∧ z.mem = s.mem ∧ Completes (.create p) s z p false false 3 none))

/-- R28, R303, R304, R305, R307, R310, R312, R376, R380: what an image holds. It lies at IMAGE: a header of 4,096 bytes in clear,
with its fields, and the body, encrypted by AES-256-XTS under the region key of its isolation domain with NONCE and the unit's
number as the tweak, or in clear. The directory's sections lie one after the other in its order, at multiples of 8, which is the
model's order (DESIGN CHOICE, notes/assumptions/41.md: R304 asks only that they do not overlap); the last is the TRAILER, with the
SHA-256 of the header and of every earlier section. The BOX section is the box, and each rank has a C section, raw or coded. The
box's generation advances and IMG is set. A save that a stack in forced self-refresh has kept beyond 20 µs from its request is
reported. A coded stream reads back as what was coded. (The second key of XTS is opaque, notes/assumptions/15.md, and which of the
allowed codings is written is a free choice. Here for an image of less than 4 GiB.) -/
def Sys2Proof.Spec.ImageContents : Prop :=
  (∀ (k : Nat) (raw : List Byte), raw.length % 64 = 0 → decodeCoded (raw.length / 64) (encodeCoded k raw).1 = some raw)
  ∧ ∀ (s z : State) (b : Nat) (rs : List ImgRank) (kind n : Nat) (clear : Bool), s.writeImage b rs kind clear = some (n, z) →
    n < 2 ^ 32 → rs ≠ [] → rs.length ≤ 16 → kind < 256 →
    let x := s.box b
    let iso := s.effIso (boxDie b) x.rcb
    KeepsBox { x with imggen := x.imggen + 1, img := true, srSince := none } (z.box b)
    ∧ (∀ t k, x.srSince = some (t, k) → k < 12 → t + 20000 < s.timeb + x.spent → ∃ r, r ∈ (z.die (k / 3)).records
        ∧ r.code = 0xD5 ∧ r.box = b ∧ r.unit = unitHbm (k % 3) ∧ r.time = BitVec.ofNat 64 s.timeb)
    ∧ ∃ (img plain : List Byte) (k : Nat) (y : State),
      ({ s with fresh := k } : State).writeFrom (boxDie b) 0 x.image img = some y ∧ z.mem = y.mem
      ∧ img.length = n ∧ n % 4096 = 0 ∧ plain.length + 4096 = n
      ∧ (clear = true → img.drop 4096 = plain)
      ∧ (clear = false → ∃ key, s.keyOf iso = some key ∧ img.drop 4096 = xtsBody false key (fieldOf img 0x20 8) plain)
      ∧ (let f := fieldOf img
         f 0 4 = 0x1A495843 ∧ f 4 2 = 1 ∧ f 8 4 = 0x004000A1 ∧ f 0xC 2 = (x.imggen + 1).toNat ∧ f 0xE 1 = rs.length ∧ f 0xF 1 = kind
         ∧ f 0x10 4 = x.lsave.toNat * 2 ^ 21 + x.lsize.toNat * 2 ^ 10 + x.lbase.toNat
         ∧ f 0x14 2 = (if clear then 0xFFFF else iso.toNat) ∧ f 0x16 2 = x.asid.toNat ∧ f 0x18 8 = n ∧ f 0x28 24 = 0)
      ∧ (let nsec := fieldOf img 6 2
         let e := fun (i o k : Nat) => fieldOf img (0x40 + 24 * i + o) k
         let off := fun (i : Nat) => e i 8 8
         let len := fun (i : Nat) => e i 16 8
         let data := fun (i : Nat) => (plain.drop (off i - 4096)).take (len i)
         2 ≤ nsec ∧ nsec ≤ 168 ∧ (img.take 4096).drop (0x40 + 24 * nsec) = List.replicate (4096 - (0x40 + 24 * nsec)) 0
         ∧ (∀ i, i < nsec → off i % 8 = 0 ∧ 4096 ≤ off i ∧ off i + len i ≤ n ∧ (i + 1 < nsec → off i + len i ≤ off (i + 1))
            ∧ (e i 0 2 = 15 ↔ i + 1 = nsec))
         ∧ (plain.drop (off (nsec - 1) - 4096)).take 32 = sha256 (img.take 4096 ++ (List.range (nsec - 1)).flatMap data)
         ∧ (∃ i, i < nsec ∧ e i 0 2 = 8 ∧ e i 2 1 = 0xFF ∧ (boxBytes x).length = 64 ∧ data i = boxBytes x)
         ∧ ∀ (k : Nat) (r : ImgRank), rs[k]? = some r → (cSection r.ctx).length % 64 = 0 → ∃ i, i < nsec ∧ e i 0 2 = 1 ∧ e i 2 1 = k
            ∧ e i 4 4 = (cSection r.ctx).length
            ∧ (e i 3 1 = 0 ∧ data i = cSection r.ctx
                ∨ e i 3 1 = 1 ∧ decodeCoded ((cSection r.ctx).length / 64) (data i) = some (cSection r.ctx)))

/-- R28, R269, R283, R287, R290, R303, R304, R305, R307, R309, R310, R312, R316, R365, R366, R376, R399: `PacketsAreChecked`,
`BoxCommands` and `ImageContents` hold. -/
def Obligations.BoxPackets : Prop :=
  Sys2Proof.Spec.PacketsAreChecked ∧ Sys2Proof.Spec.BoxCommands ∧ Sys2Proof.Spec.ImageContents

/-- R317, R364, R366, R369, R370: a LAUNCH that its checks admit is queued on its box, held while it has producers, and an IDLE
context becomes READY; its thread goes on. A LAUNCH from an image loads it: the context stands READY, PARKED on its events, or
IDLE where the image holds no launch in progress; its image is read in QASID. Its refusals are BADPKT, STATE, RANGE and KEY.
When an image holds no launch in progress (its reason is IDLE, or C has ended its part on every rank) is the model's reading in
notes/assumptions/14.md (DEDUCED), and so is what an image's load keeps of the box, in notes/assumptions/45.md. -/
def Obligations.LaunchesAreQueued : Prop :=
  ∀ (s : State) (p : Packet), s.inv → AtQueue s → p.compl.toNat % 8 = 0 →
    let any := p.flags.getLsbD 2
    let set := (List.range 4).map fun i => opnd p (0x30 + 2 * i) 2
    let b := if any then set.getD s.cur.at_ 0 else p.box.toNat
    let x := s.box b
    let blk := s.block (BitVec.ofNat 32 (opnd p 0x10 4))
    let image := opnd p 0x20 8
    let asid := s.myQueue.asid.toNat
    let made := fun (w : List (Nat × Nat × BitVec 32 × Nat)) => ({
      die := s.cur.at_, queue := some s.cur.sub, tag := p.tag, flags := p.flags, compl := p.compl
      lbh := BitVec.ofNat 32 (opnd p 0x10 4), start := BitVec.ofNat 64 (opnd p 0x18 8), image := BitVec.ofNat 64 image
      edge := BitVec.ofNat 64 (opnd p 0x28 8), held := !w.isEmpty, waits := w, timed := decide (opnd p 0x18 8 ≤ s.timeb)
      args := none, source := none, any := if any then set else [], step := p.flags.getLsbD 3, raw := pkPacket 1 p
      qasid := s.myQueue.asid } : Launch)
    let mine := x.state ≠ .free ∧ boxDie b = s.cur.at_ ∧ s.under s.cur.at_ x.rcb s.myQueue.own = true
      ∧ (any = true → (∀ a, a ∈ set → (s.box a).state ≠ .free) ∧ s.setOk set = true)
      ∧ (p.flags.getLsbD 3 = true → s.stepOk b = true ∧ image ≠ 0)
    (any = true → s.myQueue.ctl.getLsbD 1 = false → Completes (.launch p) s s p true false 1 none)
    ∧ ((any = true → s.myQueue.ctl.getLsbD 1 = true) →
        (x.state = .free ∨ boxDie b ≠ s.cur.at_ → Completes (.launch p) s s p true (!any) 4 none)
        ∧ (x.state ≠ .free → boxDie b = s.cur.at_ → s.under s.cur.at_ x.rcb s.myQueue.own = true → any = true →
            (∃ a, a ∈ set ∧ (s.box a).state = .free) → Completes (.launch p) s s p true (!any) 4 none)
        ∧ (mine → (∀ k, blk = some k → k.asid = x.asid → s.admits b k = true → False) → Completes (.launch p) s s p true (!any) 3 none)
        ∧ (mine → ∀ k, blk = some k → k.asid = x.asid → s.admits b k = true →
            (∀ s' w, (∀ kk, s.edges asid 8 (BitVec.ofNat 64 (opnd p 0x28 8)) kk = kk s' w) → image = 0 →
              ∃ t, exec (.launch p) s = .next t ∧ (t.box b).queue = x.queue ++ [made w]
                ∧ ((x.state = .parked ∨ x.state = .swapped) ∧ x.reason = 0x0B ∧ x.stopping = false → (t.box b).state = .ready)
                ∧ (¬ ((x.state = .parked ∨ x.state = .swapped) ∧ x.reason = 0x0B ∧ x.stopping = false) → (t.box b).state = x.state)
                ∧ t.mq s.cur.at_ s.cur.sub = { s.myQueue with busy := none } ∧ ∀ a, a ≠ b → KeepsBox (s.box a) (t.box a))
            ∧ (opnd p 0x28 8 = 0 → image ≠ 0 →
                (s.security = .w → Completes (.launch p) s s p true (!any) 8 none)
                ∧ (s.security ≠ .w → x.everRan = true ∨ x.queue ≠ [] ∨ x.resume = true ∨ x.reason ≠ 0x0B →
                    Completes (.launch p) s s p true (!any) 4 none)
                ∧ (s.security ≠ .w → x.everRan = false → x.queue = [] → x.resume = false → x.reason = 0x0B →
                    ∀ head body s1 s2 img, s.frontRead asid (BitVec.ofNat 64 image) 4096 = .ok head s1 →
                      4096 < getN head 0x18 8 → getN head 0x18 8 ≤ x.imgsize.toNat * 4096 →
                      s1.frontRead asid (BitVec.ofNat 64 image) (getN head 0x18 8) = .ok body s2 →
                      s2.openImage b k.team asid (BitVec.ofNat 64 image) = .ok img →
                      (∀ j, j < 8 → (s.pair b j).v = false → ((img.pairs[j]?).map (·.v)).getD false = false) →
                      let reason := getN img.box 2 1
                      let ended := reason = 0x0B ∨ ∀ r, r ∈ img.ranks → r.ctx.done = true
                      (ended → ∃ z, Completes (.launch p) s z p true (!any) 0 none ∧ (z.box b).state = .parked
                        ∧ (z.box b).reason = 0x0B)
                      ∧ (¬ ended → ∃ t, exec (.launch p) s = .next t ∧ (t.box b).resume = true ∧ (t.box b).img = true
                          ∧ (t.box b).current = some (made []) ∧ (t.box b).saved = img.ranks.map (·.ctx)
                          ∧ (reason = 0x0A → (t.box b).state = .parked ∧ (t.box b).reason = 0x0A)
                          ∧ (reason ≠ 0x0A → (t.box b).state = .ready))))))

/-- R366, R367: WAIT completes once its condition holds, on the word in memory, on the LAUNCH with its TAG or on TIMEB, and with
TIMEOUT when its time is up; until then its thread stays. CANCEL removes a launch of its queue that has not started, which
completes CANCELLED, and completes with STATE where there is none. -/
def Obligations.WaitAndCancel : Prop :=
  ∀ (s : State) (p : Packet), s.inv → AtQueue s → p.compl.toNat % 8 = 0 →
    let op := opnd p 0x28 1
    let v := opnd p 0x18 8
    let addr := opnd p 0x10 8
    let up := fun (z : State) (c : Prop) =>
      (c → Completes (.wait p) s z p false false 0 none)
      ∧ (¬ c → (opnd p 0x30 8 ≠ 0 ∧ (s.myQueue.busy.elim s.timeb (·.since)) + opnd p 0x30 8 ≤ s.timeb →
            Completes (.wait p) s z p false false 5 none)
          ∧ (¬ (opnd p 0x30 8 ≠ 0 ∧ (s.myQueue.busy.elim s.timeb (·.since)) + opnd p 0x30 8 ≤ s.timeb) →
            exec (.wait p) s = .next { z with last := .event }))
    (5 ≤ op ∨ op < 3 ∧ addr % 8 ≠ 0 → Completes (.wait p) s s p false false 1 none)
    ∧ (op < 3 → addr % 8 = 0 → ∀ bs z, s.frontRead s.myQueue.asid.toNat (BitVec.ofNat 64 addr) 8 = .ok bs z →
        let w := (BitVec.ofNat 64 (ofBytes bs) &&& BitVec.ofNat 64 (opnd p 0x20 8)).toNat
        up z (op = 0 ∧ w = v ∨ op = 1 ∧ w ≠ v ∨ op = 2 ∧ v ≤ w))
    ∧ (op = 3 → up s ((∀ t, t ∈ s.myQueue.openTags → t.toNat ≠ v) ∧ ∃ t, t ∈ s.myQueue.doneTags ∧ t.1.toNat = v))
    ∧ (op = 4 → up s (v ≤ s.timeb))
    ∧ (∀ d q t0, d < 4 → q < 32 → (s.mq d q).busy = some ⟨.wait p, t0, false⟩ → (∃ t, exec (.wait p) { s with cur := { s.cur with at_ := d, sub := q } } = .next t
        ∧ exec (.waitSatisfied d q) s = .next t ∧ exec (.waitTimeout d q) s = .next t))
    ∧ (let mine := fun (l : Launch) => l.die == s.cur.at_ && l.queue == some s.cur.sub && l.tag.toNat == opnd p 0x10 4
       let found := s.boxes.findSome? fun q => (q.2.unstarted.find? mine).map fun l => (q.1, l)
       (found = none → Completes (.cancel p) s s p false false 4 none)
       ∧ ∀ b l, found = some (b, l) → l.source = none → (s.box b).everRan = true →
          ∃ z, Completes (.cancel p) s z p false false 0 none ∧ (z.box b).queue = (s.box b).queue.erase l
            ∧ (l.compl = 0 → l.flags.getLsbD 0 = false → (z.mq s.cur.at_ s.cur.sub).doneTags =
                (l.tag, 7) :: s.myQueue.doneTags.filter (·.1 != l.tag)))

/-- R216, R217, R218, R219: a controller applies a packet of the kind asked for, of those that no earlier packet of the same
requester on common bytes holds back, and answers with the request's TAG: data under LAY, done, the old word, or the least
reason that applies; each packet is applied once. Without such a packet only the free value is drawn. -/
def Sys2Proof.Spec.HbmRequestsServed : Prop :=
  ∀ (s : State) (d k : Nat), s.inv → d < 4 → k < 3 →
    ∀ x, x ∈ [(Instr.hbmRead d k, fun n => n != 2 && n != 3), (Instr.hbmWrite d k, fun n => n == 2), (Instr.hbmAtomic d k, fun n => n == 3)] →
    let ps := (s.stack d k).packets
    ((∀ i, ¬ MayApply ps x.2 i) → exec x.1 s = .next { s with fresh := s.fresh + 1, last := .event })
    ∧ ((∃ i, MayApply ps x.2 i) → ∃ t i p hdr data, exec x.1 s = .next t ∧ t.last = .event ∧ ps[i]? = some p ∧ MayApply ps x.2 i
        ∧ (t.stack d k).packets = ps.eraseIdx i
        ∧ (t.stack d k).replies = (s.stack d k).replies ++ [⟨hdr, data, p.hdr, p.box, p.rank⟩]
        ∧ hdr.toNat / 2 ^ 96 % 2 ^ 16 = hdrField p 96 16 ∧ hdr.toNat % 2 ^ 96 = 0
        ∧ Answered s t d k p (hdr.toNat / 2 ^ 120) (hdr.toNat / 2 ^ 112 % 2 ^ 8) data)

/-- R217, R219, R379, R380: a reply on its way reaches its requester; a negative one leaves one RAS record, with its header, and
raises PACKET_NACK, or HBM_UE for reason 5, on the context that owns the request. A stack whose temperature is critical enters
self-refresh once it has completed what it accepted; leaving it, it takes the packets that waited. -/
def Sys2Proof.Spec.HbmRepliesAndRefresh : Prop :=
  ∀ (s : State) (d k : Nat), d < 4 → k < 3 →
    let x := s.stack d k
    (x.replies = [] → exec (.hbmReply d k) s = .next { s with fresh := s.fresh + 1, last := .event })
    ∧ (x.replies ≠ [] → ∃ t i r, exec (.hbmReply d k) s = .next t ∧ t.last = .event ∧ x.replies[i]? = some r
        ∧ (t.stack d k).replies = x.replies.eraseIdx i ∧ (t.stack d k).packets = x.packets
        ∧ (r.hdr.toNat / 2 ^ 120 ≠ 0xFF → t.mem = s.mem ∧ t.tiles = s.tiles ∧ t.boxes = s.boxes)
        ∧ (r.hdr.toNat / 2 ^ 120 = 0xFF → RasReported s t d 0xD8 r.box (0x6000 + k) r.hdr.toNat ∧ t.mem = s.mem
            ∧ ∀ u, s.tileOf r.box r.rank = some u → u < 160 →
                (t.ctx u).trap.tpend.getLsbD (if r.hdr.toNat / 2 ^ 112 % 2 ^ 8 = 5 then 7 else 0) = true))
    ∧ (∀ enter, x.sr = enter ∨ enter = true ∧ x.packets ≠ [] → exec (.thermalSr d k enter) s = .next { s with last := .event })
    ∧ (x.sr = false → x.packets = [] → ∃ t, exec (.thermalSr d k true) s = .next t
        ∧ RasReported s t d 0xD5 0xFFFF (0x6000 + k) (1 + 2 * k) ∧ t.mem = s.mem
        ∧ t.stack d k = { x with sr := true })
    ∧ (x.sr = true → ∃ t, exec (.thermalSr d k false) s = .next t
        ∧ RasReported s t d 0xD5 0xFFFF (0x6000 + k) (2 * k) ∧ t.mem = s.mem
        ∧ t.stack d k = { x with sr := false, packets := x.packets ++ x.waiting, waiting := [] })

/-- R216, R217, R218, R219, R379, R380: `HbmRequestsServed` and `HbmRepliesAndRefresh` hold. (Which reason a packet that breaks
several rules gets, and how the operands of an atomic lie, are the model's choice, notes/assumptions/38.md.) -/
def Obligations.HbmControllers : Prop :=
  Sys2Proof.Spec.HbmRequestsServed ∧ Sys2Proof.Spec.HbmRepliesAndRefresh

/-- R213, R219, R231, R237, R383: a move of the die begins for a page whose promotion was first asked of it, once the stores in flight
to the page are performed where it lies, with MV set and its translations dropped, in a free frame of the die; it ends with the
bytes copied and PFN, TIER and a clear MV in one write, A and D set, and the old frame free again; both wait for a stack in forced
self-refresh, and the copy for the words of a tile's beat. Nothing else of memory changes. (That the copy sets A and D is the
model's reading of R208: DEDUCED, notes/assumptions/39.md.) A copy that gets a negative reply leaves one RAS record, and the page
stays where it was, under no move: the spec names no other effect (DESIGN CHOICE, notes/assumptions/80.md). -/
def Sys2Proof.Spec.PagesMove : Prop :=
  ∀ (s : State) (d asid : Nat) (page : Word), s.inv → d < 4 →
    (∀ m, (s.die d).move = some m →
      (m.asid ≠ asid ∨ m.page ≠ page → exec (.rseMove d asid page) s = .next { s with last := .event })
      ∧ (m.asid = asid → m.page = page → ∀ l pa x, s.walk asid page.toNat = some (l, pa) → s.loc pa = some x → s.dirty = [] →
          let old : List Nat := s.frameLocs asid page (lfTier l) (lfPfn l)
          let new : List Nat := s.frameLocs asid page m.tier m.pfn
          TableApart s asid page.toNat x new → new.Nodup → ¬ Sys2Proof.Spec.Awaited s (old ++ new) →
          s.reply 0 old true = none →
          s.reply 0 new false = none →
          ∃ t, exec (.rseMove d asid page) s = .next t ∧ (t.die d).move = none ∧ NotCached t asid page
            ∧ (∀ (i a b : Nat), new[i]? = some a → old[i]? = some b → t.mem.read a = s.seen b)
            ∧ t.paWord pa = ((l ||| 0x00C0000000000000) &&& 0xE7FBFFF000000000) ||| (m.tier.setWidth 64 <<< 59)
                ||| BitVec.ofNat 64 (m.pfn % 2 ^ 36)
            ∧ (∀ a, a ∉ new → (a < x ∨ x + 8 ≤ a) → t.mem.read a = s.mem.read a)
            ∧ (∀ h, lfTier l ≠ 3 → placeOf (lfPfn l * 65536) = .hbm h → (t.die h).pool = (s.die h).pool ++ [lfPfn l])
            ∧ (lfTier l ≠ 3 → placeOf (lfPfn l * 65536) = .loft → (t.die d).loftPool = (s.die d).loftPool ++ [lfPfn l])
            ∧ (lfTier l = 3 → ∀ h, (t.die h).pool = (s.die h).pool ∧ (t.die h).loftPool = (s.die h).loftPool))
      ∧ (m.asid = asid → m.page = page → ∀ l pa x, s.walk asid page.toNat = some (l, pa) → s.loc pa = some x →
          let old : List Nat := s.frameLocs asid page (lfTier l) (lfPfn l)
          let new : List Nat := s.frameLocs asid page m.tier m.pfn
          ¬ Sys2Proof.Spec.Awaited s (old ++ new) → s.reply 0 old true ≠ none ∨ s.reply 0 new false ≠ none →
          ∃ t, exec (.rseMove d asid page) s = .next t ∧ (t.die d).move = none ∧ OneRasRecord s t d ∧ NotCached t asid page
            ∧ t.paWord pa = l &&& 0xFFFBFFFFFFFFFFFF ∧ (∀ a, (a < x ∨ x + 8 ≤ a) → t.mem.read a = s.mem.read a)
            ∧ ∀ h, m.tier ≠ 3 → placeOf (m.pfn * 65536) = .hbm h → (t.die h).pool = (s.die h).pool ++ [m.pfn])
      ∧ (m.asid = asid → m.page = page → ∀ l pa, s.walk asid page.toNat = some (l, pa) →
          Sys2Proof.Spec.Awaited s (s.frameLocs asid page (lfTier l) (lfPfn l) ++ s.frameLocs asid page m.tier m.pfn) →
          exec (.rseMove d asid page) s = .next { s with last := .event }))
    ∧ ((s.die d).move = none →
        let first := ∃ pre post, s.want = pre ++ (d, asid, page) :: post ∧ ∀ e, (e, asid, page) ∉ pre
        ((d, asid, page) ∉ s.want → exec (.rseMove d asid page) s = .next { s with last := .event })
        ∧ ((d, asid, page) ∈ s.want → ∀ l pa x, s.walk asid page.toNat = some (l, pa) → s.loc pa = some x →
            (lfTier l = 0 ∨ lfTier l = 1 → ∃ t, exec (.rseMove d asid page) s = .next t ∧ (d, asid, page) ∉ t.want ∧ t.mem = s.mem)
            ∧ (lfTier l ≠ 0 → lfTier l ≠ 1 → movable l = false ∨ ¬ first ∨ (s.die d).pool = [] →
                exec (.rseMove d asid page) s = .next { s with last := .event })
            ∧ (lfTier l ≠ 0 → lfTier l ≠ 1 → s.writeBack asid page l = none →
                exec (.rseMove d asid page) s = .next { s with last := .event })
            ∧ (∀ f r z, lfTier l ≠ 0 → lfTier l ≠ 1 → movable l = true → first → (s.die d).pool = f :: r → s.writeBack asid page l = some z →
                ∃ t, exec (.rseMove d asid page) s = .next t ∧ (t.die d).move = some ⟨asid, page, 1, f⟩
                  ∧ ∀ u q, u < 160 → q ∈ (t.tile u).stores → q.goesTo (s.frameLocs asid page (lfTier l) (lfPfn l)) = false)
            ∧ (∀ f r, lfTier l ≠ 0 → lfTier l ≠ 1 → movable l = true → first → (s.die d).pool = f :: r →
                (∀ u q, u < 160 → q ∈ (s.tile u).stores → q.goesTo (s.frameLocs asid page (lfTier l) (lfPfn l)) = false) →
                ∃ t, exec (.rseMove d asid page) s = .next t ∧ (t.die d).move = some ⟨asid, page, 1, f⟩ ∧ (t.die d).pool = r
                  ∧ (d, asid, page) ∉ t.want ∧ t.paWord pa = l ||| 0x0004000000000000 ∧ NotCached t asid page
                  ∧ ∀ a, (a < x ∨ x + 8 ≤ a) → t.mem.read a = s.mem.read a)))

/-- R214, R215: once TIMEB has reached PWAKE less RSELEAD, every page of the wake set of a PARKED or SWAPPED context is asked for, after
those asked for before; that none is asked for earlier is the model's (DESIGN CHOICE, notes/assumptions/75.md).
Below its low mark a die begins to move out one page of the first class that R215 names, of the latest PWAKE among PARKED
contexts: to the loft, or to no tier when the loft is full and it holds no key-value data. It takes no page of an ASID that a
RUNNING or READY context uses. (The frame number of a page of no tier is a free value.) That it demotes nothing when the loft is
full and the first victim holds key-value data is the model's (DESIGN CHOICE, notes/assumptions/63.md). -/
def Sys2Proof.Spec.WakeSetsAndDemotion : Prop :=
  (∀ (s : State) (b : Nat), b < 65536 →
    let x := s.box b
    let due := (x.state = .parked ∨ x.state = .swapped) ∧ x.pwake ≠ 0 ∧ x.pwake.toNat ≤ s.timeb + (s.die (boxDie b)).rselead.toNat
    (¬ due → exec (.rseWakePromotion b) s = .next { s with last := .event })
    ∧ (due → ∃ t, exec (.rseWakePromotion b) s = .next t ∧ t = { s with want := t.want, last := .event }
        ∧ (∀ r, r ∈ x.faults → (boxDie b, x.asid.toNat, r.page) ∈ t.want)
        ∧ (∀ q, q ∈ x.demoted → (boxDie b, x.asid.toNat, q) ∈ t.want)
        ∧ ∃ l, t.want = s.want ++ l))
  ∧ ∀ (s : State), s.cur.at_ < 4 →
    let d := s.die s.cur.at_
    let vs := s.demotable s.cur.at_
    (d.move ≠ none ∨ d.rselow.toNat ≤ d.pool.length → exec .rseDemotion s = .next { s with last := .event })
    ∧ (d.move = none → d.pool.length < d.rselow.toNat → vs ≠ [] →
      (∀ w, w ∈ vs → ∃ l pa, s.walk w.asid w.page.toNat = some (l, pa)
        ∧ ∀ u q, u < 160 → q ∈ (s.tile u).stores → q.goesTo (s.frameLocs w.asid w.page (lfTier l) (lfPfn l)) = false) →
      ∃ t v, exec .rseDemotion s = .next t ∧ v ∈ vs ∧ (∀ w, w ∈ vs → victimClass v ≤ victimClass w)
        ∧ (∀ w, w ∈ vs → v.swapped = false → victimClass w = victimClass v → w.pwake ≤ v.pwake)
        ∧ (∀ q, q ∈ s.boxes → q.2.asid.toNat = v.asid → q.2.state ≠ .running ∧ q.2.state ≠ .ready)
        ∧ (∀ f r, d.loftPool = f :: r → (t.die s.cur.at_).move = some ⟨v.asid, v.page, 2, f⟩ ∧ (t.die s.cur.at_).loftPool = r
            ∧ ∀ b, (s.box b).state ≠ .free → (s.box b).asid.toNat = v.asid → v.kv = true → v.page ∈ (t.box b).demoted)
        ∧ (d.loftPool = [] → v.kv = false → ∃ pfn, (t.die s.cur.at_).move = some ⟨v.asid, v.page, 3, pfn⟩)
        ∧ (d.loftPool = [] → v.kv = true → (t.die s.cur.at_).move = none ∧ t.mem = s.mem))

/-- R213, R214, R215, R219, R237, R383: `PagesMove` and `WakeSetsAndDemotion` hold. -/
def Obligations.ResidencyEngines : Prop :=
  Sys2Proof.Spec.PagesMove ∧ Sys2Proof.Spec.WakeSetsAndDemotion

/-- R344, R358, R379, R386, R398: the oldest RAS record that waits goes to its die's log, as R379 lays it out, with the TIMEB of its
report, when the log has room and can be written, and the die's second MSI-X vector is sent or set pending; else it is counted in
RASOVF. That a record whose write waits (R213, R219, R237) waits with it is the model's (notes/assumptions/52.md). -/
def Sys2Proof.Spec.RecordsReachTheirLog : Prop :=
  ∀ (s : State) (d : Nat) (acts : List Action), s.agenda = .record d :: acts → d < 4 →
    let z := { s with agenda := acts, last := .event }
    let x := s.die d
    let slot := x.ras.base + BitVec.ofNat 64 (32 * (x.ras.prod.toNat % 2 ^ x.ras.log.toNat))
    let fits := 6 ≤ x.ras.log.toNat ∧ x.ras.log.toNat ≤ 16 ∧ (x.ras.prod - x.ras.cons).toNat ≠ 2 ^ x.ras.log.toNat
    (x.records = [] → step s = .next z)
    ∧ ∀ r rest, x.records = r :: rest →
      let y := z.updDie d fun x => { x with records := rest }
      let put := y.writeFrom d 0 slot ([r.code, 0] ++ toBytes 2 r.box ++ toBytes 2 r.unit ++ [0, 0] ++ toBytes 8 r.time.toNat
        ++ toBytes 16 r.detail)
      (s.writeWaits 0 slot.toNat 32 = true → step s = .next z)
      ∧ (s.writeWaits 0 slot.toNat 32 = false → ¬ fits ∨ put = none →
          step s = .next (y.updDie d fun x => { x with ras := { x.ras with ovf := x.ras.ovf + 1 } }))
      ∧ (∀ w, s.writeWaits 0 slot.toNat 32 = false → fits → put = some w → ∃ t, step s = .next t ∧ t.mem = w.mem
          ∧ (t.die d).ras = { x.ras with prod := x.ras.prod + 1 } ∧ (t.die d).records = (w.die d).records
          ∧ (s.msixMask.getLsbD (4 + d) = true → t.msixPend = s.msixPend ||| (1 <<< (4 + d) : BitVec 8) ∧ t.msixSent = s.msixSent)
          ∧ (s.msixMask.getLsbD (4 + d) = false → t.msixPend = s.msixPend
              ∧ t.msixSent = (4 + d, vget (0, 0) s.msixTable (4 + d)) :: s.msixSent))

/-- R262, R266, R267, R269: the oldest waiting record of a core goes to its ring, when it has room and can be written, with the ring
index that FRRET names, and records that their units held for want of a pool entry follow. FRRET of a record of another kind than
3, 4, 6, 7 and 8, or of none, is stray: it leaves one RAS record and no box changes. RESUME and CANCEL retire the record; under
kinds 3, 4, 6 and 7 no piece stays stopped on its page, and CANCEL of kind 8 stops the chain's fetching. That TIME is the time at
which the record goes to the ring is the model's (DESIGN CHOICE, notes/assumptions/78.md). -/
def Sys2Proof.Spec.FaultRingsServed : Prop :=
  ∀ (s : State) (d c idx : Nat), s.inv → d < 4 → c < 4 →
    let core := fun (z : State) => vget ⟨0, 0, 0, 0, []⟩ (z.die d).cores c
    let f := core s
    (f.waiting = [] → exec (.faultRecordPost d c) s = .next { s with last := .event })
    ∧ (∀ r rest, f.waiting = r :: rest →
        let put := s.putRing d f.base f.log f.prod f.cons 6 16 4096 (faultBytes { r with time := BitVec.ofNat 64 s.timeb })
        (put = none → exec (.faultRecordPost d c) s = .next { s with last := .event })
        ∧ (put ≠ none → ∃ t w, exec (.faultRecordPost d c) s = .next t ∧ (core t).prod = f.prod + 1 ∧ (core t).waiting = rest ++ w
            ∧ (∀ q, q ∈ w → q ∈ (s.die d).heldRecs)
            ∧ (r ∈ (s.box r.box).faults →
                { r with time := BitVec.ofNat 64 s.timeb, ring := some (d, c, f.prod.toNat) } ∈ (t.box r.box).faults)))
    ∧ ∀ i, i ∈ [Instr.frretResume d c idx, Instr.frretCancel d c idx] →
      (s.findRecord d c idx = none ∨ (∃ r, s.findRecord d c idx = some r ∧ (r.kind = 1 ∨ r.kind = 2 ∨ r.kind = 5)) →
        ∃ t, exec i s = .next t ∧ OneRasRecord s t d ∧ t.boxes = s.boxes)
      ∧ (∀ r, s.findRecord d c idx = some r → r.kind = 3 ∨ r.kind = 4 ∨ r.kind = 6 ∨ r.kind = 7 →
        ∃ t, exec i s = .next t ∧ r ∉ (t.box r.box).faults
          ∧ ∀ a, a < 8 → ∀ m, m ∈ (t.chain r.box a).cmds → ∀ q, q ∈ m.stopped → q.2 ≠ r.page)
      ∧ (∀ r, s.findRecord d c idx = some r → r.kind = 8 → r.chain < 8 →
        ∃ t, exec i s = .next t ∧ r ∉ (t.box r.box).faults ∧ (i = .frretCancel d c idx → (t.chain r.box r.chain).stopped = true))

/-- R262, R266, R267, R269, R344, R358, R379, R398: `FaultRingsServed` and `RecordsReachTheirLog` hold. -/
def Obligations.FaultRecordsServed : Prop :=
  Sys2Proof.Spec.FaultRingsServed ∧ Sys2Proof.Spec.RecordsReachTheirLog

/-- R256, R258, R259, R261, R263, R264, R267, R290: a copy engine fetches the command at HEAD into a pool entry; it waits while the stack
that holds it is in forced self-refresh, and where it cannot be read posts a record of kind 8, or, where none can be posted, holds
its chain. A command that fails its check completes with ERR at once. MARK completes when every earlier command of its chain has,
and its publisher's counter falls. A message on its way is held by the receiving pair, and sets its event. -/
def Obligations.CopyCommandsFetched : Prop :=
  ∀ (s : State) (b c : Nat), s.inv → b < 65536 → c < 8 →
    let x := s.chain b c
    let asid := (s.box b).asid.toNat
    let slot := x.base + BitVec.ofNat 64 (64 * (x.head.toNat % 2 ^ (x.logn.toNat + 4)))
    let beats := if (s.box b).state = .running then (s.box b).tiles.map fun u => (s.tile u).beat - (s.tile u).base else []
    let fetched := if beats = [] then [] else x.fetches.filter (fun n => beats.any (· ≤ n)) ++ [beats.foldl max 0]
    (x.reported = x.complete →
      (s.mayFetch b c = false ∨ s.mustWait asid slot.toNat 64 false = true →
        exec (.ceFetch b c) s = .next { s with last := .event })
      ∧ (s.mayFetch b c = true → s.mustWait asid slot.toNat 64 false = false → s.readVa asid slot 64 = none →
          ∃ t, exec (.ceFetch b c) s = .next t ∧ RecordPosted s t b 8 0xFF x.eng.toNat c (slot &&& 0xFFFFFFFFFFFF0000) 0
            ∧ t.chain b c = { x with ninth := decide ((t.box b).faults = (s.box b).faults) })
      ∧ (s.mayFetch b c = true → s.mustWait asid slot.toNat 64 false = false → ∀ bs, s.readVa asid slot 64 = some bs →
          let m : Cmd := ⟨x.complete + x.cmds.length, BitVec.ofNat 512 (ofBytes bs), x.pubs.headD 0, [], [], false, false, false, [], [],
            []⟩
          (m.sound = true → m.nm1 < 2 → m.lay = 0 ∨ m.lay = 4 → ∃ t, exec (.ceFetch b c) s = .next t
            ∧ t.chain b c = { x with head := x.head + 1, pubs := x.pubs.tail, cmds := x.cmds ++ [m], fetches := fetched })
          ∧ (m.sound = false → x.cmds = [] → ∃ t, exec (.ceFetch b c) s = .next t ∧ (t.chain b c).head = x.head + 1
            ∧ (t.chain b c).err = true ∧ (t.chain b c).cmds = [] ∧ (t.chain b c).complete = x.complete + 1
            ∧ ∀ u, s.tileOf b m.rank = some u → u < 160 → (t.ctx u).trap.tpend.getLsbD 1 = true)))
    ∧ (∀ k m, x.cmds.find? (·.k == k) = some m →
        let ready_ := m.op = 4 ∧ m.finished = false ∧ ∀ e, e ∈ x.cmds → e.k < k → e.finished = true
        (¬ ready_ → exec (.mark b c k) s = .next { s with last := .event })
        ∧ (ready_ → ∃ t, exec (.mark b c k) s = .next t
            ∧ (∀ y, y ∈ (t.chain b c).cmds → y.k = k → y.finished = true)
            ∧ ((∀ e, e ∈ x.cmds → e.k = k ∨ e.finished = true) → (t.chain b c).cmds = []
                ∧ (t.chain b c).complete = x.complete + x.cmds.length)
            ∧ ∀ u, s.tileOf b m.rank = some u → u < 160 → (t.ctx u).oc.occ = (s.ctx u).oc.occ - 1))
    ∧ (let p := s.pair b c
       (p.flying = [] → exec (.queueMessageArrival b c) s = .next { s with last := .event })
       ∧ (p.flying ≠ [] → ∃ t i m, exec (.queueMessageArrival b c) s = .next t ∧ t.last = .event ∧ p.flying[i]? = some m
            ∧ t.pair b c = { p with flying := p.flying.eraseIdx i, held := p.held ++ [m] }
            ∧ (∀ n, n < 32 → (t.box b).evpend.getLsbD n = (decide (n = 2 + c) || (s.box b).evpend.getLsbD n))
            ∧ t.mem = s.mem ∧ t.tiles = marked s b (2 + c) ∧ ∀ a, a ≠ b → t.box a = s.box a))

/-- R256: what keeps piece `j` of command `m` of a chain from running: the command is finished; the piece is done, stopped, or held
for a record; or the command has not begun, and an earlier one has not, ORD holds it, or it is another chain's turn. -/
def Sys2Proof.Spec.PieceRests (s : State) (b c : Nat) (m : Cmd) (j : Nat) : Prop :=
  let cmds := (s.chain b c).cmds
  m.finished = true ∨ j ∈ m.done ∨ (∃ q, q ∈ m.stopped ∧ q.1 = j) ∨ j ∈ m.ninth
  ∨ m.begun = false ∧ (m.op = 4 ∨ s.chainTurn b c = false
      ∨ (∃ e, e ∈ cmds ∧ e.k < m.k ∧ e.begun = false ∧ e.finished = false ∧ e.op ≠ 4)
      ∨ ∃ o, o ∈ cmds ∧ o.ord = true ∧ o.k ≤ m.k ∧ ∃ e, e ∈ cmds ∧ e.k < o.k ∧ e.finished = false)

/-- R219, R237, R256, R258, R260, R262, R383: a piece that `PieceRests` does not hold begins its command, in its chain's turn. It
moves its bytes, or those of FILL's element, sets the full bits under NF = 0 and is done; it waits for a page under move, for a
stack in forced self-refresh, for a tile between the words of a beat or at a beat in which a requester has written that comes after
the engine, and under FE for full granules; on a page that it cannot reach it stops with a record of kind 3 (source) or 4
(destination), on an SRAM error of its source with kind 6, and on a negative reply with kind 7. A piece outside the address space
ends its command with ERR. (Here for layout 00, without a barrier, a piece that does not overlap itself and is not its command's
last; the bytes, where no store is on its way.) -/
def Obligations.CopyPiecesMove : Prop :=
  ∀ (s : State) (b c k j : Nat) (m : Cmd) (p : Piece), s.inv → b < 65536 → c < 8 →
    let x := s.chain b c
    let asid := (s.box b).asid.toNat
    let off := fun (v : Int) => v < 0 ∨ 2 ^ 57 < v + p.n
    let page := fun (v : Int) => BitVec.ofInt 64 v &&& 0xFFFFFFFFFFFF0000
    let outside := off p.dst ∨ m.op ≠ 3 ∧ off p.src
    let posts := fun (t : State) (kind : Nat) (v : Int) =>
      RecordPosted s t b kind 0xFF x.eng.toNat c (page v) (BitVec.ofNat 32 m.k)
    x.cmds.find? (·.k == k) = some m →
      (Sys2Proof.Spec.PieceRests s b c m j → exec (.piece b c k j) s = .next { s with last := .event })
      ∧ (¬ Sys2Proof.Spec.PieceRests s b c m j → m.piece j = some p → p.gi = none → m.lay = 0 →
          (outside → ∃ t, exec (.piece b c k j) s = .next t
            ∧ ∀ y, y ∈ (t.chain b c).cmds → y.k = k → y.finished = true ∧ y.err = true)
          ∧ (¬ outside → m.op ≠ 3 → (∀ ls l, (s.reach asid p.src.toNat p.n false).1 ≠ .ok ls l) →
              ∃ t, exec (.piece b c k j) s = .next t ∧ t.mem = s.mem ∧ posts t 3 p.src)
          ∧ ∀ sl ls, ¬ outside → (if m.op = 3 then sl = [] ∧ ls = [] else (s.reach asid p.src.toNat p.n false).1 = .ok sl ls) →
              ((∀ ls l, (s.reach asid p.dst.toNat p.n true).1 ≠ .ok ls l) →
                ∃ t, exec (.piece b c k j) s = .next t ∧ t.mem = s.mem ∧ posts t 4 p.dst)
              ∧ ∀ dl ds, (s.reach asid p.dst.toNat p.n true).1 = .ok dl ds → m.bar = false →
                  let waits := (∃ l, l ∈ ds ∧ lfMv l = true) ∨ Sys2Proof.Spec.Awaited s (sl ++ dl)
                    ∨ (∃ l u off, l ∈ dl ∧ placeOf l = .window u off ∧ x.eng.toNat + 1 < (s.tile u).order)
                    ∨ m.fe = true ∧ ∃ a, a ∈ sl ∧ s.emptyAt a = true
                  let srcNeg := s.reply p.src.toNat sl true ≠ none
                  let dstNeg := s.reply p.dst.toNat dl false ≠ none
                  (waits → ∃ t, exec (.piece b c k j) s = .next t ∧ t.mem = s.mem ∧ t.tiles = s.tiles
                    ∧ (t.chain b c).cmds.find? (·.k == k) = some { m with begun := true })
                  ∧ (¬ waits → s.sramUe sl ≠ none → ∃ t, exec (.piece b c k j) s = .next t ∧ t.mem = s.mem ∧ posts t 6 p.src)
                  ∧ (¬ waits → s.sramUe sl = none → srcNeg →
                      ∃ t, exec (.piece b c k j) s = .next t ∧ posts t 7 p.src ∧ OneRasRecord s t (boxDie b))
                  ∧ (¬ waits → s.sramUe sl = none → ¬ srcNeg → dstNeg →
                      ∃ t, exec (.piece b c k j) s = .next t ∧ posts t 7 p.dst ∧ OneRasRecord s t (boxDie b))
                  ∧ (¬ waits → s.sramUe sl = none → ¬ srcNeg → ¬ dstNeg → (∀ a, a ∈ sl → a ∉ dl) → dl.Nodup →
                      m.done.length + 1 < m.pieces.length + m.extra.length →
                      ∃ t, exec (.piece b c k j) s = .next t
                        ∧ (t.chain b c).cmds.find? (·.k == k) = some { m with begun := true, done := j :: m.done }
                        ∧ (m.begun = false → sget 0 (t.die (boxDie b)).turns x.eng.toNat = 8 * b + c + 1)
                        ∧ (m.op ≠ 3 → (∀ u, u < 160 → (s.tile u).stores = []) →
                            ∀ (i a a' : Nat), dl[i]? = some a → sl[i]? = some a' → t.mem.read a = s.seen a')
                        ∧ (m.op = 3 → ∀ (i a : Nat), dl[i]? = some a → t.mem.read a = BitVec.ofNat 8 (m.idx / 256 ^ ((p.phase + i) % m.esz)))
                        ∧ (m.nf = false → Filled t dl)))

/-- R326, R327, R335, R337, R338, R340: a command with a field outside its range completes with BADCMD, having changed nothing
else. (That NACC above 63 and NROW, NLAY and NENT of 0 count as such fields is the model's reading.) -/
def Sys2Proof.Spec.UnitCommandsChecked : Prop :=
  ∀ (s : State), AtUnit s →
    (∀ c, ¬ SluFields c true ∨ c.nrow = 0 ∨ 256 < c.nrow.toNat ∨ ¬ ToppFits c → UnitCompletes (.sample c) s s c.res 2)
    ∧ (∀ c, ¬ SluFields c true ∨ c.nrow = 0 ∨ 256 < c.nrow.toNat ∨ c.topk ≠ 0 ∨ c.topp ≠ 0 → UnitCompletes (.short c) s s c.res 2)
    ∧ (∀ c, ¬ SluFields c false ∨ c.nrow = 0 ∨ 16 < c.nrow.toNat ∨ c.base ≠ 0 ∨ ¬ ToppFits c → UnitCompletes (.merge c) s s c.res 2)
    ∧ (∀ c, ¬ SluFields c true ∨ c.nrow ≠ 0 ∨ c.aux.toNat % 64 ≠ 0 ∨ ¬ ToppFits c → UnitCompletes (.verify c) s s c.res 2)
    ∧ (∀ (c : CmeCmd), c.z1 ≠ 0 ∨ c.z2 ≠ 0 ∨ c.nlay = 0 ∨ 256 < c.nlay.toNat ∨ c.tb.toNat % 16 ≠ 0 ∨ c.tb.toNat < 16 ∨ 65536 < c.tb.toNat
        ∨ c.tpp = 0 ∨ 65536 < c.tpp.toNat ∨ c.res.toNat % 8 ≠ 0 → UnitCompletes (.compact c) s s c.res 2)
    ∧ (∀ (c : BfeCmd), c.z1 ≠ 0 ∨ c.z2 ≠ 0 ∨ c.z3 ≠ 0 ∨ c.z4 ≠ 0 ∨ c.nent = 0 ∨ 256 < c.nent.toNat ∨ c.list.toNat % 8 ≠ 0
        ∨ c.res.toNat % 8 ≠ 0 ∨ (s.box c.box.toNat).state = .free ∨ (s.box c.box.toNat).asid ≠ (s.box s.cur.box).asid
        ∨ (∀ k, s.block c.lbh = some k → k.asid ≠ (s.box c.box.toNat).asid) → UnitCompletes (.backfill c) s s c.res 2)

/-- R327, R328, R329, R331, R332: SAMPLE of one row without a row-state table writes its token after the DONE word: greedy, or the
greatest of a_v + g_v among the first TOPK tokens of O, or why there is none. -/
def Sys2Proof.Spec.SampleChoosesToken : Prop :=
  ∀ (s s1 s2 : State) (c : SluCmd) (d : List Byte) (ls ws : List Nat), AtUnit s → SluFields c true → ToppFits c →
    c.nrow = 1 → c.aux = 0 → UnitReads s s1 c.desc 32 d → RowRead s1 s2 c c.src (BitVec.ofNat 64 (fieldOf d 16 8)) ls ws →
    ∃ out : List Byte, out.length = 8 ∧ RowToken c (BitVec.ofNat 32 (fieldOf d 0 4)) (BitVec.ofNat 32 (fieldOf d 4 4)) ls ws out
      ∧ ∀ y, UnitWrites s2 y (c.res + 8) out → UnitCompletes (.sample c) s y c.res 0

/-- R334, R335: SHORT of one row writes the first 64 tokens of O with M, COUNT and STATUS; MERGE of one shard gives its first
token, greedily, or BADROW; VERIFY without its template or its root completes with BADCMD, and of the root alone makes the token
of row 0 the bonus. -/
def Sys2Proof.Spec.ShardsAndVerdicts : Prop :=
  ∀ (s s1 s2 : State) (c : SluCmd) (d : List Byte), AtUnit s → UnitReads s s1 c.desc 32 d →
    let cw := BitVec.ofNat 64 (fieldOf d 16 8)
    (∀ ls ws, SluFields c true → c.nrow = 1 → c.topk = 0 → c.topp = 0 → RowRead s1 s2 c c.src cw ls ws →
      ∃ r : List Byte, r.length = 576
        ∧ (∀ y, UnitWrites { s2 with fresh := s2.fresh + 1 } y (c.res + 64) r → UnitCompletes (.short c) s y c.res 0)
        ∧ (BadRow c ls ws → fieldOf r 0x20C 4 = 6)
        ∧ (¬ BadRow c ls ws → ∃ o, OrderO c ls ws o ∧ fieldOf r 0x208 4 = o.length ∧ fieldOf r 0x20C 4 = 0
            ∧ fieldOf r 0x200 4 = (o.head?.map (logitOf c ls ws)).getD 0xFF800000
            ∧ ∀ i, i < 64 → (r.drop (8 * i)).take 8 = match o[i]? with
                | some v => toBytes 4 (logitOf c ls ws v) ++ toBytes 4 (c.base.toNat + v)
                | none => toBytes 4 0xFF800000 ++ toBytes 4 0xFFFFFFFF))
    ∧ (∀ b, SluFields c false → ToppFits c → c.nrow = 1 → c.base = 0 → c.aux = 0 → c.mode.getLsbD 0 = false →
        UnitReads s1 s2 c.src 576 b → ∃ out : List Byte, out.length = 8
          ∧ (∀ y, UnitWrites { s2 with fresh := s2.fresh + 1 } y (c.res + 8) out → UnitCompletes (.merge c) s y c.res 0)
          ∧ (fieldOf b 0x20C 4 = 6 → out = toBytes 4 0xFFFFFFFF ++ toBytes 4 6)
          ∧ (fieldOf b 0x20C 4 ≠ 6 → oddRecord b = false → recToks b ≠ [] → ∃ t, t ∈ recToks b ∧ out = toBytes 4 t.g ++ toBytes 4 0
              ∧ ∀ w, w ∈ recToks b → ltNum false t.a w.a = false ∧ (eqNum t.a w.a = true → t.g ≤ w.g)))
    ∧ (∀ w, SluFields c true → ToppFits c → c.nrow = 0 → c.aux.toNat % 64 = 0 → UnitReads s1 s2 c.aux 272 w →
        let tmpl := (s.region (boxDie s.cur.box) (s.box s.cur.box).rcb).bind fun r =>
          (r.templates.find? (·.1 == fieldOf w 8 1)).map (·.2)
        (tmpl = none ∨ fieldOf w 0 8 % 2 = 0 → UnitCompletes (.verify c) s s2 c.res 2)
        ∧ (∀ root, tmpl = some [root] → fieldOf w 0 8 % 2 = 1 → c.mode.getLsbD 0 = false → ∀ s3 ls ws, RowRead s2 s3 c c.src cw ls ws →
            ¬ BadRow c ls ws → ∀ o v, OrderO c ls ws (v :: o) → ∃ r : List Byte, r.length = 120
              ∧ (∀ y, UnitWrites s3 y (c.res + 8) r → UnitCompletes (.verify c) s y c.res 0)
              ∧ fieldOf r 0 8 = 0 ∧ fieldOf r 8 1 = 0 ∧ fieldOf r 9 1 = fieldOf w 8 1 ∧ fieldOf r 12 4 = fieldOf w 12 4
              ∧ fieldOf r 16 4 = c.base.toNat + v ∧ fieldOf r 32 4 = (c.base.toNat + v) % 2 ^ 24
              ∧ (r.drop 40).take 64 = List.replicate 64 0xFF))

/-- R213, R219, R236, R237, R326: a unit reads the bytes of pages that are resident and readable, and writes those of pages that are
resident and writable, the write performed at its lines' homes; its command waits for a stack in forced self-refresh, for a tile
between the words of a beat and, to write, for a page under move, and completes with FAULT where a page is neither or a read or
write is answered with an error (here for the descriptor of SAMPLE). -/
def Sys2Proof.Spec.UnitAccesses : Prop :=
  (∀ (s : State) (va : Word) (n : Nat), AtUnit s →
    let asid := (s.box s.cur.box).asid.toNat
    (∀ locs ls z, s.reach asid va.toNat n false = (.ok locs ls, z) → ¬ Sys2Proof.Spec.Awaited s locs →
        z.badReply asid va.toNat n false = none →
      ∃ t, UnitReads s t va n (z.getBytes locs))
    ∧ ∀ b : List Byte, b.length = n → s.writeWaits asid va.toNat n = false → s.badReply asid va.toNat n true = none →
      ∀ t, s.writeFrom s.cur.at_ asid va b (s.cur.sub == 4) = some t → UnitWrites s t va b)
  ∧ ∀ (s : State) (c : SluCmd), AtUnit s → SluFields c true → ToppFits c → 1 ≤ c.nrow.toNat → c.nrow.toNat ≤ 256 →
    let asid := (s.box s.cur.box).asid.toNat
    (∀ locs ls z, s.reach asid c.desc.toNat 32 false = (.ok locs ls, z) → Sys2Proof.Spec.Awaited s locs →
      exec (.sample c) s = .next { s with last := .event })
    ∧ ((∀ locs ls, (s.reach asid c.desc.toNat 32 false).1 ≠ .ok locs ls) → ∃ z, UnitCompletes (.sample c) s z c.res 5 ∧ z.mem = s.mem)
    ∧ (∀ locs ls z, s.reach asid c.desc.toNat 32 false = (.ok locs ls, z) → ¬ Sys2Proof.Spec.Awaited s locs →
        z.badReply asid c.desc.toNat 32 false ≠ none → ∃ z, UnitCompletes (.sample c) s z c.res 5)

/-- R326, R327, R328, R329, R331, R332, R334, R335, R337, R338, R340: `UnitCommandsChecked`, `UnitAccesses`, `SampleChoosesToken` and
`ShardsAndVerdicts` hold. (That an error of memory makes a command FAULT, and that J is the count where no J reaches TOPP, is the
model's reading, DEDUCED, notes/assumptions/36.md; that a field of 0 in NROW, NLAY and NENT, and the alignments of SRC, DESC and
RES, count as fields outside their range, is its choice, notes/assumptions/37.md.) -/
def Obligations.SelectionUnits : Prop :=
  Sys2Proof.Spec.UnitCommandsChecked ∧ Sys2Proof.Spec.UnitAccesses ∧ Sys2Proof.Spec.SampleChoosesToken
    ∧ Sys2Proof.Spec.ShardsAndVerdicts

/-- R337 (with a NACC above 63 counted as BADCMD, which is the model's, DESIGN CHOICE, notes/assumptions/37.md): COMPACT of a
verdict that is not done, or is neither OK nor SLOW, completes with BADCMD; with NACC = 0 it copies nothing; with one accepted token
and one layer it copies that token's bytes from the siding to its place in the cache, or completes with BADCMD where a range leaves
its page or the siding is not of HOME 01 or 10. -/
def Sys2Proof.Spec.CompactCopiesAccepted : Prop :=
  ∀ (s s1 : State) (c : CmeCmd) (v : List Byte), AtUnit s → c.z1 = 0 → c.z2 = 0 → 1 ≤ c.nlay.toNat → c.nlay.toNat ≤ 256 →
    c.tb.toNat % 16 = 0 → 16 ≤ c.tb.toNat → c.tb.toNat ≤ 65536 → 1 ≤ c.tpp.toNat → c.tpp.toNat ≤ 65536 → c.res.toNat % 8 = 0 →
    UnitReads s s1 c.verd 128 v →
    let good := fieldOf v 0 8 / 2 ^ 63 = 1 ∧ fieldOf v 0 8 / 2 ^ 56 % 128 ≤ 1 ∧ fieldOf v 0x10 1 ≤ 63
    let tb := c.tb.toNat
    (¬ good → UnitCompletes (.compact c) s s1 c.res 2)
    ∧ (good → fieldOf v 0x10 1 = 0 → UnitCompletes (.compact c) s s1 c.res 0)
    ∧ (good → fieldOf v 0x10 1 = 1 → c.nlay = 1 →
        let p := fieldOf v 0x14 4 + 1
        ∀ s2 pg, UnitReads s1 s2 (c.blkt + BitVec.ofNat 64 (8 * (p / c.tpp.toNat))) 8 pg →
          let src := c.siding + BitVec.ofNat 64 (fieldOf v 0x30 1 * c.nstr.toNat)
          let dst := BitVec.ofNat 64 (ofBytes pg + p % c.tpp.toNat * tb)
          let leaves := 65536 < src.toNat % 65536 + tb ∨ 65536 < ofBytes pg % 65536 + p % c.tpp.toNat * tb + tb
          (leaves → UnitCompletes (.compact c) s s2 c.res 2)
          ∧ (¬ leaves →
              ∀ b0 l s3, ((unitReadLeaf src tb).run).run s2 = (.ok (b0, l), s3) →
                (lfHome l ≠ 1 → lfHome l ≠ 2 → UnitCompletes (.compact c) s s3 c.res 2)
                ∧ (lfHome l = 1 ∨ lfHome l = 2 → ∀ s4 b y, UnitReads s3 s4 src tb b →
                    UnitWrites s4 y dst b → UnitCompletes (.compact c) s y c.res 0)))

/-- R237, R338, R339: BACKFILL of one entry of one layer copies it into the queue and hollows its granules, waiting for the words of
a tile's beat, or completes with FULL where the queue has no room, or with BADCMD where its range is not in tile windows or a field
of the entry is out of its range (LLAST below LFIRST, GLEN off 16, a word that is not zero: the model's, DESIGN CHOICE,
notes/assumptions/37.md). The first queued entry becomes a launch of its context, with the arguments of R339, while fewer than 16
are in flight. -/
def Sys2Proof.Spec.BackfillQueuesAndDispatches : Prop :=
  (∀ (s s1 : State) (c : BfeCmd) (raw : List Byte), AtUnit s → c.z1 = 0 → c.z2 = 0 → c.z3 = 0 → c.z4 = 0 → c.nent = 1 →
    c.list.toNat % 8 = 0 → c.res.toNat % 8 = 0 → (s.box c.box.toNat).state ≠ .free → (s.box c.box.toNat).asid = (s.box s.cur.box).asid →
    (∃ k, s.block c.lbh = some k ∧ k.asid = (s.box c.box.toNat).asid) → UnitReads s s1 c.list 32 raw →
    let asid := (s.box s.cur.box).asid.toNat
    let glen := fieldOf raw 12 4
    let sound := fieldOf raw 8 2 = fieldOf raw 10 2 ∧ glen % 16 = 0 ∧ fieldOf raw 16 8 % 16 = 0 ∧ fieldOf raw 24 4 % 16 = 0
      ∧ fieldOf raw 28 4 = 0
    let e : BackEntry := ⟨s.cur.box, s.cur.rank, c.box.toNat, c.lbh, BitVec.ofNat 256 (ofBytes raw), false⟩
    (fieldOf raw 10 2 < fieldOf raw 8 2 ∨ glen % 16 ≠ 0 ∨ fieldOf raw 28 4 ≠ 0 → UnitCompletes (.backfill c) s s1 c.res 2)
    ∧ (sound → ∀ locs s2, (if glen = 0 then locs = [] ∧ s2 = s1
          else ∃ ls, s1.reach asid (fieldOf raw 16 8) glen false = (.ok locs ls, s2)) →
        let windows := ∀ l, l ∈ locs → ∃ u o, placeOf l = .window u o
        let busy := Sys2Proof.Spec.Awaited s2 locs
        (¬ windows → UnitCompletes (.backfill c) s s2 c.res 2)
        ∧ (windows → busy → exec (.backfill c) s = .next { s with last := .event })
        ∧ (windows → ¬ busy → 4096 < (s.die s.cur.at_).backfill.length + 1 → UnitCompletes (.backfill c) s s2 c.res 3)
        ∧ (windows → ¬ busy → (∀ l u o, l ∈ locs → placeOf l = .window u o → (s2.tile u).start = none) →
            (s.die s.cur.at_).backfill.length + 1 ≤ 4096 → ∃ z, UnitCompletes (.backfill c) s z c.res 0 ∧ z.mem = s2.mem
            ∧ (z.die s.cur.at_).backfill = (s.die s.cur.at_).backfill ++ [e] ∧ ∀ l, l ∈ locs → z.emptyAt l = true)))
  ∧ ∀ (s : State), s.inv → s.cur.at_ < 4 →
    let q := (s.die s.cur.at_).backfill
    ((∀ e, e ∈ q → e.running = true) → exec .backfillDispatch s = .next { s with last := .event })
    ∧ ∀ e, q.find? (fun e => !e.running) = some e →
      let x := s.box e.box
      (16 ≤ (q.filter (·.running)).length ∨ x.state ≠ .free ∧ 64 ≤ x.queue.length → exec .backfillDispatch s = .next { s with last := .event })
      ∧ ((q.filter (·.running)).length < 16 → x.queue.length < 64 → x.state ≠ .free →
          (∃ k, s.block e.lbh = some k ∧ k.asid = x.asid ∧ s.admits e.box k = true) →
          ∃ t l, exec .backfillDispatch s = .next t ∧ (t.box e.box).queue = x.queue ++ [l] ∧ l.lbh = e.lbh ∧ l.source = some e.source
            ∧ l.queue = none ∧ l.args = some ([nbits e.raw.toNat 0 32, nbits e.raw.toNat 32 32, nbits e.raw.toNat 64 16,
                nbits e.raw.toNat 80 16, nbits e.raw.toNat 128 64, nbits e.raw.toNat 192 32, nbits e.raw.toNat 96 32, e.source].map
                  (BitVec.ofNat 64 ·))
            ∧ { e with running := true } ∈ (t.die s.cur.at_).backfill ∧ ∀ b, b ≠ e.box → KeepsBox (s.box b) (t.box b))

/-- R337, R338, R339: `CompactCopiesAccepted` and `BackfillQueuesAndDispatches` hold. -/
def Obligations.CompactionAndBackfill : Prop :=
  Sys2Proof.Spec.CompactCopiesAccepted ∧ Sys2Proof.Spec.BackfillQueuesAndDispatches

/-- R205, R209, R315, R366: XINV leaves no cached translation of its pages; ASPACE, on a root's queue only, writes an ASID's entry,
which is not cleared while a box uses it; TRACK arms a dirty log, its PROD and CONS written as 0, or disarms it. An operand
outside its range gives RANGE. (Which statuses operands outside their ranges get is the model's choice, notes/assumptions/46.md.) -/
def Obligations.AddressSpaceCommands : Prop :=
  ∀ (s : State) (p : Packet), s.inv → AtQueue s → p.compl.toNat % 8 = 0 →
    let asid := opnd p 0x10 2
    (let n := opnd p 0x20 4
     let first := opnd p 0x18 8 / 65536
     (n = 0 ∨ 65536 < n → Completes (.xinv p) s s p false false 3 none)
     ∧ (0 < n → n ≤ 65536 → ∃ c, Completes (.xinv p) s { s with tcache := c } p false false 0 none
          ∧ ∀ e, e ∈ c ↔ e ∈ s.tcache ∧ ¬ (e.1 = asid ∧ first ≤ e.2.1 ∧ e.2.1 < first + n)))
    ∧ (let v := opnd p 0x12 1
       let root := opnd p 0x18 8
       (¬ RootCommand s p → OwnerRefused (.aspace p) s p false)
       ∧ (RootCommand s p →
          (1 < v ∨ 2 ^ 52 ≤ root ∨ root % 2 ^ 18 ≠ 0 → Completes (.aspace p) s s p false false 3 none)
          ∧ (v ≤ 1 → root < 2 ^ 52 → root % 2 ^ 18 = 0 →
            let used := ∃ q, q ∈ s.boxes ∧ q.2.state ≠ .free ∧ q.2.asid.toNat = asid
            (v = 0 → used → Completes (.aspace p) s s p false false 4 none)
            ∧ (v = 1 ∨ ¬ used → ∃ a, Completes (.aspace p) s { s with asids := a } p false false 0 none
                ∧ sget ⟨false, 0⟩ a asid = ⟨decide (v = 1), BitVec.ofNat 52 root⟩
                ∧ ∀ k, k ≠ asid → sget ⟨false, 0⟩ a k = sget ⟨false, 0⟩ s.asids k))))
    ∧ (let log := opnd p 0x12 1
       let arm := opnd p 0x13 1
       let va := opnd p 0x18 8
       let rest := s.dirty.filter fun g => g.asid != asid
       (arm = 0 → Completes (.track p) s { s with dirty := rest } p false false 0 none)
       ∧ (1 < arm ∨ arm = 1 ∧ (log < 6 ∨ 20 < log ∨ va % 64 ≠ 0) → Completes (.track p) s s p false false 3 none)
       ∧ (arm = 1 → 6 ≤ log → log ≤ 20 → va % 64 = 0 → ∀ y, FrontWrites s y 0 va (List.replicate 16 0) →
            Completes (.track p) s { y with dirty := rest ++ [⟨asid, BitVec.ofNat 64 va, log, false⟩] } p false false 0 none))

/-- R292, R293, R366: a REGION command on a root by its own queue, or on a block under QOWN whose parent is accepted, gives the die
its own copy of the block's fields; a block that breaks R293 gives RANGE, and a root or a block that is not the queue's gives
OWNER. (Here for DBGKEY 0.) -/
def Sys2Proof.Spec.RegionsAccepted : Prop :=
  ∀ (s s1 : State) (p : Packet) (b : List Byte), s.inv → AtQueue s → p.compl.toNat % 8 = 0 →
    let d := s.cur.at_
    let va := BitVec.ofNat 64 (opnd p 0x10 8)
    let own := s.myQueue.own
    let root := fieldOf b 0x19 1 / 2 % 2 = 1
    (va.toNat % 64 ≠ 0 → Completes (.region p) s s p false false 3 none)
    ∧ (va.toNat % 64 = 0 → s.frontRead 0 va 64 = .ok b s1 →
      let mine := root ∧ va = own ∧ (RootCommand s p ∨ s.region d own = none)
        ∨ ¬ root ∧ s.region d (BitVec.ofNat 64 (fieldOf b 0 8)) ≠ none ∧ (va = own ∨ s.under d (BitVec.ofNat 64 (fieldOf b 0 8)) own = true)
      (root → va ≠ own ∨ s.region d own ≠ none ∧ ¬ RootCommand s p →
        ∃ z, OneRasRecord s z d ∧ Completes (.region p) s z p false false 2 none)
      ∧ (¬ root → rcbSound b = true → fieldOf b 0x30 8 = 0 → s.region d (BitVec.ofNat 64 (fieldOf b 0 8)) ≠ none → va ≠ own →
          s.under d (BitVec.ofNat 64 (fieldOf b 0 8)) own = false →
          ∃ z, OneRasRecord s z d ∧ Completes (.region p) s z p false false 2 none)
      ∧ (mine → rcbSound b = false → Completes (.region p) s s1 p false false 3 none)
      ∧ (mine → rcbSound b = true → fieldOf b 0x30 8 = 0 →
          let r := blockOf va d b (s.region d va) none s.timeb
          let z1 := s1.putRegion r
          (z1.regionOk r = false → Completes (.region p) s s1 p false false 3 none)
          ∧ (z1.regionOk r = true → r.isoOvr = false ∨ s.security = .w ∨ s.keyOf r.iso ≠ none ∨ s.keys.length < 4096 →
              ∃ z, Completes (.region p) s z p false false 0 none ∧ z.region d va = some r ∧ z.mem = s1.mem
                ∧ (∀ a, a ≠ va → z.region d a = s.region d a)
                ∧ (r.isoOvr = true → s.security ≠ .w → z.keyOf r.iso ≠ none)
                ∧ (r.isoOvr = true → s.keyOf r.iso ≠ none → z.keyOf r.iso = s.keyOf r.iso))))

/-- R320, R324, R366: RCLOCK writes the default clock request of a region under QOWN; MODEL adds the templates of its record to the
region's table, all or none: a template that breaks R324, or whose index is there, gives RANGE. An RCB that the die has not
accepted gives RANGE, one outside QOWN's subtree OWNER. -/
def Sys2Proof.Spec.RegionTables : Prop :=
  ∀ (s : State) (p : Packet), AtQueue s → p.compl.toNat % 8 = 0 →
    let d := s.cur.at_
    let va := BitVec.ofNat 64 (opnd p 0x10 8)
    (∀ i, i ∈ [Instr.rclock p, Instr.model p] →
      (s.region d va = none → Completes i s s p false false 3 none)
      ∧ (s.region d va ≠ none → s.under d va s.myQueue.own = false → OwnerRefused i s p false))
    ∧ ∀ r, s.region d va = some r → s.under d va s.myQueue.own = true →
      (∃ z, Completes (.rclock p) s z p false false 0 none ∧ z.region d va = some { r with clock := BitVec.ofNat 16 (opnd p 0x18 2) }
        ∧ z.mem = s.mem ∧ z.tiles = s.tiles ∧ z.boxes = s.boxes ∧ ∀ a, a ≠ va → z.region d a = s.region d a)
      ∧ (opnd p 0x20 4 = 0 → Completes (.model p) s s p false false 0 none)
      ∧ (4352 < opnd p 0x20 4 → Completes (.model p) s s p false false 3 none)
      ∧ ∀ i l s1, i < 32 → 1 ≤ l.length → l.length ≤ 64 → opnd p 0x20 4 = (templateBytes i l).length →
          s.frontRead s.myQueue.asid.toNat (BitVec.ofNat 64 (opnd p 0x18 8)) (templateBytes i l).length = .ok (templateBytes i l) s1 →
          let there := ∃ q, q ∈ r.templates ∧ q.1 = i
          (¬ TemplateRules l ∨ there → Completes (.model p) s s1 p false false 3 none)
          ∧ (TemplateRules l → ¬ there → (r.templates.map (·.1)).Nodup →
              ∃ z, Completes (.model p) s z p false false 0 none ∧ z.region d va = some { r with templates := r.templates ++ [(i, l)] }
                ∧ ∀ a, a ≠ va → z.region d a = s.region d a)

/-- R292, R293, R320, R324, R366: `RegionsAccepted` and `RegionTables` hold. (How a root's acceptance and the parents' budgets are
checked is the model's reading, notes/assumptions/42.md; that MODEL of length 0 succeeds, notes/assumptions/40.md.) -/
def Obligations.RegionCommands : Prop :=
  Sys2Proof.Spec.RegionsAccepted ∧ Sys2Proof.Spec.RegionTables

/-- R254, R255, R264, R269, R366: CHBIND binds a chain with its ring, its sequence word and an engine of the die, whose number is
the RESULT; unbinding waits until every fetched command has completed. PRBIND binds both ends of a pair, with SSEQ and RSEQ 1, or
unbinds both. What is bound already, or not bound, gives STATE; an operand outside its range, or a pool that R254 refuses,
RANGE. (What an unbind drops, and the places that a pair with itself takes, are the model's reading, notes/assumptions/50.md.) -/
def Obligations.BindingCommands : Prop :=
  ∀ (s : State) (p : Packet), s.inv → AtQueue s → Commands s p →
    let b := p.box.toNat
    let c := opnd p 0x10 1
    let un := opnd p 0x11 1
    (8 ≤ c ∨ 1 < un → Completes (.chbind p) s s p false true 3 none ∧ Completes (.prbind p) s s p false true 3 none)
    ∧ (c < 8 → un ≤ 1 →
      (let x := s.chain b c
       let base := opnd p 0x18 8
       let seq := opnd p 0x20 8
       let qmin := opnd p 0x28 2
       let qcap := opnd p 0x2A 2
       let pool := s.otherChains b c
       let fits := 1 ≤ qmin ∧ qmin ≤ qcap ∧ qcap ≤ 8192 ∧ pool.length < 2048 ∧ (pool.map (·.qmin)).sum + qmin ≤ 8192
       let good := base < 2 ^ 57 ∧ base / 16 % 256 = 0 ∧ base % 16 ≤ 12 ∧ seq % 8 = 0 ∧ fits
       ((un = 1 ↔ x.v = false) → Completes (.chbind p) s s p false true 4 none)
       ∧ (un = 0 → x.v = false → ¬ good → Completes (.chbind p) s s p false true 3 none)
       ∧ (un = 0 → x.v = false → good → ∃ z e, e < 64 ∧ Completes (.chbind p) s z p false true 0 (some e)
            ∧ z.chain b c = { Chain.reset with v := true, base := BitVec.ofNat 64 (base / 4096 * 4096), logn := BitVec.ofNat 4 base,
                                               seqaddr := BitVec.ofNat 64 seq, eng := BitVec.ofNat 6 e,
                                               qmin := BitVec.ofNat 16 qmin, qcap := BitVec.ofNat 16 qcap }
            ∧ z.mem = s.mem ∧ (∀ a, a ≠ c → z.chain b a = s.chain b a) ∧ ∀ a, a ≠ b → z.box a = s.box a)
       ∧ (un = 1 → x.v = true → x.cmds = [] → ∃ z, Completes (.chbind p) s z p false true 0 (some x.eng.toNat)
            ∧ z.chain b c = Chain.reset ∧ z.mem = s.mem ∧ ∀ a, a ≠ b → z.box a = s.box a)
       ∧ (un = 1 → x.v = true → x.cmds ≠ [] → ∃ t, exec (.chbind p) s = .next t ∧ (t.chain b c).stopped = true ∧ (t.chain b c).pubs = []
            ∧ (t.chain b c).tail = x.head ∧ (t.chain b c).cmds = x.cmds ∧ t.myQueue = s.myQueue))
      ∧ (let x := s.pair b c
         let pc := opnd p 0x12 1
         let pb := opnd p 0x14 2
         let qmin := opnd p 0x16 2
         let qcap := opnd p 0x18 2
         (un = 1 → x.v = false → Completes (.prbind p) s s p false true 4 none)
         ∧ (un = 1 → x.v = true → ∃ z, Completes (.prbind p) s z p false true 0 none ∧ z.pair b c = Pair.reset
              ∧ (x.ppair.toNat < 8 → z.pair x.pbox.toNat x.ppair.toNat = Pair.reset) ∧ z.mem = s.mem ∧ z.tiles = s.tiles)
         ∧ (un = 0 → (s.box pb).state = .free → Completes (.prbind p) s s p false true 4 none)
         ∧ (un = 0 → (s.box pb).state ≠ .free → s.under (boxDie pb) (s.box pb).rcb s.myQueue.own = false → OwnerRefused (.prbind p) s p true)
         ∧ (un = 0 → (s.box pb).state ≠ .free → s.under (boxDie pb) (s.box pb).rcb s.myQueue.own = true →
              (8 ≤ pc ∨ (b = pb ∧ c = pc) → Completes (.prbind p) s s p false true 3 none)
              ∧ (pc < 8 → ¬ (b = pb ∧ c = pc) →
                  (x.v = true ∨ (s.pair pb pc).v = true → Completes (.prbind p) s s p false true 4 none)
                  ∧ (x.v = false → (s.pair pb pc).v = false →
                      let fits := s.pairPools b c pb pc qmin qcap = true ∧ s.pairFits b pb qcap = true
                      let bound := fun (o oc : Nat) => (⟨true, 1, 1, BitVec.ofNat 16 o, BitVec.ofNat 3 oc, BitVec.ofNat 16 qmin,
                        BitVec.ofNat 16 qcap, [], []⟩ : Pair)
                      (¬ fits → Completes (.prbind p) s s p false true 3 none)
                      ∧ (fits → ∃ z, Completes (.prbind p) s z p false true 0 none ∧ z.pair b c = bound pb pc
                          ∧ z.pair pb pc = bound b c ∧ z.mem = s.mem ∧ z.tiles = s.tiles))))))

/-- R366, R372: ATTEST, KEYEXP and KEYIMP run on a root's queue only. ATTEST writes the report of 224 bytes, signed with the identity
key; KEYEXP writes the region key of an isolation domain wrapped under the key shared with the peer, and gives KEY without such a
key or in state T; KEYIMP installs a key, and gives KEY where another one is held and RANGE where the unwrap check fails or the
store is full. (What bytes stand for the states, little-endian integers, and KEY and RANGE where the rule names no status, are the
model's choice, notes/assumptions/46.md.) -/
def Obligations.IdentityAndKeys : Prop :=
  ∀ (s : State) (p : Packet), AtQueue s → p.compl.toNat % 8 = 0 →
    (¬ RootCommand s p → ∀ i, i ∈ [Instr.attest p, Instr.keyexp p, Instr.keyimp p] → OwnerRefused i s p false)
    ∧ (RootCommand s p →
      let asid := s.myQueue.asid.toNat
      let iso := BitVec.ofNat 16 (opnd p 0x10 2)
      let out := opnd p 0x20 8
      (∃ r : List Byte, r.length = 224 ∧ fieldOf r 4 1 = (match s.security with | .n => 0 | .t => 1 | .w => 2)
        ∧ fieldOf r 5 1 = (match s.debug with | .d0 => 0 | .d1 _ _ => 1 | .d2 => 2) ∧ fieldOf r 6 1 = (if s.fw.runB then 1 else 0)
        ∧ fieldOf r 7 1 = 0 ∧ fieldOf r 8 2 = s.fw.a.ver.toNat ∧ fieldOf r 10 2 = s.fw.b.ver.toNat ∧ fieldOf r 12 4 = 0
        ∧ (r.drop 16).take 32 = sha256 (if s.fw.runB then s.fw.b.image else s.fw.a.image)
        ∧ (r.drop 48).take 32 = toBytes 32 (opnd p 0x10 32) ∧ fieldOf r 80 8 = s.timeb % 2 ^ 64 ∧ fieldOf r 88 8 = Config.serial.toNat
        ∧ (∃ k, 1 ≤ k ∧ k < pOrder ∧ r.drop 160 = toBytes 32 (ecdsaSign Config.identityKey k (r.take 160)).1
            ++ toBytes 32 (ecdsaSign Config.identityKey k (r.take 160)).2)
        ∧ ∀ y, FrontWrites { s with fresh := s.fresh + 1 } y asid (opnd p 0x30 8) r → Completes (.attest p) s y p false false 0 none)
      ∧ (s.security = .t ∨ s.keyOf iso = none → Completes (.keyexp p) s s p false false 8 none)
      ∧ ∀ s1 k, s.frontRead asid (BitVec.ofNat 64 (opnd p 0x18 8)) 64 = .ok k s1 →
          (∀ key, s.security ≠ .t → s.keyOf iso = some key →
            (kekOf (fieldOf k 0 32) (fieldOf k 32 32) = none → Completes (.keyexp p) s s1 p false false 3 none)
            ∧ (∀ kek y, kekOf (fieldOf k 0 32) (fieldOf k 32 32) = some kek → FrontWrites s1 y asid out (keyWrap kek key) →
                Completes (.keyexp p) s y p false false 0 none))
          ∧ (kekOf (fieldOf k 0 32) (fieldOf k 32 32) = none → Completes (.keyimp p) s s1 p false false 3 none)
          ∧ ∀ kek s2 w, kekOf (fieldOf k 0 32) (fieldOf k 32 32) = some kek → s1.frontRead asid (BitVec.ofNat 64 out) 40 = .ok w s2 →
              (keyUnwrap kek w = none → Completes (.keyimp p) s s2 p false false 3 none)
              ∧ ∀ key, keyUnwrap kek w = some key →
                  (∀ old, s.keyOf iso = some old → Completes (.keyimp p) s s2 p false false (if old = key then 0 else 8) none)
                  ∧ (s.keyOf iso = none → 4096 ≤ s.keys.length → Completes (.keyimp p) s s2 p false false 3 none)
                  ∧ (s.keyOf iso = none → s.keys.length < 4096 → ∃ z, Completes (.keyimp p) s z p false false 0 none
                      ∧ z.keyOf iso = some key ∧ z.mem = s2.mem ∧ ∀ j, j ≠ iso → z.keyOf j = s.keyOf j))

/-- R366, R375, R376, R378: KEYWIPE, once every box is FREE, leaves no key, tile SRAM zero and state W. A token that is in time, for
this device, signed, and of the root's debug key, opens D1 from N; any other gives KEY. A DEBUG of VA 0, or the expiry, ends D1;
D2 ends by reset only. Each change leaves one RAS record. (DEBUG of VA 0 in D2 gives STATE by the model's choice,
notes/assumptions/46.md.) -/
def Obligations.SecurityAndDebug : Prop :=
  (∀ (s : State) (p : Packet), AtQueue s → p.compl.toNat % 8 = 0 →
    (¬ RootCommand s p → OwnerRefused (.keywipe p) s p false ∧ OwnerRefused (.debugCmd p) s p false)
    ∧ (RootCommand s p →
      let free := ∀ q, q ∈ s.boxes → q.2.state = .free
      ((∃ r e, s.debug = .d1 r e) → Completes (.keywipe p) s s p false false 8 none)
      ∧ ((∀ r e, s.debug ≠ .d1 r e) → ¬ free → Completes (.keywipe p) s s p false false 4 none)
      ∧ ((∀ r e, s.debug ≠ .d1 r e) → free → ∃ m, Completes (.keywipe p) s { s with mem := m, keys := [], security := .w } p false false 0 none
          ∧ ∀ a, Mem.read m a = if 0x1000000000000 ≤ a ∧ a < 0x1000028000000 then 0 else s.mem.read a)
      ∧ (s.security = .t → Completes (.debugCmd p) s s p false false 8 none)
      ∧ (s.security ≠ .t → opnd p 0x18 8 = 0 →
          (s.debug = .d2 → Completes (.debugCmd p) s s p false false 4 none)
          ∧ (s.debug = .d0 → Completes (.debugCmd p) s s p false false 0 none)
          ∧ ((∃ r e, s.debug = .d1 r e) → ∃ z, Completes (.debugCmd p) s z p false false 0 none ∧ z.debug = .d0 ∧ OneRasRecord s z s.cur.at_))
      ∧ ∀ b s1, s.security ≠ .t → opnd p 0x18 8 ≠ 0 →
          s.frontRead s.myQueue.asid.toNat (BitVec.ofNat 64 (opnd p 0x18 8)) 184 = .ok b s1 →
          let rcb := BitVec.ofNat 64 (fieldOf b 0 8)
          let expiry := BitVec.ofNat 64 (fieldOf b 16 8)
          let good := s.timeb < expiry.toNat ∧ BitVec.ofNat 64 (fieldOf b 8 8) = Config.serial
            ∧ ecdsaVerify (fieldOf b 56 32) (fieldOf b 88 32) (b.take 120) (fieldOf b 120 32) (fieldOf b 152 32) = true
          let owner := ∃ r, (s.chainOf s.cur.at_ rcb).find? (·.root) = some r ∧ r.dbgkey = some (sha256 ((b.drop 56).take 64))
          let vendor := fieldOf b 56 32 = Config.vendorKeyX ∧ fieldOf b 88 32 = Config.vendorKeyY
          (good → s.security = .n → s.debug ≠ .d2 → s.debug ≠ .d1 rcb expiry → owner →
            ∃ z, Completes (.debugCmd p) s z p false false 0 none ∧ z.debug = .d1 rcb expiry ∧ OneRasRecord s z s.cur.at_)
          ∧ (good → s.security = .w → s.debug = .d0 → vendor →
            ∃ z, Completes (.debugCmd p) s z p false false 0 none ∧ z.debug = .d2 ∧ OneRasRecord s z s.cur.at_)
          ∧ (¬ good ∨ (s.security = .n ∧ (s.debug = .d2 ∨ ¬ owner)) ∨ (s.security = .w ∧ (s.debug ≠ .d0 ∨ ¬ vendor)) →
            Completes (.debugCmd p) s s1 p false false 8 none)))
  ∧ ∀ (s : State), s.cur.at_ < 4 →
    (∀ r e, s.debug = .d1 r e → e.toNat ≤ s.timeb → ∃ t, exec .debugExpiry s = .next t ∧ t.debug = .d0 ∧ OneRasRecord s t s.cur.at_)
    ∧ ((∀ r e, s.debug = .d1 r e → s.timeb < e.toNat) → exec .debugExpiry s = .next { s with last := .event })

/-- R365, R377, R378: POWER 2 puts a die with no RUNNING or READY box to sleep, and ends D1; POWER 3 the package, whose HBM is kept,
once its PARKED boxes are swapped out, until when no box changes; POWER 0 wakes all. A die wakes for a READY box or a doorbell, the
package for a doorbell or an armed deadline; a tile free for 10 microseconds is gated. (POWER of another target gives RANGE by the
model's choice, notes/assumptions/46.md; what a sleep waits for is its reading, notes/assumptions/48.md.) -/
def Obligations.PowerStates : Prop :=
  (∀ (s : State) (p : Packet), AtQueue s → p.compl.toNat % 8 = 0 →
    let target := opnd p 0x10 1
    let busy := fun d => ∃ q, q ∈ s.boxes ∧ boxDie q.1 = d ∧ (q.2.state = .running ∨ q.2.state = .ready)
    (¬ RootCommand s p → OwnerRefused (.power p) s p false)
    ∧ (RootCommand s p →
      (target = 1 ∨ 3 < target → Completes (.power p) s s p false false 3 none)
      ∧ (target = 0 → ∃ z, Completes (.power p) s z p false false 0 none ∧ z = { s with dies := z.dies, ps3 := false }
          ∧ ∀ d, d < 4 → z.die d = { s.die d with ps2 := false, rung := false })
      ∧ (target = 2 → s.security = .w → s.debug = .d2 → Completes (.power p) s s p false false 8 none)
      ∧ (target = 2 → ¬ (s.security = .w ∧ s.debug = .d2) → busy s.cur.at_ → Completes (.power p) s s p false false 4 none)
      ∧ (target = 2 → ¬ (s.security = .w ∧ s.debug = .d2) → ¬ busy s.cur.at_ → ∃ z, Completes (.power p) s z p false false 0 none
          ∧ (z.die s.cur.at_).ps2 = true ∧ (z.die s.cur.at_).rung = false ∧ (∀ r e, z.debug ≠ .d1 r e) ∧ ((∃ r e, s.debug = .d1 r e) → OneRasRecord s z s.cur.at_))
      ∧ (target = 3 → s.security = .t → Completes (.power p) s s p false false 4 none)
      ∧ (target = 3 → s.security = .w → Completes (.power p) s s p false false 8 none)
      ∧ (target = 3 → s.security = .n → (∃ d, d < 4 ∧ busy d) → Completes (.power p) s s p false false 4 none)
      ∧ (target = 3 → s.security = .n → (∀ d, d < 4 → ¬ busy d) → ∀ b x, s.boxes.filter (fun q => q.2.state == .parked && q.2.live) = [(b, x)] →
          (s.settled b = false → ∃ t, exec (.power p) s = .next t ∧ t = { s with want := t.want, last := .event })
          ∧ (s.settled b = true → s.debug = .d0 → x.reason ≠ 0x0D → ∀ n z2, s.writeImage b (s.tileRanks b 1) 1 false = some (n, z2) →
              ∃ z, Completes (.power p) s z p false false 0 none ∧ z.ps3 = true ∧ (z.box b).state = .swapped ∧ (z.box b).live = false
                ∧ ∀ a, placeOf a = .hbm (a / 0x2400000000) → z.mem.read a = z2.mem.read a))
      ∧ (target = 3 → s.security = .n → (∀ d, d < 4 → ¬ busy d) → (∀ r e, s.debug ≠ .d1 r e) →
          (∀ q, q ∈ s.boxes → q.2.state = .parked → q.2.live = false) →
          ∃ z, Completes (.power p) s z p false false 0 none ∧ z.ps3 = true ∧ (∀ d, d < 4 → (z.die d).ps2 = true)
            ∧ (∀ a, placeOf a = .hbm (a / 0x2400000000) → z.mem.read a = s.mem.read a) ∧ z.keys = s.keys ∧ z.boxes = s.boxes
            ∧ (∀ a, 0x1000000000000 ≤ a → a < 0x1000028000000 → z.mem.read a = 0) ∧ ∀ u, u < 160 → (z.tile u).full = [])))
  ∧ ∀ (s : State),
    (s.cur.at_ < 160 →
      let x := s.here
      let due := x.box = none ∧ x.freeSince + 10000 ≤ s.timeb
      (due → ∃ t, exec .tileGate s = .next t ∧ t.here = { x with gated := true } ∧ OnlyTile s.cur.at_ s t)
      ∧ (¬ due → exec .tileGate s = .next { s with last := .event }))
    ∧ ((s.cur.at_ < 4 →
         let why := s.ps3 = false ∧ ((s.die s.cur.at_).rung = true
           ∨ ∃ q, q ∈ s.boxes ∧ boxDie q.1 = s.cur.at_ ∧ (q.2.state = .running ∨ q.2.state = .ready))
         (why → ∃ t, exec .dieWake s = .next t ∧ t.die s.cur.at_ = { s.die s.cur.at_ with ps2 := false, rung := false }
            ∧ t.mem = s.mem ∧ t.boxes = s.boxes)
         ∧ (¬ why → exec .dieWake s = .next { s with last := .event }))
       ∧ (let why := s.ps3 = true ∧ ((∃ q, q ∈ s.boxes ∧ q.2.dl = true ∧ q.2.deadline.toNat ≤ s.timeb) ∨ ∃ d, d < 4 ∧ (s.die d).rung = true)
          (why → ∃ t, exec .packageWake s = .next t ∧ t.ps3 = false ∧ ∀ d, d < 4 → (t.die d).ps2 = false)
          ∧ (¬ why → exec .packageWake s = .next { s with last := .event })))

/-- R371, R373, R376: FWLOAD writes the inactive slot, which the next reset boots on trial, when the image verifies under the vendor
key and its version is not below the rollback floor, and gives KEY otherwise. FWCOMMIT ends the trial and raises the floor; written
without a trial, or with another value, it is ignored. Package reset leaves every box FREE, no key and tile SRAM zero; a trial not
committed within 30 s resets the package to the other slot, on trial where that was written meanwhile, and leaves a RAS record; so
does a reset that ends D1 or D2, on die 0 (notes/assumptions/6.md). (What the bytes of an image name as its body, signature and
version is opaque, notes/assumptions/47.md; what a reset keeps is the model's reading, notes/assumptions/48.md.) -/
def Obligations.FirmwareSlots : Prop :=
  (∀ (s : State) (p : Packet), AtQueue s → p.compl.toNat % 8 = 0 →
    (¬ RootCommand s p → OwnerRefused (.fwload p) s p false)
    ∧ (RootCommand s p → ∀ b s1, s.frontRead s.myQueue.asid.toNat (BitVec.ofNat 64 (opnd p 0x18 8)) (opnd p 0x20 4) = .ok b s1 →
      let ver := BitVec.ofNat 16 (Config.fwVersion b)
      let good := ecdsaVerify Config.vendorKeyX Config.vendorKeyY (Config.fwBody b) (Config.fwSignature b).1 (Config.fwSignature b).2 = true
        ∧ s.fw.floor.toNat ≤ ver.toNat
      (¬ good → Completes (.fwload p) s s1 p false false 8 none)
      ∧ (good → Completes (.fwload p) s { s1 with fw :=
            (if s.fw.runB then { s.fw with a := ⟨ver, b⟩, nextB := false } else { s.fw with b := ⟨ver, b⟩, nextB := true }) }
          p false false 0 none)))
  ∧ ∀ (s : State) (v : Word),
    (v ≠ 1 ∨ s.fw.trial = false → exec (.fwcommit v) s = .next { s with last := .event })
    ∧ (s.fw.trial = true →
        let ver := if s.fw.runB then s.fw.b.ver else s.fw.a.ver
        exec (.fwcommit 1) s = .next { s with
          fw := { s.fw with trial := false, floor := if s.fw.floor.toNat ≤ ver.toNat then ver else s.fw.floor }
          security := (if s.security = .t then .n else s.security), last := .event })
    ∧ (∃ t, exec .packageReset s = .next t ∧ t.fw.runB = s.fw.nextB ∧ t.fw.a = s.fw.a ∧ t.fw.b = s.fw.b ∧ t.fw.floor = s.fw.floor
        ∧ (t.fw.trial = true ↔ s.fw.nextB ≠ s.fw.runB ∨ s.fw.trial = true) ∧ t.security = (if t.fw.trial then .t else .n)
        ∧ t.debug = .d0 ∧ t.ps3 = false ∧ t.boxes = [] ∧ t.keys = [] ∧ t.timeb = s.timeb ∧ t.tiles = State.reset.tiles
        ∧ (s.debug = .d0 → t.dies = State.reset.dies)
        ∧ (s.debug ≠ .d0 → (∃ r, (t.die 0).records = [r] ∧ r.code = 0xE3) ∧ ∀ d, 0 < d → d < 4 → t.die d = State.reset.die d)
        ∧ ∀ a, t.mem.read a = if 0x1000000000000 ≤ a ∧ a < 0x1000028000000 then 0 else s.mem.read a)
    ∧ (s.fw.trial = true → s.fw.since + 30000000000 ≤ s.timeb → ∃ t, exec .fwRevert s = .next t ∧ t.fw.runB = (!s.fw.runB)
        ∧ (t.fw.trial = true ↔ s.fw.nextB ≠ s.fw.runB) ∧ t.security = (if t.fw.trial then .t else .n) ∧ t.boxes = []
        ∧ ∃ l r, (t.die 0).records = l ++ [r] ∧ r.code = 0xE2)
    ∧ (s.fw.trial = false ∨ s.timeb < s.fw.since + 30000000000 → exec .fwRevert s = .next { s with last := .event })

/-- R364, R377, R385: a 32-bit doorbell write sets QTAIL, and wakes a die or a package that sleeps; one of another width is dropped
with a RAS record. -/
def Sys2Proof.Spec.Doorbells : Prop :=
  ∀ (s : State) (d q w : Nat) (v : Word), d < 4 → q < 32 →
    (w = 4 → ∃ t, exec (.doorbell d q w v) s = .next t ∧ t.mq d q = { s.mq d q with tail := v.setWidth 32 }
      ∧ t = { s with dies := t.dies, agenda := t.agenda, last := .event } ∧ (∀ e, e ≠ d → t.die e = s.die e)
      ∧ (∀ r, r ≠ q → t.mq d r = s.mq d r)
      ∧ (t.die d).rung = ((s.die d).rung || (s.die d).ps2)
      ∧ t.agenda = s.agenda ++ (if (s.die d).ps2 = false then [] else if s.ps3 then [.event .packageWake 0] else [.event .dieWake d]))
    ∧ (w ≠ 4 → ∃ t, exec (.doorbell d q w v) s = .next t ∧ OneRasRecord s t d ∧ t.mq d q = s.mq d q)

/-- R266, R363, R379, R382, R386, R387: an aligned 8-byte store writes the register of the die control page at its offset, its field
only; those of the package on die 0 alone; an offset that R363 does not list or calls RO is ignored; a store of another width or
alignment is dropped with a RAS record. (That QCTL keeps bits [1:0] is the model's reading, DEDUCED, notes/assumptions/49.md; that
FRLOG and RASLOG have five bits, notes/assumptions/69.md.) -/
def Sys2Proof.Spec.ControlPageWrites : Prop :=
  ∀ (s : State) (d off w : Nat) (v : Word), d < 4 → off < 65536 →
    let x := s.die d
    let becomes := fun (y : Die) => ∃ t, exec (.registerWrite d off 8 v) s = .next t ∧ t.die d = y
      ∧ t = { s with dies := t.dies, last := .event } ∧ ∀ e, e ≠ d → t.die e = s.die e
    let ignored := exec (.registerWrite d off 8 v) s = .next { s with last := .event }
    let n := off / 64
    let c := off / 64 - 32
    (w ≠ 8 ∨ off % 8 ≠ 0 → ∃ t, exec (.registerWrite d off w v) s = .next t ∧ OneRasRecord s t d ∧ t.boxes = s.boxes)
    ∧ (off < 0x800 →
        let put := fun f => becomes { x with queues := vupd x.queues n f }
        (off % 64 = 0 → put fun m => { m with base := v }) ∧ (off % 64 = 8 → put fun m => { m with log := v.setWidth 4 })
        ∧ (off % 64 = 16 → put fun m => { m with asid := v.setWidth 16 }) ∧ (off % 64 = 24 → put fun m => { m with own := v })
        ∧ (off % 64 = 32 → put fun m => { m with ctl := v.setWidth 8 &&& 3 })
        ∧ (off % 64 = 40 → exec (.registerWrite d off 8 v) s = exec (.doorbell d n 4 v) s)
        ∧ (off % 64 = 48 ∨ off % 64 = 56 → ignored))
    ∧ (0x800 ≤ off → off < 0x900 →
        let put := fun f => becomes { x with cores := vupd x.cores c f }
        (off % 64 = 0 → put fun m => { m with base := v }) ∧ (off % 64 = 8 → put fun m => { m with log := v.setWidth 5 })
        ∧ (off % 64 = 24 → put fun m => { m with cons := v.setWidth 32 })
        ∧ (off % 64 = 32 → exec (.registerWrite d off 8 v) s =
            exec (if v.getLsbD 32 then .frretCancel d c (v.setWidth 32 : BitVec 32).toNat else .frretResume d c (v.setWidth 32 : BitVec 32).toNat) s)
        ∧ (off % 8 = 0 → off % 64 = 16 ∨ 40 ≤ off % 64 → ignored))
    ∧ (off = 0x900 → becomes { x with ras := { x.ras with base := v } }) ∧ (off = 0x908 → becomes { x with ras := { x.ras with log := v.setWidth 5 } })
    ∧ (off = 0x918 → becomes { x with ras := { x.ras with cons := v.setWidth 32 } })
    ∧ (off = 0x940 → becomes { x with nring := { x.nring with base := v } })
    ∧ (off = 0x948 → becomes { x with nring := { x.nring with log := (v.setWidth 4 : BitVec 4).setWidth 5 } })
    ∧ (off = 0x958 → becomes { x with nring := { x.nring with cons := v.setWidth 32 } })
    ∧ (off = 0x990 → becomes { x with rselead := v.setWidth 32 }) ∧ (off = 0x998 → becomes { x with rselow := v })
    ∧ (d = 0 → off = 0x988 → exec (.registerWrite d off 8 v) s = exec (.fwcommit (v &&& 0xFFFFFFFF)) s)
    ∧ (d = 0 → 0xA00 ≤ off → off < 0xB00 → off % 8 = 0 → ∃ t, exec (.registerWrite d off 8 v) s = .next t
        ∧ t = { s with attwin := t.attwin, last := .event }
        ∧ ∀ k, k < 16 → vget 0 t.attwin k = (if k ≠ (off - 0xA00) / 16 then vget 0 s.attwin k
            else if off % 16 = 0 then (vget 0 s.attwin k).extractLsb' 64 64 ++ v else v ++ (vget 0 s.attwin k).extractLsb' 0 64))
    ∧ (d = 0 → off = 0xB00 → exec (.registerWrite d off 8 v) s = .next { s with expbase := v, last := .event })
    ∧ (d = 0 → off = 0xB08 → exec (.registerWrite d off 8 v) s = .next { s with expsize := v.setWidth 32, last := .event })
    ∧ (off % 8 = 0 → 0x900 ≤ off → off ∉ [0x900, 0x908, 0x918, 0x940, 0x948, 0x958, 0x990, 0x998] →
        (d = 0 → off ≠ 0x988 ∧ (off < 0xA00 ∨ 0xB10 ≤ off)) → ignored)

/-- R7, R363, R371, R382, R385: an aligned 8-byte load of the die control page answers the register's value; a WO register, one that
is not listed, and one of the package on another die than 0 answer zero, as do the RSV bits of ATTWIN; a load of another width or
alignment answers zero with a RAS record. BAR0 answers NRCONS and NRPROD, and zero beside. -/
def Sys2Proof.Spec.ControlPageReads : Prop :=
  ∀ (s : State) (rest : List Action) (off w : Nat),
    let z : State := { s with agenda := rest, last := .event }
    (∀ d, d < 4 → off < 65536 → s.agenda = .loadReg d off w :: rest →
      let x := s.die d
      let m := s.mq d (off / 64)
      let f := vget ⟨0, 0, 0, 0, []⟩ x.cores (off / 64 - 32)
      let slot := if s.fw.runB then s.fw.b else s.fw.a
      let gives := fun (v : Nat) => step s = .next { z with answer := some (toBytes 8 v) }
      let ring := fun (r : Ring) (o : Nat) =>
        if o = 0 then r.base.toNat else if o = 8 then r.log.toNat else if o = 16 then r.prod.toNat else r.cons.toNat
      (w ≠ 8 ∨ off % 8 ≠ 0 → ∃ t, step s = .next t ∧ OneRasRecord s t d ∧ t.answer = some (List.replicate w 0))
      ∧ (w = 8 → off % 8 = 0 →
        (off < 0x800 → gives (if off % 64 = 0 then m.base.toNat else if off % 64 = 8 then m.log.toNat
          else if off % 64 = 16 then m.asid.toNat else if off % 64 = 24 then m.own.toNat else if off % 64 = 32 then m.ctl.toNat
          else if off % 64 = 40 then m.tail.toNat else if off % 64 = 48 then m.head.toNat else 0))
        ∧ (0x800 ≤ off → off < 0x900 → gives (if off % 64 = 0 then f.base.toNat else if off % 64 = 8 then f.log.toNat
          else if off % 64 = 16 then f.prod.toNat else if off % 64 = 24 then f.cons.toNat else 0))
        ∧ (0x900 ≤ off → off < 0x920 → gives (ring x.ras (off - 0x900))) ∧ (off = 0x920 → gives x.ras.ovf.toNat)
        ∧ (0x940 ≤ off → off < 0x960 → gives (ring x.nring (off - 0x940)))
        ∧ (off = 0x990 → gives x.rselead.toNat) ∧ (off = 0x998 → gives x.rselow.toNat)
        ∧ (d = 0 → off = 0x980 → gives (slot.ver.toNat * 2 ^ 16 + (if s.fw.trial then 8 else 0) + (if s.fw.runB then 4 else 0)))
        ∧ (d = 0 → 0xA00 ≤ off → off < 0xB00 →
            let word : Word := (vget 0 s.attwin ((off - 0xA00) / 16)).extractLsb' (64 * (off / 8 % 2)) 64
            gives (word &&& (if off / 8 % 2 = 0 then 0xFFFCFFFFFFFFFFFF else 0xFFFFFFFFF0000000)).toNat)
        ∧ (d = 0 → off = 0xB00 → gives s.expbase.toNat) ∧ (d = 0 → off = 0xB08 → gives s.expsize.toNat)
        ∧ (off = 0x928 ∨ off = 0x930 ∨ off = 0x938 ∨ 0x960 ≤ off ∧ off < 0x980 ∨ off = 0x988 ∨ 0x9A0 ≤ off ∧ off < 0xA00 ∨ 0xB10 ≤ off
            ∨ d ≠ 0 ∧ (off = 0x980 ∨ 0xA00 ≤ off) → gives 0)))
    ∧ (s.agenda = .barRead off w :: rest → off + w ≤ 0x100000 →
      let r := (s.die (off / 0x40000)).nring
      let gives := fun (b : List Byte) => step s = .next { z with answer := some b }
      (w = 4 → off % 0x40000 = 0x200 → gives (toBytes 4 r.cons.toNat)) ∧ (w = 4 → off % 0x40000 = 0x208 → gives (toBytes 4 r.prod.toNat))
      ∧ (off % 0x40000 + w ≤ 0x200 ∨ 0x20C ≤ off % 0x40000 ∧ off % 0x40000 + w ≤ 0x40000 → gives (List.replicate w 0)))

/-- R35, R70, R383, R387: the loader registers a launch block whose sections keep their limits, or withdraws one that no launch uses.
A link that goes down is down; a trained UALink port comes up with the accelerator's number. A peer's write or atomic to exported
package HBM is performed at its home, and its read and atomic are answered; a read returns no write of the package that is not
released at FABRIC, and what a peer has written is seen at once (notes/assumptions/81.md); a request that is not served is answered with an
error and leaves one RAS record. (A block takes the place of one that has its handle, notes/assumptions/64.md, and the die of that
record is a free choice, notes/assumptions/49.md: both the model's.) -/
def Sys2Proof.Spec.LinksAndLoader : Prop :=
  (∀ (s : State) (b : BlockReg),
    let used := ∃ q, q ∈ s.boxes ∧ ((∃ l, l ∈ q.2.queue ∧ l.lbh = b.handle) ∨ ∃ l, q.2.current = some l ∧ l.lbh = b.handle)
    let rest := s.blocks.filter fun k => k.handle != b.handle
    let fits := b.cwords ≤ 2 ^ 24 ∧ b.vwords ≤ 8192 ∧ b.xwords ≤ 8192 ∧ b.swords ≤ 8192
    (b.withdraw = false → fits → exec (.launchBlockRegistration b) s = .next { s with blocks := rest ++ [b], last := .event })
    ∧ (b.withdraw = false → ¬ fits → exec (.launchBlockRegistration b) s = .next { s with last := .event })
    ∧ (b.withdraw = true → used → exec (.launchBlockRegistration b) s = .next { s with last := .event })
    ∧ (b.withdraw = true → ¬ used → exec (.launchBlockRegistration b) s = .next { s with blocks := rest, last := .event }))
  ∧ (∀ (s : State) (k : Nat) (a : BitVec 10), k < 10 →
    (∃ t, exec (.linkDown k) s = .next t ∧ t = { s with links := t.links, last := .event }
      ∧ ∀ j, j < 10 → t.links.getLsbD j = (decide (j ≠ k) && s.links.getLsbD j))
    ∧ (k < 2 → exec (.linkTraining k a) s = .next { s with last := .event })
    ∧ (2 ≤ k → ∃ t, exec (.linkTraining k a) s = .next t ∧ t = { s with links := t.links, accid := a, last := .event }
      ∧ ∀ j, j < 10 → t.links.getLsbD j = (decide (j = k) || s.links.getLsbD j)))
  ∧ ∀ (s : State) (r : PeerReq), s.inv →
    let n := match r.op with | .read n => n | .write d => d.length | .atomic _ n _ _ => n
    let pa := s.expbase.toNat + r.off
    let ok := 2 ≤ r.link ∧ r.link < 10 ∧ s.links.getLsbD r.link = true ∧ 0 < n ∧ r.off + n ≤ s.expsize.toNat * 2 ^ 28
      ∧ pa + n ≤ 0x9000000000 ∧ ∀ op m a b, r.op = .atomic op m a b → (m = 4 ∨ m = 8) ∧ pa % m = 0 ∧ op.toNat ≤ 6
    (¬ ok → ∃ t d, exec (.ualinkRequest r) s = .next t ∧ d < 4 ∧ OneRasRecord s t d ∧ t.boxes = s.boxes ∧ t.answer = none)
    ∧ (ok → (∀ m, r.op = .read m → exec (.ualinkRequest r) s =
              .next { s with
                answer := some ((rangeFrom pa m).map fun l => ((s.unseen.find? (·.loc == l)).map (·.old)).getD (s.mem.read l))
                last := .event })
        ∧ (∀ ds, r.op = .write ds → ∃ t, exec (.ualinkRequest r) s = .next t ∧ t = { s with mem := t.mem, unseen := t.unseen, answer := some [], last := .event }
            ∧ t.unseen = s.unseen.filter (fun u => !(decide (pa ≤ u.loc) && decide (u.loc < pa + n))) ∧ ∀ a, t.mem.read a = if pa ≤ a ∧ a < pa + n then (ds[a - pa]?).getD 0 else s.mem.read a)
        ∧ (∀ op m a b, r.op = .atomic op m a b → a < 2 ^ (8 * m) → b < 2 ^ (8 * m) → ∃ t, exec (.ualinkRequest r) s = .next t
            ∧ t = { s with mem := t.mem, unseen := t.unseen, answer := some ((rangeFrom pa m).map (s.mem.read ·)), last := .event }
            ∧ t.unseen = s.unseen.filter (fun u => !(decide (pa ≤ u.loc) && decide (u.loc < pa + m)))
            ∧ ∀ l, t.mem.read l = if pa ≤ l ∧ l < pa + m then
                ((toBytes m (Answered.hbmAtomic op.toNat m (toBytes m a ++ toBytes m b) (ofBytes ((rangeFrom pa m).map (s.mem.read ·)))))[l - pa]?).getD 0
              else s.mem.read l))

/-- R7, R70, R266, R363, R364, R371, R377, R379, R382, R383, R385, R386, R387: `Doorbells`, `ControlPageWrites`, `ControlPageReads`
and `LinksAndLoader` hold. -/
def Obligations.HostWrites : Prop :=
  Sys2Proof.Spec.Doorbells ∧ Sys2Proof.Spec.ControlPageWrites ∧ Sys2Proof.Spec.ControlPageReads ∧ Sys2Proof.Spec.LinksAndLoader

/-- R77, R80: a magnitude is rounded to a multiple of a power of two by the mode of its rnd field, a draw deciding under .rs, and
the rounding is inexact exactly where the value is no such multiple. -/
def Sys2Proof.Spec.RoundingToMultiples : Prop :=
  ∀ (x : Mag) (q : Int) (neg : Bool) (rnd : BitVec 3) (r : Nat), x.above = false → x.d ≠ 0 → r < 2 ^ 32 →
    RoundsTo rnd neg r (magVal x * pow2 (-q)) (roundAt x q neg rnd r).1
      ∧ ((roundAt x q neg rnd r).2 = true ↔ ∀ k : Nat, magVal x * pow2 (-q) ≠ k)

/-- R77, R78, R79: a nonzero value written in a float format is rounded with the exponent unbounded; above the largest finite value
it overflows, to the result of R79's table, with OVF; below the smallest normal value it is rounded into the subnormal range, with
UNF where that is inexact; else it is that rounding, without a flag. -/
def Sys2Proof.Spec.FloatResults : Prop :=
  ∀ (f : BitVec 4) (m : Nat) (least : Int) (top : Rat) (x : Mag) (neg : Bool) (rnd : BitVec 3) (sat : Bool) (r : Nat),
    formatOf f = some (m, least, top) → x.above = false → x.d ≠ 0 → x.n ≠ 0 → r < 2 ^ 32 →
    let v := magVal x
    let y := roundFloat f rnd sat r neg x
    let z := decodeFloat f y.1
    let sg : Rat := if neg then -1 else 1
    ∃ (q : Int) (k : Nat), (2 ^ m : Nat) ≤ v * pow2 (-q) ∧ v * pow2 (-q) < (2 ^ (m + 1) : Nat)
      ∧ RoundsTo rnd neg r (v * pow2 (-q)) k
      ∧ (top < k * pow2 q → y.2 = 2 ∧
          (let away := rnd = 0 ∨ 4 ≤ rnd.toNat ∨ rnd = 2 ∧ neg = false ∨ rnd = 3 ∧ neg = true
           (f = 6 ∨ sat = true ∨ ¬ away → rnd.toNat ≤ 4 → numVal z = some (sg * top))
           ∧ (f ≠ 6 → f ≠ 4 → sat = false → away → rnd.toNat ≤ 4 → z = .inf neg)
           ∧ (f = 4 → sat = false → away → rnd.toNat ≤ 4 → z = .nan)))
      ∧ (k * pow2 q ≤ top → pow2 least ≤ k * pow2 q → numVal z = some (sg * k * pow2 q) ∧ y.2 = 0)
      ∧ (k * pow2 q < pow2 least → ∃ k' : Nat, RoundsTo rnd neg r (v * pow2 (m - least)) k'
          ∧ numVal z = some (sg * k' * pow2 (least - m))
          ∧ (k' = 0 → z = .zero neg) ∧ y.2 = if v * pow2 (m - least) = k' then 0 else 4)

/-- R72, R73, R74, R75, R79: the value of every pattern of a float format, by its sign, exponent and mantissa fields; infinities and
NaNs where the format has them; a UE4M3 byte from 0x7F on is an invalid scale. A value that is not finite is written as R79's
table of conversions says. -/
def Sys2Proof.Spec.FloatPatterns : Prop :=
  (∀ (f : BitVec 4) (m : Nat) (least : Int) (top : Rat) (x : Nat), formatOf f = some (m, least, top) → x < 2 ^ elemBits f →
    let w := elemBits f
    let mag := x % 2 ^ (w - 1)
    let e := mag / 2 ^ m
    let t := mag % 2 ^ m
    let neg := decide (2 ^ (w - 1) ≤ x)
    let sg : Rat := if neg then -1 else 1
    let v : Rat := if e = 0 then t * pow2 (least - m) else ((2 ^ m + t : Nat) : Rat) * pow2 (least - m + (e - 1))
    (v ≤ top → numVal (decodeFloat f x) = some (sg * v) ∧ (v = 0 → decodeFloat f x = .zero neg))
    ∧ (top < v → decodeFloat f x = if f ≠ 4 ∧ t = 0 then .inf neg else .nan))
  ∧ (∀ x : Nat, x < 256 → (x < 0x7F → decodeFloat 7 x = decodeFloat 4 x) ∧ (0x7F ≤ x → decodeFloat 7 x = .nan))
  ∧ ∀ (f : BitVec 4) (rnd : BitVec 3) (sat neg : Bool) (r : Nat), f ∈ [(1 : BitVec 4), 2, 3, 4, 5, 6] →
    let z := encodeFloat f rnd sat r (.inf neg)
    let n := encodeFloat f rnd sat r .nan
    (f ≠ 4 → f ≠ 6 → decodeFloat f z.1 = .inf neg ∧ z.2 = 0)
    ∧ (f = 4 → sat = false → z = (0x7F, 1)) ∧ (f = 4 → sat = true → z = (if neg then 0xFE else 0x7E, 2))
    ∧ (f = 6 → z = (if neg then 0xF else 7, 2) ∧ n = (0, 1))
    ∧ (f ≠ 6 → n = (if f = 1 then 0x7FC00000 else if f = 2 then 0x7FC0 else if f = 3 then 0x7E00 else if f = 4 then 0x7F else 0x7E, 0))

/-- R73, R82, R91, R93, R140: sums, products and fused products of finite values are exact, and set no flag; a sum that is zero is -0
where every operand is, or under rounding toward -∞ where they are not all +0; infinities of both signs, and 0 × ∞ whatever is
added to it, give a NaN with INV, and any other NaN operand a NaN without it. -/
def Sys2Proof.Spec.ExactOperations : Prop :=
  (∀ (rnd : BitVec 3) (l : List Machine.Num),
    let z := sumNum rnd l
    (∀ f : Machine.Num → Rat, (∀ v, v ∈ l → numVal v = some (f v)) → numVal z.1 = some (l.map f).sum ∧ z.2 = 0
      ∧ (l ≠ [] → (l.map f).sum = 0 → z.1 = .zero (if ∀ v, v ∈ l → v = .zero true then true
          else if ∀ v, v ∈ l → v = .zero false then false else decide (rnd = 3))))
    ∧ (.nan ∈ l → z = (.nan, 0))
    ∧ (.nan ∉ l → .inf false ∈ l → .inf true ∈ l → z = (.nan, 1))
    ∧ (∀ neg, .nan ∉ l → .inf neg ∈ l → .inf (!neg) ∉ l → z = (.inf neg, 0)))
  ∧ ∀ (rnd : BitVec 3) (minus : Bool) (a b c : Machine.Num),
    let z := mulNum a b
    let u := fmaNum rnd minus a b c
    (∀ x y, numVal a = some x → numVal b = some y → numVal z.1 = some (x * y) ∧ z.2 = 0
      ∧ ∀ w, numVal c = some w → numVal u.1 = some ((if minus then -(x * y) else x * y) + w) ∧ u.2 = 0)
    ∧ (∀ n k, (a = .inf n ∧ b = .zero k) ∨ (a = .zero k ∧ b = .inf n) → z = (.nan, 1) ∧ u.1 = .nan ∧ u.2.getLsbD 0 = true)
    ∧ (∀ n x, a = .inf n → numVal b = some x → x ≠ 0 → z = (.inf (n != decide (x < 0)), 0))
    ∧ ((a = .nan ∨ b = .nan) → z = (.nan, 0) ∧ u = (.nan, 0))

/-- R140, R169: VRCP, VRSQ and VEXP round the exact reciprocal, the exact reciprocal root and the exact power of two once; -∞, +∞,
zeros, NaNs and negative values as R140 lists them. Of an argument that is no integer, VEXP, and of a value that is no power of
two, the logarithm of SCVTO, are stated at a few arguments, computed from the rule. -/
def Sys2Proof.Spec.LaneFunctions : Prop :=
  (∀ (f : BitVec 4) (rnd : BitVec 3) (sat : Bool) (r a b c : Nat), f ∈ [(1 : BitVec 4), 2, 3] →
    let v := decodeFloat f a
    let inf := fun (neg : Bool) => encodeFloat f rnd sat r (.inf neg)
    let nan := (encodeFloat f rnd sat r .nan).1
    (∀ neg m e, v = .fin neg m e → m ≠ 0 ∧
      (let y : Rat := m * pow2 e
       (∃ x : Mag, x.above = false ∧ x.d ≠ 0 ∧ x.n ≠ 0 ∧ magVal x = 1 / y ∧ laneRcp f rnd sat r a b c = roundFloat f rnd sat r neg x)
       ∧ (neg = true → laneRsq f rnd sat r a b c = (nan, 1))
       ∧ (neg = false → ∃ x : Mag, x.d = 1 ∧ 2 ^ 100 ≤ x.n ∧ magVal x * magVal x * y ≤ 1
            ∧ 1 < (magVal x + pow2 x.e) * (magVal x + pow2 x.e) * y ∧ (x.above = false ↔ magVal x * magVal x * y = 1)
            ∧ laneRsq f rnd sat r a b c = roundFloat f rnd sat r false x)))
    ∧ (∀ k : Int, numVal v = some (k : Rat) → laneExp f rnd sat r a b c = encodeFloat f rnd sat r (.fin false 1 k))
    ∧ (∀ neg, v = .zero neg → laneRcp f rnd sat r a b c = inf neg ∧ laneRsq f rnd sat r a b c = inf neg)
    ∧ (∀ neg, v = .inf neg → laneRcp f rnd sat r a b c = encodeFloat f rnd sat r (.zero neg)
        ∧ laneRsq f rnd sat r a b c = (if neg then (nan, 1) else (0, 0)) ∧ laneExp f rnd sat r a b c = if neg then (0, 0) else inf false)
    ∧ (v = .nan → laneRcp f rnd sat r a b c = (nan, 0) ∧ laneRsq f rnd sat r a b c = (nan, 0) ∧ laneExp f rnd sat r a b c = (nan, 0)))
  ∧ laneExp 1 0 false 0 0x3F000000 0 0 = (0x3FB504F3, 0) ∧ laneExp 1 0 false 0 0xBF000000 0 0 = (0x3F3504F3, 0)
  ∧ laneExp 1 0 false 0 0x3DCCCCCD 0 0 = (0x3F892FDF, 0) ∧ laneExp 1 0 false 0 0xBDCCCCCD 0 0 = (0x3F6EDB40, 0)
  ∧ toFloat 1 true 0 0 (3, 0) = (0x3FCAE00D, 0) ∧ toFloat 1 true 0 0 (3, -2) = (0xBED47FCC, 0)
  ∧ toFloat 1 true 0 0 (10, 0) = (0x40549A78, 0)

/-- R72, R73, R74, R75, R77, R78, R79, R80, R91, R93, R140, R169: `RoundingToMultiples`, `FloatResults`, `FloatPatterns`,
`ExactOperations` and `LaneFunctions` hold. -/
def Obligations.Rounding : Prop :=
  Sys2Proof.Spec.RoundingToMultiples ∧ Sys2Proof.Spec.FloatResults ∧ Sys2Proof.Spec.FloatPatterns ∧ Sys2Proof.Spec.ExactOperations
    ∧ Sys2Proof.Spec.LaneFunctions

/-- No instruction stops the machine: its meaning answers a next state for every operand and every state. -/
def Obligations.EveryInstructionAnswers : Prop := ∀ (i : Instr) (s : State), ∃ t, exec i s = .next t

/-- R12, R33, R51, R52, R237, R326, R364: a step runs the decoded instruction. On a tile: where one stream alone can issue, no cause
is delivered, no wait is past its threshold, no tile of the team comes first at the beat (R263, R302, R343, R353), what a C word
reads lies in the SRAM of no other tile between the words of a beat (R237), and no access of the word has been refused and reported
before (R12), its next word, fetched and decoded, at the state whose `cur` names it. In a queue: the packet at QHEAD, which
advances, or the one that its thread holds. In a unit: its oldest command. An event of the table runs as it is named; a save only
where nothing takes its boundary first (R360). -/
def Obligations.StepRunsTheInstruction : Prop :=
  ∀ (s : State) (i : Instr) (r : List Action),
    (∀ u e w, s.agenda = .issue u e :: r → u < 160 →
      let z := { s with agenda := r }
      z.canIssue u e = true → (∀ e', e' ≠ e → z.canIssue u e' = false) → z.delivers u = false → (e = .c → z.myTurn u = true ∧ z.farReady u = true) →
      (z.ctx u).isRefused e = false →
      z.fetch u e ((z.ctx u).pcOf e) = .word w → decode e w = .ok i → ∃ y, IssuesAt z y u e w ∧
        ((z.tile u).issued ≠ 0 ∨ z.parkOverdue u = none ∧ (∀ t, exec i y = .next t → t.parkOverdue u = none) → step s = exec i y))
    ∧ (∀ d q, s.agenda = .queue d q :: r → d < 4 → q < 32 →
        let z := { s with agenda := r, last := .event, cur := { s.cur with at_ := d, sub := q } }
        let m := s.mq d q
        m.ctl.getLsbD 0 = true → (s.die d).ps2 = false → s.ps3 = false →
          (∀ t0, m.busy = some ⟨i, t0, false⟩ → step s = exec i z)
          ∧ (m.busy = none → m.head ≠ m.tail → 4 ≤ m.log.toNat → m.log.toNat ≤ 12 → m.base.toNat % 4096 = 0 →
              ∀ b z1, z.frontRead 0 (m.base + BitVec.ofNat 64 (64 * (m.head.toNat % 2 ^ m.log.toNat))) 64 = .ok b z1 →
                decodePacket (BitVec.ofNat 512 (ofBytes b)) = some i →
                ∃ y, step s = exec i y ∧ y.cur = z.cur ∧ y.mem = z1.mem ∧ y.myQueue.head = m.head + 1
                  ∧ y.myQueue.busy = some ⟨i, z1.timeb, false⟩ ∧ y.myQueue.tail = m.tail))
    ∧ (∀ d u c l, s.agenda = .unit d u :: r → d < 4 → u < 6 → s.unitQueue d u = c :: l → decodeUnit u c.raw = some i →
        step s = exec i { s with agenda := r, last := .event, cur := { s.cur with at_ := d, sub := u, box := c.box, rank := c.rank } })
    ∧ (∀ u, s.agenda = .event i u :: r → streamsOf i = [] → encodePacket i = none → encodeUnit i = none →
        let z : State := { s with agenda := r, cur := { s.cur with at_ := u } }
        (∀ b, i = .preemptSaveComplete b → z.beforeSave b = none) → step s = exec i z)

/-- R46 to R50, R365, R327: words, a packet and a unit command written out from the spec's encodings decode to what they stand for. -/
def Obligations.WordsDecode : Prop :=
  decode .s 0x0004000040120800 = .ok (.sup ⟨0, 0, 1, 0, 0x48, 2, 0⟩)
    ∧ decode .s 0x000A500000000003 = .ok (.smarg ⟨4, 0, 0, 0, 0, 0, 3⟩)
    ∧ decode .s 0x00060C4004000038 = .ok (.sld ⟨3, 16, 0x1000, 0, 7⟩)
    ∧ decode .v 0x00C4022180040000 = .ok (.vadd ⟨1, 2, 3, 0, 0, 0, 1, 0, 0, 0, 0, 0, 0⟩) ∧ wordIdle 0x00C4022180040000 = 3
    ∧ decode .x 0x0004080000000500 = .ok (.xlnt ⟨1, 0, 5⟩)
    ∧ decode .c 0x0004061100000000 = .ok (.add ⟨3, 1, 2, 0, 0⟩)
    ∧ decode .c 0x001FC00000000000 = .error .unassigned ∧ decode .c 0x0000000000000001 = .error .field
    ∧ decodePacket (BitVec.ofNat 512 (7 + 0x4003 * 2 ^ 16 + 0x77 * 2 ^ 32 + 0x20000100 * 2 ^ 64)) = some (.halt ⟨0, 0x4003, 0x77, 0x20000100, 0⟩)
    ∧ decodeUnit 5 (BitVec.ofNat 512 (6 + 1 * 2 ^ 16 + 0x4003 * 2 ^ 192)) = some (.backfill ⟨0, 1, 0, 0, 0, 0x4003, 0, 0, 0⟩)
    ∧ decodeUnit 0 5 = none

/-- Every well-formed word of every stream decodes, under any IDLE, to the instruction that it was encoded from, with every operand
at every value; and every word that decodes is the encoding of a well-formed instruction. -/
def Sys2Proof.Spec.WordsRoundTrip : Prop :=
  (∀ (e : Strm) (i : Instr) (idle : BitVec 10), wf e i = true →
    ∃ w, encode idle i = some w ∧ decode e w = .ok i ∧ wordIdle w = idle.toNat)
  ∧ ∀ (e : Strm) (i : Instr) (w : Word), decode e w = .ok i → wf e i = true ∧ encode (BitVec.ofNat 10 (wordIdle w)) i = some w

/-- Every well-formed packet and every unit command decodes to the command that it was encoded from, and every one that decodes is
the encoding of a well-formed command. -/
def Sys2Proof.Spec.PacketsRoundTrip : Prop :=
  (∀ i, wfPacket i = true → ∃ w, encodePacket i = some w ∧ decodePacket w = some i)
  ∧ (∀ i w, decodePacket w = some i → wfPacket i = true ∧ encodePacket i = some w)
  ∧ (∀ u i, wfUnit u i = true → ∃ w, encodeUnit i = some w ∧ decodeUnit u w = some i)
  ∧ ∀ u i w, decodeUnit u w = some i → wfUnit u i = true ∧ encodeUnit i = some w

/-- `WordsRoundTrip` and `PacketsRoundTrip` hold. -/
def Obligations.EncodingsRoundTrip : Prop :=
  Sys2Proof.Spec.WordsRoundTrip ∧ Sys2Proof.Spec.PacketsRoundTrip

/-- Every step keeps memory in its canonical form, and the maps of boxes and of address spaces strictly rising. -/
def Obligations.StepKeepsInvariant : Prop := ∀ (s t : State), s.inv → step s = .next t → t.inv

/-- The state after reset meets the invariant, and holds what the spec gives for reset: state N, D0 and PS0, TIMEB 0, no key, every
box FREE, every queue disabled, empty rings, 50,000 in RSELEAD, every MSI-X vector masked, no cached translation (R202, R280, R282,
R362, R379, R381, R386). (Memory and the registers that the spec gives no value hold the model's choices, assumption log 1
and 4.) -/
def Obligations.ResetState : Prop :=
  let s := State.reset
  s.inv ∧ s.security = .n ∧ s.debug = .d0 ∧ s.ps3 = false ∧ s.timeb = 0 ∧ s.keys = [] ∧ (∀ b, (s.box b).state = .free)
    ∧ (∀ d q, (s.mq d q).ctl = 0 ∧ (s.mq d q).head = 0 ∧ (s.mq d q).tail = 0) ∧ (∀ d, (s.die d).ras = ⟨0, 0, 0, 0, 0⟩)
    ∧ (∀ d, (s.die d).nring = ⟨0, 0, 0, 0, 0⟩) ∧ (∀ d, (s.die d).rselead = 50000) ∧ (∀ d, (s.die d).ps2 = false)
    ∧ s.msixMask = 0xFF ∧ s.msixPend = 0 ∧ s.attwin = Vector.replicate 16 0 ∧ s.tcache = [] ∧ s.dirty = []
    ∧ s.want = [] ∧ s.unseen = [] ∧ (∀ d, (s.die d).records = [] ∧ (s.die d).move = none)
    ∧ (∀ t, (s.tile t).box = none ∧ (s.tile t).full = []) ∧ ∀ a, s.mem.read a = 0
end

