-- ==== Sys2Proof/Laws/State.lean ====
section
/-!
SUPPORT. What each update of the state changes and leaves: one lemma for each field and update.
-/
namespace Sys2Proof.Machine

/-! ### updTile -/

@[simp] theorem State.updTile_agenda (s : State) (t : Nat) (f : Tile → Tile) : (s.updTile t f).agenda = s.agenda := rfl
@[simp] theorem State.updTile_sched (s : State) (t : Nat) (f : Tile → Tile) : (s.updTile t f).sched = s.sched := rfl
@[simp] theorem State.updTile_fresh (s : State) (t : Nat) (f : Tile → Tile) : (s.updTile t f).fresh = s.fresh := rfl
@[simp] theorem State.updTile_cur (s : State) (t : Nat) (f : Tile → Tile) : (s.updTile t f).cur = s.cur := rfl
@[simp] theorem State.updTile_last (s : State) (t : Nat) (f : Tile → Tile) : (s.updTile t f).last = s.last := rfl
@[simp] theorem State.updTile_mem (s : State) (t : Nat) (f : Tile → Tile) : (s.updTile t f).mem = s.mem := rfl
@[simp] theorem State.updTile_ces (s : State) (t : Nat) (f : Tile → Tile) : (s.updTile t f).ces = s.ces := rfl
@[simp] theorem State.updTile_ues (s : State) (t : Nat) (f : Tile → Tile) : (s.updTile t f).ues = s.ues := rfl
@[simp] theorem State.updTile_aborts (s : State) (t : Nat) (f : Tile → Tile) : (s.updTile t f).aborts = s.aborts := rfl
@[simp] theorem State.updTile_timeb (s : State) (t : Nat) (f : Tile → Tile) : (s.updTile t f).timeb = s.timeb := rfl
@[simp] theorem State.updTile_ran (s : State) (t : Nat) (f : Tile → Tile) : (s.updTile t f).ran = s.ran := rfl
@[simp] theorem State.updTile_dies (s : State) (t : Nat) (f : Tile → Tile) : (s.updTile t f).dies = s.dies := rfl
@[simp] theorem State.updTile_boxes (s : State) (t : Nat) (f : Tile → Tile) : (s.updTile t f).boxes = s.boxes := rfl
@[simp] theorem State.updTile_regions (s : State) (t : Nat) (f : Tile → Tile) : (s.updTile t f).regions = s.regions := rfl
@[simp] theorem State.updTile_blocks (s : State) (t : Nat) (f : Tile → Tile) : (s.updTile t f).blocks = s.blocks := rfl
@[simp] theorem State.updTile_asids (s : State) (t : Nat) (f : Tile → Tile) : (s.updTile t f).asids = s.asids := rfl
@[simp] theorem State.updTile_tcache (s : State) (t : Nat) (f : Tile → Tile) : (s.updTile t f).tcache = s.tcache := rfl
@[simp] theorem State.updTile_want (s : State) (t : Nat) (f : Tile → Tile) : (s.updTile t f).want = s.want := rfl
@[simp] theorem State.updTile_dirty (s : State) (t : Nat) (f : Tile → Tile) : (s.updTile t f).dirty = s.dirty := rfl
@[simp] theorem State.updTile_keys (s : State) (t : Nat) (f : Tile → Tile) : (s.updTile t f).keys = s.keys := rfl
@[simp] theorem State.updTile_fw (s : State) (t : Nat) (f : Tile → Tile) : (s.updTile t f).fw = s.fw := rfl
@[simp] theorem State.updTile_security (s : State) (t : Nat) (f : Tile → Tile) : (s.updTile t f).security = s.security := rfl
@[simp] theorem State.updTile_debug (s : State) (t : Nat) (f : Tile → Tile) : (s.updTile t f).debug = s.debug := rfl
@[simp] theorem State.updTile_ps3 (s : State) (t : Nat) (f : Tile → Tile) : (s.updTile t f).ps3 = s.ps3 := rfl
@[simp] theorem State.updTile_attwin (s : State) (t : Nat) (f : Tile → Tile) : (s.updTile t f).attwin = s.attwin := rfl
@[simp] theorem State.updTile_expbase (s : State) (t : Nat) (f : Tile → Tile) : (s.updTile t f).expbase = s.expbase := rfl
@[simp] theorem State.updTile_expsize (s : State) (t : Nat) (f : Tile → Tile) : (s.updTile t f).expsize = s.expsize := rfl
@[simp] theorem State.updTile_unseen (s : State) (t : Nat) (f : Tile → Tile) : (s.updTile t f).unseen = s.unseen := rfl
@[simp] theorem State.updTile_accid (s : State) (t : Nat) (f : Tile → Tile) : (s.updTile t f).accid = s.accid := rfl
@[simp] theorem State.updTile_links (s : State) (t : Nat) (f : Tile → Tile) : (s.updTile t f).links = s.links := rfl
@[simp] theorem State.updTile_msixMask (s : State) (t : Nat) (f : Tile → Tile) : (s.updTile t f).msixMask = s.msixMask := rfl
@[simp] theorem State.updTile_msixPend (s : State) (t : Nat) (f : Tile → Tile) : (s.updTile t f).msixPend = s.msixPend := rfl
@[simp] theorem State.updTile_msixTable (s : State) (t : Nat) (f : Tile → Tile) : (s.updTile t f).msixTable = s.msixTable := rfl
@[simp] theorem State.updTile_msixSent (s : State) (t : Nat) (f : Tile → Tile) : (s.updTile t f).msixSent = s.msixSent := rfl
@[simp] theorem State.updTile_answer (s : State) (t : Nat) (f : Tile → Tile) : (s.updTile t f).answer = s.answer := rfl
@[simp] theorem State.updTile_reports (s : State) (t : Nat) (f : Tile → Tile) : (s.updTile t f).reports = s.reports := rfl
@[simp] theorem State.updTile_seq (s : State) (t : Nat) (f : Tile → Tile) : (s.updTile t f).seq = s.seq := rfl

/-! ### updCtx -/

@[simp] theorem State.updCtx_agenda (s : State) (t : Nat) (f : Ctx → Ctx) : (s.updCtx t f).agenda = s.agenda := rfl
@[simp] theorem State.updCtx_sched (s : State) (t : Nat) (f : Ctx → Ctx) : (s.updCtx t f).sched = s.sched := rfl
@[simp] theorem State.updCtx_fresh (s : State) (t : Nat) (f : Ctx → Ctx) : (s.updCtx t f).fresh = s.fresh := rfl
@[simp] theorem State.updCtx_cur (s : State) (t : Nat) (f : Ctx → Ctx) : (s.updCtx t f).cur = s.cur := rfl
@[simp] theorem State.updCtx_last (s : State) (t : Nat) (f : Ctx → Ctx) : (s.updCtx t f).last = s.last := rfl
@[simp] theorem State.updCtx_mem (s : State) (t : Nat) (f : Ctx → Ctx) : (s.updCtx t f).mem = s.mem := rfl
@[simp] theorem State.updCtx_ces (s : State) (t : Nat) (f : Ctx → Ctx) : (s.updCtx t f).ces = s.ces := rfl
@[simp] theorem State.updCtx_ues (s : State) (t : Nat) (f : Ctx → Ctx) : (s.updCtx t f).ues = s.ues := rfl
@[simp] theorem State.updCtx_aborts (s : State) (t : Nat) (f : Ctx → Ctx) : (s.updCtx t f).aborts = s.aborts := rfl
@[simp] theorem State.updCtx_timeb (s : State) (t : Nat) (f : Ctx → Ctx) : (s.updCtx t f).timeb = s.timeb := rfl
@[simp] theorem State.updCtx_ran (s : State) (t : Nat) (f : Ctx → Ctx) : (s.updCtx t f).ran = s.ran := rfl
@[simp] theorem State.updCtx_dies (s : State) (t : Nat) (f : Ctx → Ctx) : (s.updCtx t f).dies = s.dies := rfl
@[simp] theorem State.updCtx_boxes (s : State) (t : Nat) (f : Ctx → Ctx) : (s.updCtx t f).boxes = s.boxes := rfl
@[simp] theorem State.updCtx_regions (s : State) (t : Nat) (f : Ctx → Ctx) : (s.updCtx t f).regions = s.regions := rfl
@[simp] theorem State.updCtx_blocks (s : State) (t : Nat) (f : Ctx → Ctx) : (s.updCtx t f).blocks = s.blocks := rfl
@[simp] theorem State.updCtx_asids (s : State) (t : Nat) (f : Ctx → Ctx) : (s.updCtx t f).asids = s.asids := rfl
@[simp] theorem State.updCtx_tcache (s : State) (t : Nat) (f : Ctx → Ctx) : (s.updCtx t f).tcache = s.tcache := rfl
@[simp] theorem State.updCtx_want (s : State) (t : Nat) (f : Ctx → Ctx) : (s.updCtx t f).want = s.want := rfl
@[simp] theorem State.updCtx_dirty (s : State) (t : Nat) (f : Ctx → Ctx) : (s.updCtx t f).dirty = s.dirty := rfl
@[simp] theorem State.updCtx_keys (s : State) (t : Nat) (f : Ctx → Ctx) : (s.updCtx t f).keys = s.keys := rfl
@[simp] theorem State.updCtx_fw (s : State) (t : Nat) (f : Ctx → Ctx) : (s.updCtx t f).fw = s.fw := rfl
@[simp] theorem State.updCtx_security (s : State) (t : Nat) (f : Ctx → Ctx) : (s.updCtx t f).security = s.security := rfl
@[simp] theorem State.updCtx_debug (s : State) (t : Nat) (f : Ctx → Ctx) : (s.updCtx t f).debug = s.debug := rfl
@[simp] theorem State.updCtx_ps3 (s : State) (t : Nat) (f : Ctx → Ctx) : (s.updCtx t f).ps3 = s.ps3 := rfl
@[simp] theorem State.updCtx_attwin (s : State) (t : Nat) (f : Ctx → Ctx) : (s.updCtx t f).attwin = s.attwin := rfl
@[simp] theorem State.updCtx_expbase (s : State) (t : Nat) (f : Ctx → Ctx) : (s.updCtx t f).expbase = s.expbase := rfl
@[simp] theorem State.updCtx_expsize (s : State) (t : Nat) (f : Ctx → Ctx) : (s.updCtx t f).expsize = s.expsize := rfl
@[simp] theorem State.updCtx_unseen (s : State) (t : Nat) (f : Ctx → Ctx) : (s.updCtx t f).unseen = s.unseen := rfl
@[simp] theorem State.updCtx_accid (s : State) (t : Nat) (f : Ctx → Ctx) : (s.updCtx t f).accid = s.accid := rfl
@[simp] theorem State.updCtx_links (s : State) (t : Nat) (f : Ctx → Ctx) : (s.updCtx t f).links = s.links := rfl
@[simp] theorem State.updCtx_msixMask (s : State) (t : Nat) (f : Ctx → Ctx) : (s.updCtx t f).msixMask = s.msixMask := rfl
@[simp] theorem State.updCtx_msixPend (s : State) (t : Nat) (f : Ctx → Ctx) : (s.updCtx t f).msixPend = s.msixPend := rfl
@[simp] theorem State.updCtx_msixTable (s : State) (t : Nat) (f : Ctx → Ctx) : (s.updCtx t f).msixTable = s.msixTable := rfl
@[simp] theorem State.updCtx_msixSent (s : State) (t : Nat) (f : Ctx → Ctx) : (s.updCtx t f).msixSent = s.msixSent := rfl
@[simp] theorem State.updCtx_answer (s : State) (t : Nat) (f : Ctx → Ctx) : (s.updCtx t f).answer = s.answer := rfl
@[simp] theorem State.updCtx_reports (s : State) (t : Nat) (f : Ctx → Ctx) : (s.updCtx t f).reports = s.reports := rfl
@[simp] theorem State.updCtx_seq (s : State) (t : Nat) (f : Ctx → Ctx) : (s.updCtx t f).seq = s.seq := rfl

/-! ### updBox -/

@[simp] theorem State.updBox_agenda (s : State) (b : Nat) (f : Box → Box) : (s.updBox b f).agenda = s.agenda := rfl
@[simp] theorem State.updBox_sched (s : State) (b : Nat) (f : Box → Box) : (s.updBox b f).sched = s.sched := rfl
@[simp] theorem State.updBox_fresh (s : State) (b : Nat) (f : Box → Box) : (s.updBox b f).fresh = s.fresh := rfl
@[simp] theorem State.updBox_cur (s : State) (b : Nat) (f : Box → Box) : (s.updBox b f).cur = s.cur := rfl
@[simp] theorem State.updBox_last (s : State) (b : Nat) (f : Box → Box) : (s.updBox b f).last = s.last := rfl
@[simp] theorem State.updBox_mem (s : State) (b : Nat) (f : Box → Box) : (s.updBox b f).mem = s.mem := rfl
@[simp] theorem State.updBox_ces (s : State) (b : Nat) (f : Box → Box) : (s.updBox b f).ces = s.ces := rfl
@[simp] theorem State.updBox_ues (s : State) (b : Nat) (f : Box → Box) : (s.updBox b f).ues = s.ues := rfl
@[simp] theorem State.updBox_aborts (s : State) (b : Nat) (f : Box → Box) : (s.updBox b f).aborts = s.aborts := rfl
@[simp] theorem State.updBox_timeb (s : State) (b : Nat) (f : Box → Box) : (s.updBox b f).timeb = s.timeb := rfl
@[simp] theorem State.updBox_ran (s : State) (b : Nat) (f : Box → Box) : (s.updBox b f).ran = s.ran := rfl
@[simp] theorem State.updBox_tiles (s : State) (b : Nat) (f : Box → Box) : (s.updBox b f).tiles = s.tiles := rfl
@[simp] theorem State.updBox_dies (s : State) (b : Nat) (f : Box → Box) : (s.updBox b f).dies = s.dies := rfl
@[simp] theorem State.updBox_regions (s : State) (b : Nat) (f : Box → Box) : (s.updBox b f).regions = s.regions := rfl
@[simp] theorem State.updBox_blocks (s : State) (b : Nat) (f : Box → Box) : (s.updBox b f).blocks = s.blocks := rfl
@[simp] theorem State.updBox_asids (s : State) (b : Nat) (f : Box → Box) : (s.updBox b f).asids = s.asids := rfl
@[simp] theorem State.updBox_tcache (s : State) (b : Nat) (f : Box → Box) : (s.updBox b f).tcache = s.tcache := rfl
@[simp] theorem State.updBox_want (s : State) (b : Nat) (f : Box → Box) : (s.updBox b f).want = s.want := rfl
@[simp] theorem State.updBox_dirty (s : State) (b : Nat) (f : Box → Box) : (s.updBox b f).dirty = s.dirty := rfl
@[simp] theorem State.updBox_keys (s : State) (b : Nat) (f : Box → Box) : (s.updBox b f).keys = s.keys := rfl
@[simp] theorem State.updBox_fw (s : State) (b : Nat) (f : Box → Box) : (s.updBox b f).fw = s.fw := rfl
@[simp] theorem State.updBox_security (s : State) (b : Nat) (f : Box → Box) : (s.updBox b f).security = s.security := rfl
@[simp] theorem State.updBox_debug (s : State) (b : Nat) (f : Box → Box) : (s.updBox b f).debug = s.debug := rfl
@[simp] theorem State.updBox_ps3 (s : State) (b : Nat) (f : Box → Box) : (s.updBox b f).ps3 = s.ps3 := rfl
@[simp] theorem State.updBox_attwin (s : State) (b : Nat) (f : Box → Box) : (s.updBox b f).attwin = s.attwin := rfl
@[simp] theorem State.updBox_expbase (s : State) (b : Nat) (f : Box → Box) : (s.updBox b f).expbase = s.expbase := rfl
@[simp] theorem State.updBox_expsize (s : State) (b : Nat) (f : Box → Box) : (s.updBox b f).expsize = s.expsize := rfl
@[simp] theorem State.updBox_unseen (s : State) (b : Nat) (f : Box → Box) : (s.updBox b f).unseen = s.unseen := rfl
@[simp] theorem State.updBox_accid (s : State) (b : Nat) (f : Box → Box) : (s.updBox b f).accid = s.accid := rfl
@[simp] theorem State.updBox_links (s : State) (b : Nat) (f : Box → Box) : (s.updBox b f).links = s.links := rfl
@[simp] theorem State.updBox_msixMask (s : State) (b : Nat) (f : Box → Box) : (s.updBox b f).msixMask = s.msixMask := rfl
@[simp] theorem State.updBox_msixPend (s : State) (b : Nat) (f : Box → Box) : (s.updBox b f).msixPend = s.msixPend := rfl
@[simp] theorem State.updBox_msixTable (s : State) (b : Nat) (f : Box → Box) : (s.updBox b f).msixTable = s.msixTable := rfl
@[simp] theorem State.updBox_msixSent (s : State) (b : Nat) (f : Box → Box) : (s.updBox b f).msixSent = s.msixSent := rfl
@[simp] theorem State.updBox_answer (s : State) (b : Nat) (f : Box → Box) : (s.updBox b f).answer = s.answer := rfl
@[simp] theorem State.updBox_reports (s : State) (b : Nat) (f : Box → Box) : (s.updBox b f).reports = s.reports := rfl
@[simp] theorem State.updBox_seq (s : State) (b : Nat) (f : Box → Box) : (s.updBox b f).seq = s.seq := rfl

/-! ### updDie -/

@[simp] theorem State.updDie_agenda (s : State) (d : Nat) (f : Die → Die) : (s.updDie d f).agenda = s.agenda := rfl
@[simp] theorem State.updDie_sched (s : State) (d : Nat) (f : Die → Die) : (s.updDie d f).sched = s.sched := rfl
@[simp] theorem State.updDie_fresh (s : State) (d : Nat) (f : Die → Die) : (s.updDie d f).fresh = s.fresh := rfl
@[simp] theorem State.updDie_cur (s : State) (d : Nat) (f : Die → Die) : (s.updDie d f).cur = s.cur := rfl
@[simp] theorem State.updDie_last (s : State) (d : Nat) (f : Die → Die) : (s.updDie d f).last = s.last := rfl
@[simp] theorem State.updDie_mem (s : State) (d : Nat) (f : Die → Die) : (s.updDie d f).mem = s.mem := rfl
@[simp] theorem State.updDie_ces (s : State) (d : Nat) (f : Die → Die) : (s.updDie d f).ces = s.ces := rfl
@[simp] theorem State.updDie_ues (s : State) (d : Nat) (f : Die → Die) : (s.updDie d f).ues = s.ues := rfl
@[simp] theorem State.updDie_aborts (s : State) (d : Nat) (f : Die → Die) : (s.updDie d f).aborts = s.aborts := rfl
@[simp] theorem State.updDie_timeb (s : State) (d : Nat) (f : Die → Die) : (s.updDie d f).timeb = s.timeb := rfl
@[simp] theorem State.updDie_ran (s : State) (d : Nat) (f : Die → Die) : (s.updDie d f).ran = s.ran := rfl
@[simp] theorem State.updDie_tiles (s : State) (d : Nat) (f : Die → Die) : (s.updDie d f).tiles = s.tiles := rfl
@[simp] theorem State.updDie_boxes (s : State) (d : Nat) (f : Die → Die) : (s.updDie d f).boxes = s.boxes := rfl
@[simp] theorem State.updDie_regions (s : State) (d : Nat) (f : Die → Die) : (s.updDie d f).regions = s.regions := rfl
@[simp] theorem State.updDie_blocks (s : State) (d : Nat) (f : Die → Die) : (s.updDie d f).blocks = s.blocks := rfl
@[simp] theorem State.updDie_asids (s : State) (d : Nat) (f : Die → Die) : (s.updDie d f).asids = s.asids := rfl
@[simp] theorem State.updDie_tcache (s : State) (d : Nat) (f : Die → Die) : (s.updDie d f).tcache = s.tcache := rfl
@[simp] theorem State.updDie_want (s : State) (d : Nat) (f : Die → Die) : (s.updDie d f).want = s.want := rfl
@[simp] theorem State.updDie_dirty (s : State) (d : Nat) (f : Die → Die) : (s.updDie d f).dirty = s.dirty := rfl
@[simp] theorem State.updDie_keys (s : State) (d : Nat) (f : Die → Die) : (s.updDie d f).keys = s.keys := rfl
@[simp] theorem State.updDie_fw (s : State) (d : Nat) (f : Die → Die) : (s.updDie d f).fw = s.fw := rfl
@[simp] theorem State.updDie_security (s : State) (d : Nat) (f : Die → Die) : (s.updDie d f).security = s.security := rfl
@[simp] theorem State.updDie_debug (s : State) (d : Nat) (f : Die → Die) : (s.updDie d f).debug = s.debug := rfl
@[simp] theorem State.updDie_ps3 (s : State) (d : Nat) (f : Die → Die) : (s.updDie d f).ps3 = s.ps3 := rfl
@[simp] theorem State.updDie_attwin (s : State) (d : Nat) (f : Die → Die) : (s.updDie d f).attwin = s.attwin := rfl
@[simp] theorem State.updDie_expbase (s : State) (d : Nat) (f : Die → Die) : (s.updDie d f).expbase = s.expbase := rfl
@[simp] theorem State.updDie_expsize (s : State) (d : Nat) (f : Die → Die) : (s.updDie d f).expsize = s.expsize := rfl
@[simp] theorem State.updDie_unseen (s : State) (d : Nat) (f : Die → Die) : (s.updDie d f).unseen = s.unseen := rfl
@[simp] theorem State.updDie_accid (s : State) (d : Nat) (f : Die → Die) : (s.updDie d f).accid = s.accid := rfl
@[simp] theorem State.updDie_links (s : State) (d : Nat) (f : Die → Die) : (s.updDie d f).links = s.links := rfl
@[simp] theorem State.updDie_msixMask (s : State) (d : Nat) (f : Die → Die) : (s.updDie d f).msixMask = s.msixMask := rfl
@[simp] theorem State.updDie_msixPend (s : State) (d : Nat) (f : Die → Die) : (s.updDie d f).msixPend = s.msixPend := rfl
@[simp] theorem State.updDie_msixTable (s : State) (d : Nat) (f : Die → Die) : (s.updDie d f).msixTable = s.msixTable := rfl
@[simp] theorem State.updDie_msixSent (s : State) (d : Nat) (f : Die → Die) : (s.updDie d f).msixSent = s.msixSent := rfl
@[simp] theorem State.updDie_answer (s : State) (d : Nat) (f : Die → Die) : (s.updDie d f).answer = s.answer := rfl
@[simp] theorem State.updDie_reports (s : State) (d : Nat) (f : Die → Die) : (s.updDie d f).reports = s.reports := rfl
@[simp] theorem State.updDie_seq (s : State) (d : Nat) (f : Die → Die) : (s.updDie d f).seq = s.seq := rfl

/-! ### updRegion -/

@[simp] theorem State.updRegion_agenda (s : State) (die : Nat) (va : Word) (f : Region → Region) : (s.updRegion die va f).agenda = s.agenda := rfl
@[simp] theorem State.updRegion_sched (s : State) (die : Nat) (va : Word) (f : Region → Region) : (s.updRegion die va f).sched = s.sched := rfl
@[simp] theorem State.updRegion_fresh (s : State) (die : Nat) (va : Word) (f : Region → Region) : (s.updRegion die va f).fresh = s.fresh := rfl
@[simp] theorem State.updRegion_cur (s : State) (die : Nat) (va : Word) (f : Region → Region) : (s.updRegion die va f).cur = s.cur := rfl
@[simp] theorem State.updRegion_last (s : State) (die : Nat) (va : Word) (f : Region → Region) : (s.updRegion die va f).last = s.last := rfl
@[simp] theorem State.updRegion_mem (s : State) (die : Nat) (va : Word) (f : Region → Region) : (s.updRegion die va f).mem = s.mem := rfl
@[simp] theorem State.updRegion_ces (s : State) (die : Nat) (va : Word) (f : Region → Region) : (s.updRegion die va f).ces = s.ces := rfl
@[simp] theorem State.updRegion_ues (s : State) (die : Nat) (va : Word) (f : Region → Region) : (s.updRegion die va f).ues = s.ues := rfl
@[simp] theorem State.updRegion_aborts (s : State) (die : Nat) (va : Word) (f : Region → Region) : (s.updRegion die va f).aborts = s.aborts := rfl
@[simp] theorem State.updRegion_timeb (s : State) (die : Nat) (va : Word) (f : Region → Region) : (s.updRegion die va f).timeb = s.timeb := rfl
@[simp] theorem State.updRegion_ran (s : State) (die : Nat) (va : Word) (f : Region → Region) : (s.updRegion die va f).ran = s.ran := rfl
@[simp] theorem State.updRegion_tiles (s : State) (die : Nat) (va : Word) (f : Region → Region) : (s.updRegion die va f).tiles = s.tiles := rfl
@[simp] theorem State.updRegion_dies (s : State) (die : Nat) (va : Word) (f : Region → Region) : (s.updRegion die va f).dies = s.dies := rfl
@[simp] theorem State.updRegion_boxes (s : State) (die : Nat) (va : Word) (f : Region → Region) : (s.updRegion die va f).boxes = s.boxes := rfl
@[simp] theorem State.updRegion_blocks (s : State) (die : Nat) (va : Word) (f : Region → Region) : (s.updRegion die va f).blocks = s.blocks := rfl
@[simp] theorem State.updRegion_asids (s : State) (die : Nat) (va : Word) (f : Region → Region) : (s.updRegion die va f).asids = s.asids := rfl
@[simp] theorem State.updRegion_tcache (s : State) (die : Nat) (va : Word) (f : Region → Region) : (s.updRegion die va f).tcache = s.tcache := rfl
@[simp] theorem State.updRegion_want (s : State) (die : Nat) (va : Word) (f : Region → Region) : (s.updRegion die va f).want = s.want := rfl
@[simp] theorem State.updRegion_dirty (s : State) (die : Nat) (va : Word) (f : Region → Region) : (s.updRegion die va f).dirty = s.dirty := rfl
@[simp] theorem State.updRegion_keys (s : State) (die : Nat) (va : Word) (f : Region → Region) : (s.updRegion die va f).keys = s.keys := rfl
@[simp] theorem State.updRegion_fw (s : State) (die : Nat) (va : Word) (f : Region → Region) : (s.updRegion die va f).fw = s.fw := rfl
@[simp] theorem State.updRegion_security (s : State) (die : Nat) (va : Word) (f : Region → Region) : (s.updRegion die va f).security = s.security := rfl
@[simp] theorem State.updRegion_debug (s : State) (die : Nat) (va : Word) (f : Region → Region) : (s.updRegion die va f).debug = s.debug := rfl
@[simp] theorem State.updRegion_ps3 (s : State) (die : Nat) (va : Word) (f : Region → Region) : (s.updRegion die va f).ps3 = s.ps3 := rfl
@[simp] theorem State.updRegion_attwin (s : State) (die : Nat) (va : Word) (f : Region → Region) : (s.updRegion die va f).attwin = s.attwin := rfl
@[simp] theorem State.updRegion_expbase (s : State) (die : Nat) (va : Word) (f : Region → Region) : (s.updRegion die va f).expbase = s.expbase := rfl
@[simp] theorem State.updRegion_expsize (s : State) (die : Nat) (va : Word) (f : Region → Region) : (s.updRegion die va f).expsize = s.expsize := rfl
@[simp] theorem State.updRegion_unseen (s : State) (die : Nat) (va : Word) (f : Region → Region) : (s.updRegion die va f).unseen = s.unseen := rfl
@[simp] theorem State.updRegion_accid (s : State) (die : Nat) (va : Word) (f : Region → Region) : (s.updRegion die va f).accid = s.accid := rfl
@[simp] theorem State.updRegion_links (s : State) (die : Nat) (va : Word) (f : Region → Region) : (s.updRegion die va f).links = s.links := rfl
@[simp] theorem State.updRegion_msixMask (s : State) (die : Nat) (va : Word) (f : Region → Region) : (s.updRegion die va f).msixMask = s.msixMask := rfl
@[simp] theorem State.updRegion_msixPend (s : State) (die : Nat) (va : Word) (f : Region → Region) : (s.updRegion die va f).msixPend = s.msixPend := rfl
@[simp] theorem State.updRegion_msixTable (s : State) (die : Nat) (va : Word) (f : Region → Region) : (s.updRegion die va f).msixTable = s.msixTable := rfl
@[simp] theorem State.updRegion_msixSent (s : State) (die : Nat) (va : Word) (f : Region → Region) : (s.updRegion die va f).msixSent = s.msixSent := rfl
@[simp] theorem State.updRegion_answer (s : State) (die : Nat) (va : Word) (f : Region → Region) : (s.updRegion die va f).answer = s.answer := rfl
@[simp] theorem State.updRegion_reports (s : State) (die : Nat) (va : Word) (f : Region → Region) : (s.updRegion die va f).reports = s.reports := rfl
@[simp] theorem State.updRegion_seq (s : State) (die : Nat) (va : Word) (f : Region → Region) : (s.updRegion die va f).seq = s.seq := rfl

end Sys2Proof.Machine
end

