-- ==== Sys2Proof/Laws/Base.lean ====
section
/-!
SUPPORT. Reading what was written: vectors, sparse maps, byte memory, tiles, boxes and dies; and the canonical forms that
the operations of memory and of sparse maps keep.
-/
namespace Sys2Proof.Machine

/-! ## Vectors -/

theorem vget_lt {α : Type} {n : Nat} (d : α) (v : Vector α n) {i : Nat} (h : i < n) : vget d v i = v[i] := by
  simp [vget, h]

theorem vget_vupd {α : Type} {n : Nat} (d : α) (v : Vector α n) (i j : Nat) (f : α → α) :
    vget d (vupd v i f) j = if i = j ∧ j < n then f (vget d v j) else vget d v j := by
  unfold vget vupd
  by_cases hi : i < n
  · by_cases hj : j < n
    · by_cases hij : i = j
      · subst hij; simp [hi]
      · simp [hi, hj, hij]
    · simp [hj]
  · by_cases hij : i = j
    · subst hij; simp [hi]
    · simp [hi, hij]

@[simp] theorem vget_vupd_same {α : Type} {n : Nat} (d : α) (v : Vector α n) {i : Nat} (f : α → α) (h : i < n) :
    vget d (vupd v i f) i = f (vget d v i) := by simp [vget_vupd, h]

theorem vget_vupd_ne {α : Type} {n : Nat} (d : α) (v : Vector α n) {i j : Nat} (f : α → α) (h : i ≠ j) :
    vget d (vupd v i f) j = vget d v j := by simp [vget_vupd, h]

@[simp] theorem vget_replicate {α : Type} (n : Nat) (a : α) (i : Nat) : vget a (Vector.replicate n a) i = a := by
  unfold vget; split <;> simp

/-! ## Sparse maps -/

theorem rising_cons {α : Type} (a : Nat) (v : α) (m : Sparse α) :
    Rising ((a, v) :: m) ↔ (∀ q ∈ m, a < q.1) ∧ Rising m := by
  simp [Rising, List.pairwise_cons]

theorem sget_of_lt {α : Type} (d : α) (m : Sparse α) (k : Nat) (h : ∀ p ∈ m, k < p.1) : sget d m k = d := by
  induction m with
  | nil => rfl
  | cons p m ih =>
    obtain ⟨a, v⟩ := p
    have := h (a, v) (by simp)
    rw [sget, if_neg (by simp at this; omega)]
    exact ih fun q hq => h q (by simp [hq])

theorem sget_sput_ne {α : Type} [DecidableEq α] (d : α) (m : Sparse α) {k j : Nat} (v : α) (h : k ≠ j) :
    sget d (sput d m k v) j = sget d m j := by
  induction m with
  | nil => simp only [sput]; split <;> simp [sget, h]
  | cons p m ih =>
    obtain ⟨a, w⟩ := p
    simp only [sput]
    split
    · split <;> simp [sget, h]
    · split
      · next h1 h2 => subst h2; split <;> simp [sget, h]
      · simp only [sget, ih]

theorem sget_sput_same {α : Type} [DecidableEq α] (d : α) (m : Sparse α) (k : Nat) (v : α) (h : Rising m) :
    sget d (sput d m k v) k = v := by
  induction m with
  | nil => simp only [sput]; split <;> simp_all [sget]
  | cons p m ih =>
    obtain ⟨a, w⟩ := p
    rw [rising_cons] at h
    simp only [sput]
    split
    · next hk =>
      split
      · next hv =>
        subst hv
        apply sget_of_lt
        intro q hq
        rcases List.mem_cons.1 hq with rfl | hq
        · exact hk
        · have := h.1 q hq; omega
      · simp [sget]
    · split
      · next h1 h2 =>
        subst h2
        split
        · next hv => subst hv; exact sget_of_lt _ _ _ fun q hq => h.1 q hq
        · simp [sget]
      · next h1 h2 => rw [sget, if_neg (fun hh : a = k => h2 hh.symm)]; exact ih h.2

theorem mem_sput {α : Type} [DecidableEq α] (d : α) (m : Sparse α) (k : Nat) (v : α) (q : Nat × α)
    (h : q ∈ sput d m k v) : q = (k, v) ∨ q ∈ m := by
  induction m with
  | nil => simp only [sput] at h; split at h <;> simp_all
  | cons p m ih =>
    obtain ⟨a, w⟩ := p
    simp only [sput] at h
    split at h <;> split at h <;> simp_all <;> grind

theorem rising_sput {α : Type} [DecidableEq α] (d : α) (m : Sparse α) (k : Nat) (v : α) (h : Rising m) :
    Rising (sput d m k v) := by
  induction m with
  | nil => simp only [sput]; split <;> simp [Rising]
  | cons p m ih =>
    obtain ⟨a, w⟩ := p
    have h' := h
    rw [rising_cons] at h
    simp only [sput]
    split
    · split
      · exact h'
      · rw [rising_cons]
        exact ⟨fun q hq => by rcases List.mem_cons.1 hq with rfl | hq; · assumption
                              · have := h.1 q hq; omega, h'⟩
    · split
      · next h1 h2 =>
        subst h2
        split
        · exact h.2
        · exact (rising_cons _ _ _).2 h
      · next h1 h2 =>
        rw [rising_cons]
        refine ⟨fun q hq => ?_, ih h.2⟩
        rcases mem_sput d m k v q hq with rfl | hq
        · simp only; omega
        · exact h.1 q hq

/-! ## The canonical form of sparse maps -/

theorem sorted_mono {α : Type} [DecidableEq α] (d : α) {lo lo' : Nat} (m : Sparse α) (h : lo' ≤ lo)
    (hm : sorted d lo m = true) : sorted d lo' m = true := by
  cases m with
  | nil => rfl
  | cons p m => simp [sorted] at *; exact ⟨⟨by omega, hm.1.2⟩, hm.2⟩

theorem sorted_sput {α : Type} [DecidableEq α] (d : α) (lo : Nat) (m : Sparse α) (k : Nat) (v : α) (hk : lo ≤ k)
    (hm : sorted d lo m = true) : sorted d lo (sput d m k v) = true := by
  induction m generalizing lo with
  | nil => simp only [sput]; split <;> simp_all [sorted]
  | cons p m ih =>
    obtain ⟨a, w⟩ := p
    simp only [sorted, Bool.and_eq_true, decide_eq_true_eq] at hm
    simp only [sput]
    split
    · split
      · simp_all [sorted]
      · next h1 h2 => simp only [sorted, Bool.and_eq_true, decide_eq_true_eq]; exact ⟨⟨hk, h2⟩, ⟨by omega, hm.1.2⟩, hm.2⟩
    · split
      · next h1 h2 =>
        subst h2
        split
        · exact sorted_mono d m (by omega) hm.2
        · next h3 => simp only [sorted, Bool.and_eq_true, decide_eq_true_eq]; exact ⟨⟨hk, h3⟩, hm.2⟩
      · next h1 h2 =>
        simp only [sorted, Bool.and_eq_true, decide_eq_true_eq]
        exact ⟨hm.1, ih (a + 1) (by omega) hm.2⟩

theorem sorted_append {α : Type} [DecidableEq α] (d : α) {lo mid : Nat} (l m : Sparse α) (hl : sorted d lo l = true)
    (hlm : ∀ p ∈ l, p.1 < mid) (hlo : lo ≤ mid) (hm : sorted d mid m = true) : sorted d lo (l ++ m) = true := by
  induction l generalizing lo with
  | nil => exact sorted_mono d m hlo hm
  | cons p l ih =>
    simp only [sorted, Bool.and_eq_true, decide_eq_true_eq, List.cons_append] at *
    exact ⟨hl.1, ih hl.2 (fun q hq => hlm q (by simp [hq])) (by have := hlm p (by simp); omega)⟩

theorem sorted_filter {α : Type} [DecidableEq α] (d : α) (lo : Nat) (f : Nat × α → Bool) (m : Sparse α)
    (hm : sorted d lo m = true) : sorted d lo (m.filter f) = true := by
  induction m generalizing lo with
  | nil => rfl
  | cons p m ih =>
    simp only [sorted, Bool.and_eq_true, decide_eq_true_eq] at hm
    simp only [List.filter_cons]
    split
    · simp only [sorted, Bool.and_eq_true, decide_eq_true_eq]; exact ⟨hm.1, ih _ hm.2⟩
    · exact sorted_mono d _ (by omega) (ih _ hm.2)

theorem sorted_filter_ge {α : Type} [DecidableEq α] (d : α) (lo hi : Nat) (m : Sparse α) (hm : sorted d lo m = true) :
    sorted d hi (m.filter fun p => decide (hi ≤ p.1)) = true := by
  induction m generalizing lo with
  | nil => rfl
  | cons p m ih =>
    simp only [sorted, Bool.and_eq_true, decide_eq_true_eq] at hm
    simp only [List.filter_cons, decide_eq_true_eq]
    split
    · next h =>
      simp only [sorted, Bool.and_eq_true, decide_eq_true_eq]
      exact ⟨⟨h, hm.1.2⟩, sorted_filter d _ _ m hm.2⟩
    · exact ih _ hm.2

theorem sorted_runEntries {α : Type} [DecidableEq α] (d : α) (a : Nat) (l : List α) :
    sorted d a (runEntries d a l) = true ∧ ∀ p ∈ runEntries d a l, p.1 < a + l.length := by
  induction l generalizing a with
  | nil => simp [runEntries, sorted]
  | cons v l ih =>
    obtain ⟨h1, h2⟩ := ih (a + 1)
    simp only [runEntries, List.length_cons]
    split
    · exact ⟨sorted_mono d _ (by omega) h1, fun p hp => by have := h2 p hp; omega⟩
    · next hv =>
      refine ⟨by simp only [sorted, Bool.and_eq_true, decide_eq_true_eq]; exact ⟨⟨by omega, hv⟩, h1⟩, fun p hp => ?_⟩
      rcases List.mem_cons.1 hp with rfl | hp
      · simp
      · have := h2 p hp; omega

theorem sorted_overlay {α : Type} [DecidableEq α] (d : α) (m : Sparse α) (a : Nat) (l : List α)
    (hm : sorted d 0 m = true) : sorted d 0 (overlay d m a l) = true := by
  have hr := sorted_runEntries d a l
  unfold overlay
  rw [List.append_assoc]
  refine sorted_append d (mid := a) _ _ (sorted_filter d 0 _ m hm) (fun p hp => by simpa using (List.mem_filter.1 hp).2)
    (by omega) ?_
  exact sorted_append d (mid := a + l.length) _ _ hr.1 hr.2 (by omega) (sorted_filter_ge d 0 _ m hm)

/-! ## Memory -/

theorem Mem.wf_write (m : Mem) (a : Nat) (b : Byte) (h : m.wf = true) : (m.write a b).wf = true :=
  sorted_sput 0 0 m a b (Nat.zero_le _) h

theorem Mem.wf_writes (m : Mem) (l : List (Nat × Byte)) (h : m.wf = true) : (m.writes l).wf = true := by
  induction l generalizing m with
  | nil => exact h
  | cons p l ih => exact ih _ (Mem.wf_write m p.1 p.2 h)

theorem Mem.wf_overlay (m : Mem) (a : Nat) (l : List Byte) (h : m.wf = true) :
    Mem.wf (overlay (0 : Byte) m a l) = true := sorted_overlay 0 m a l h

theorem Mem.wf_filter (m : Mem) (f : Nat × Byte → Bool) (h : m.wf = true) : Mem.wf (m.filter f) = true :=
  sorted_filter 0 0 f m h

theorem sorted_bound {α : Type} [DecidableEq α] (d : α) (lo : Nat) (m : Sparse α) (h : sorted d lo m = true) :
    ∀ p ∈ m, lo ≤ p.1 := by
  induction m generalizing lo with
  | nil => simp
  | cons p m ih =>
    simp only [sorted, Bool.and_eq_true, decide_eq_true_eq] at h
    intro q hq
    rcases List.mem_cons.1 hq with rfl | hq
    · exact h.1.1
    · have := ih _ h.2 q hq; omega

theorem rising_of_sorted {α : Type} [DecidableEq α] (d : α) (lo : Nat) (m : Sparse α) (h : sorted d lo m = true) :
    Rising m := by
  induction m generalizing lo with
  | nil => simp [Rising]
  | cons p m ih =>
    simp only [sorted, Bool.and_eq_true, decide_eq_true_eq] at h
    rw [rising_cons]
    exact ⟨fun q hq => by have := sorted_bound d _ m h.2 q hq; omega, ih _ h.2⟩

theorem Mem.read_write_same (m : Mem) (a : Nat) (b : Byte) (h : m.wf = true) : (m.write a b).read a = b :=
  sget_sput_same 0 m a b (rising_of_sorted 0 0 m h)

theorem Mem.read_write_ne (m : Mem) {a c : Nat} (b : Byte) (h : a ≠ c) : (m.write a b).read c = m.read c :=
  sget_sput_ne 0 m b h

/-! ## Tiles, boxes, dies -/

@[simp] theorem State.tile_updTile (s : State) (t u : Nat) (f : Tile → Tile) :
    (s.updTile t f).tile u = if t = u ∧ u < 160 then f (s.tile u) else s.tile u := vget_vupd _ _ _ _ _

@[simp] theorem State.tile_updCtx (s : State) (t u : Nat) (f : Ctx → Ctx) :
    (s.updCtx t f).tile u = if t = u ∧ u < 160 then { s.tile u with ctx := f (s.tile u).ctx } else s.tile u :=
  vget_vupd _ _ _ _ _

@[simp] theorem State.die_updDie (s : State) (t u : Nat) (f : Die → Die) :
    (s.updDie t f).die u = if t = u ∧ u < 4 then f (s.die u) else s.die u := vget_vupd _ _ _ _ _

@[simp] theorem State.box_updTile (s : State) (t b : Nat) (f : Tile → Tile) : (s.updTile t f).box b = s.box b := rfl
@[simp] theorem State.box_updCtx (s : State) (t b : Nat) (f : Ctx → Ctx) : (s.updCtx t f).box b = s.box b := rfl
@[simp] theorem State.box_updDie (s : State) (t b : Nat) (f : Die → Die) : (s.updDie t f).box b = s.box b := rfl
@[simp] theorem State.die_updTile (s : State) (t d : Nat) (f : Tile → Tile) : (s.updTile t f).die d = s.die d := rfl
@[simp] theorem State.die_updCtx (s : State) (t d : Nat) (f : Ctx → Ctx) : (s.updCtx t f).die d = s.die d := rfl
@[simp] theorem State.die_updBox (s : State) (b d : Nat) (f : Box → Box) : (s.updBox b f).die d = s.die d := rfl
@[simp] theorem State.tile_updBox (s : State) (b t : Nat) (f : Box → Box) : (s.updBox b f).tile t = s.tile t := rfl
@[simp] theorem State.tile_updDie (s : State) (d t : Nat) (f : Die → Die) : (s.updDie d f).tile t = s.tile t := rfl

theorem State.box_updBox_ne (s : State) {b c : Nat} (f : Box → Box) (h : b ≠ c) : (s.updBox b f).box c = s.box c :=
  sget_sput_ne _ _ _ h

theorem State.box_updBox_same (s : State) (b : Nat) (f : Box → Box) (h : Rising s.boxes) :
    (s.updBox b f).box b = f (s.box b) := sget_sput_same _ _ _ _ h

end Sys2Proof.Machine
end

