-- ==== Sys2Proof/Laws/Access.lean ====
section
/-!
SUPPORT. What translation, the writes of memory and the bits that an access sets change: memory, cached translations, dirty
logs, what peers do not see yet, the records of a negative reply and, of a tile, its full bits, what is kept of its beat and the
written maps of the leases on it; and that memory keeps its canonical form.
-/
namespace Sys2Proof.Machine

/-- Of a tile only full bits, what is kept of its beat, and written maps differ. -/
def Tile.likeMem (x y : Tile) : Prop :=
  y = { x with
    owners := y.owners, full := y.full, start := y.start, order := y.order, ctx := { x.ctx with written := y.ctx.written } }

/-- Of a die only the records that wait for its log differ. -/
def Die.likeMem (x y : Die) : Prop := y = { x with records := y.records }

/-- Only what a write of memory may change differs. -/
structure State.likeMem (s t : State) : Prop where
  state : t = { s with
    mem := t.mem, tiles := t.tiles, dies := t.dies, tcache := t.tcache, fresh := t.fresh, dirty := t.dirty, unseen := t.unseen }
  tile : ∀ u, (s.tile u).likeMem (t.tile u)
  die : ∀ d, (s.die d).likeMem (t.die d)
  wf : s.mem.wf = true → t.mem.wf = true

theorem Tile.likeMem.refl (x : Tile) : x.likeMem x := rfl

theorem Tile.likeMem.trans {x y z : Tile} (h : x.likeMem y) (k : y.likeMem z) : x.likeMem z := by
  unfold Tile.likeMem at *
  rw [k, h]

theorem Die.likeMem.trans {x y z : Die} (h : x.likeMem y) (k : y.likeMem z) : x.likeMem z := by
  unfold Die.likeMem at *
  rw [k, h]

theorem State.likeMem.refl (s : State) : s.likeMem s := ⟨rfl, fun _ => rfl, fun _ => rfl, id⟩

theorem State.likeMem.trans {s t r : State} (h : s.likeMem t) (k : t.likeMem r) : s.likeMem r :=
  ⟨by rw [k.state, h.state], fun u => (h.tile u).trans (k.tile u), fun d => (h.die d).trans (k.die d),
    fun w => k.wf (h.wf w)⟩

theorem State.likeMem_of_cache {s t : State} (h : ∃ tc fr, t = { s with tcache := tc, fresh := fr }) : s.likeMem t := by
  obtain ⟨tc, fr, rfl⟩ := h
  exact ⟨rfl, fun _ => rfl, fun _ => rfl, id⟩

/-! ## Translation -/

theorem State.leaf_frame (s : State) (a va : Nat) : ∃ tc fr, (s.leaf a va).2 = { s with tcache := tc, fresh := fr } := by
  simp only [State.leaf, State.draw]
  generalize Option.map (fun x => x.2.2) (s.tcache.find? fun e => e.1 == a && e.2.1 == va / 65536) = c
  generalize Option.map (fun x => x.1) (s.walk a va) = w
  by_cases hf : Config.freeBits s.fresh % 2 = 0 <;> cases c <;> cases w <;> simp only [hf, ↓reduceIte]
  all_goals repeat' split
  all_goals exact ⟨_, _, rfl⟩

theorem State.leaves_frame (a : Nat) : ∀ (l : List Nat) (s : State),
    ∃ tc fr, (s.leaves a l).2 = { s with tcache := tc, fresh := fr } := by
  intro l
  induction l with
  | nil => intro s; exact ⟨_, _, rfl⟩
  | cons va r ih =>
    intro s
    obtain ⟨tc, fr, h⟩ := State.leaf_frame s a va
    rw [State.leaves]
    cases hl : s.leaf a va with
    | mk o s1 =>
      rw [hl] at h
      simp only at h
      cases o with
      | none => exact ⟨tc, fr, h⟩
      | some l =>
        simp only
        split
        · exact ⟨tc, fr, h⟩
        · obtain ⟨tc', fr', k⟩ := ih s1
          cases hr : s1.leaves a r with
          | mk e s2 =>
            rw [hr] at k
            simp only at k
            cases e <;> exact ⟨tc', fr', by simp only; rw [k, h]⟩

/-- A translation changes cached translations only. -/
theorem State.translate_frame (s : State) (a va n : Nat) (w z : Bool) :
    ∃ tc fr, (s.translate a va n w z).2 = { s with tcache := tc, fresh := fr } := by
  obtain ⟨tc, fr, h⟩ := State.leaves_frame a (pagesOf va n) s
  unfold State.translate
  cases hl : s.leaves a (pagesOf va n) with
  | mk e s1 =>
    rw [hl] at h
    simp only at h
    split
    · exact ⟨_, _, rfl⟩
    · split
      · exact ⟨_, _, rfl⟩
      · cases e
        · exact ⟨tc, fr, h⟩
        · simp only
          repeat' split
          all_goals exact ⟨tc, fr, h⟩

theorem State.access_frame (s : State) (a va n : Nat) (w : Bool) :
    ∃ tc fr, (s.access a va n w).2 = { s with tcache := tc, fresh := fr } := s.translate_frame a va n w true

theorem State.reach_frame (s : State) (a va n : Nat) (w : Bool) :
    ∃ tc fr, (s.reach a va n w).2 = { s with tcache := tc, fresh := fr } := s.translate_frame a va n w false

/-! ## Writes -/

theorem State.likeMem_updTile (s : State) (t : Nat) (f : Tile → Tile) (h : ∀ x : Tile, x.likeMem (f x)) : s.likeMem (s.updTile t f) :=
  ⟨rfl, fun u => by rw [State.tile_updTile]; split; · exact h _
                    · rfl, fun _ => rfl, id⟩

theorem State.likeMem_markWritten (s : State) (t off : Nat) : s.likeMem (s.markWritten t off) :=
  s.likeMem_updTile t _ fun _ => rfl

theorem Tile.likeMem_opened (x : Tile) (m : Mem) : x.likeMem (x.opened m) := by
  unfold Tile.opened
  split <;> rfl

theorem Tile.likeMem_putFull (x : Tile) (g : Nat) (v : Bool) : x.likeMem (x.putFull g v) := by
  unfold Tile.putFull
  split
  · rfl
  · split <;> rfl

theorem Tile.likeMem_before (x : Tile) (m : Mem) (by_ : Nat) : x.likeMem (x.before m by_) := by
  unfold Tile.before
  split
  · exact x.likeMem_opened m
  · generalize ho : (if x.box.isSome = true then max by_ x.order else x.order) = o
    have h : x.likeMem { x with order := o } := rfl
    simp only
    split
    · exact h.trans (Tile.likeMem_opened _ m)
    · exact h

theorem State.likeMem_setFull (s : State) (t g : Nat) (v : Bool) (by_ : Nat) : s.likeMem (s.setFull t g v by_) :=
  s.likeMem_updTile t _ fun x => by
    refine Tile.likeMem.trans ?_ (Tile.likeMem_putFull _ g v)
    split
    · exact x.likeMem_before s.mem by_
    · split
      · exact x.likeMem_opened s.mem
      · rfl

theorem State.likeMem_write (s : State) (l : Nat) (b : Byte) : s.likeMem { s with mem := s.mem.write l b } :=
  ⟨rfl, fun _ => rfl, fun _ => rfl, Mem.wf_write _ _ _⟩

theorem State.likeMem_keep (s : State) (l : Nat) (b : Byte) (c : Bool) :
    s.likeMem { s with mem := if c then s.mem else s.mem.write l b } := by
  cases c
  · exact s.likeMem_write l b
  · exact .refl s

theorem Tile.likeMem_start (x : Tile) (y : Option BeatStart) : x.likeMem { x with start := y } := rfl

theorem State.likeMem_hideWrite (s : State) (l : Nat) : s.likeMem (s.hideWrite l) := by
  unfold State.hideWrite
  split
  · exact ⟨rfl, fun _ => rfl, fun _ => rfl, id⟩
  · exact .refl s

theorem State.likeMem_putByte (s : State) (l : Nat) (b : Byte) (by_ : Nat) : s.likeMem (s.putByte l b by_) := by
  unfold State.putByte
  split
  · refine State.likeMem.trans ?_ (State.likeMem_markWritten _ _ _)
    exact State.likeMem.trans (s.likeMem_updTile _ _ fun x => (x.likeMem_before s.mem by_).trans (Tile.likeMem_start _ _))
      (State.likeMem_keep _ l b _)
  · exact (s.likeMem_hideWrite l).trans
      ⟨by unfold State.hideWrite; split <;> rfl, fun _ => by unfold State.hideWrite; split <;> rfl,
        fun _ => by unfold State.hideWrite; split <;> rfl, fun h => by
          refine Mem.wf_write _ _ _ ?_
          unfold State.hideWrite at h
          split at h <;> exact h⟩

theorem State.likeMem_putBytes (l : List (Nat × Byte)) (by_ : Nat) : ∀ s : State, s.likeMem (s.putBytes l by_) := by
  induction l with
  | nil => intro s; exact .refl s
  | cons p r ih => intro s; exact (s.likeMem_putByte p.1 p.2 by_).trans (ih _)

theorem State.likeMem_fillLocs (v : Bool) (by_ : Nat) (l : List Nat) : ∀ s : State, s.likeMem (s.fillLocs v l by_) := by
  induction l with
  | nil => intro s; exact .refl s
  | cons a r ih =>
    intro s
    rw [State.fillLocs]
    refine State.likeMem.trans ?_ (ih _)
    split
    · exact s.likeMem_setFull _ _ _ _
    · exact .refl s

/-- What bytes that another requester puts at locations leave in memory: the last one written to each, and every other
byte. -/
theorem State.putByte_mem (s : State) (l : Nat) (b : Byte) (by_ : Nat) (h : by_ ≠ 0) :
    (s.putByte l b by_).mem = s.mem.write l b := by
  unfold State.putByte
  split
  · simp [State.markWritten, h]
  · rfl

theorem State.putBytes_mem (l : List (Nat × Byte)) (by_ : Nat) (h : by_ ≠ 0) :
    ∀ s : State, (s.putBytes l by_).mem = s.mem.writes l := by
  induction l with
  | nil => intro s; rfl
  | cons p r ih => intro s; rw [State.putBytes, ih, State.putByte_mem _ _ _ _ h]; rfl

/-- A byte that a tile's stream puts at a location stands there, unless another requester has written the location in the
beat (R237). -/
theorem State.putByte_own (s : State) (l : Nat) (b : Byte) (t off : Nat) (h : placeOf l = .window t off) :
    (s.putByte l b 0).mem = if s.outranked t l then s.mem else s.mem.write l b := by
  unfold State.putByte
  rw [h]
  simp [State.markWritten]

theorem State.fillLocs_mem (v : Bool) (by_ : Nat) (l : List Nat) : ∀ s : State, (s.fillLocs v l by_).mem = s.mem := by
  induction l with
  | nil => intro s; rfl
  | cons a r ih =>
    intro s
    rw [State.fillLocs, ih]
    split <;> rfl

theorem Mem.read_writes (l : List (Nat × Byte)) : ∀ (m : Mem) (a : Nat), m.wf = true →
    (m.writes l).read a = match l.reverse.find? fun p => p.1 = a with
      | some p => p.2
      | none => m.read a := by
  induction l with
  | nil => intro m a _; rfl
  | cons p r ih =>
    intro m a h
    rw [Mem.writes, ih _ _ (Mem.wf_write m p.1 p.2 h), List.reverse_cons, List.find?_append]
    cases hf : r.reverse.find? fun q => q.1 = a with
    | some q => rfl
    | none =>
      by_cases hp : p.1 = a
      · subst hp; simp [Mem.read_write_same m p.1 p.2 h]
      · simp [hp, Mem.read_write_ne m p.2 hp]

/-! ## Access and dirty bits -/

theorem State.likeMem_setAD (s : State) (a va : Nat) (d : Bool) : s.likeMem (s.setAD a va d) := by
  unfold State.setAD
  split
  · exact .refl s
  · cases d <;> simp only [Bool.false_eq_true, ↓reduceIte]
    all_goals
      split
      · exact .refl s
      · split
        · exact .refl s
        · exact State.likeMem_putBytes _ _ s

theorem State.likeMem_setADs (a : Nat) (d : Bool) (l : List Nat) : ∀ s : State,
    s.likeMem (l.foldl (fun s x => s.setAD a x d) s) := by
  induction l with
  | nil => intro s; exact .refl s
  | cons x r ih => intro s; exact (s.likeMem_setAD a x d).trans (ih _)

theorem State.likeMem_access (s : State) (a va n : Nat) (w : Bool) : s.likeMem (s.access a va n w).2 :=
  State.likeMem_of_cache (s.access_frame a va n w)

theorem State.likeMem_reach (s : State) (a va n : Nat) (w : Bool) : s.likeMem (s.reach a va n w).2 :=
  State.likeMem_of_cache (s.reach_frame a va n w)

theorem State.likeMem_fresh (s : State) (n : Nat) : s.likeMem { s with fresh := n } := ⟨rfl, fun _ => rfl, fun _ => rfl, id⟩

theorem State.likeMem_ras (s : State) (d : Nat) (c : BitVec 8) (b u x : Nat) : s.likeMem (s.ras d c b u x) :=
  ⟨rfl, fun _ => rfl, fun e => by rw [State.ras, State.die_updDie]; split <;> rfl, id⟩

theorem State.likeMem_nackLog (s : State) (d b u r : Nat) : s.likeMem (s.nackLog d b u r) :=
  (s.likeMem_fresh _).trans (State.likeMem_ras _ _ _ _ _ _)

theorem State.likeMem_rawWrite (s : State) (va : Word) (b : List Byte) : s.likeMem (s.rawWrite va b).1 := by
  unfold State.rawWrite
  have k := s.likeMem_reach 0 va.toNat b.length true
  cases hr : s.reach 0 va.toNat b.length true with
  | mk x s1 =>
    rw [hr] at k
    cases x <;> simp only
    case ok locs ls =>
      split
      · exact (k.trans (State.likeMem_fresh _ _)).trans (State.likeMem_nackLog _ _ _ _ _)
      · exact (k.trans (State.likeMem_setADs 0 true _ s1)).trans (State.likeMem_putBytes _ _ _)
    all_goals exact .refl s

theorem State.likeMem_dirty (s : State) (d : List DirtyLog) : s.likeMem { s with dirty := d } :=
  ⟨rfl, fun _ => rfl, fun _ => rfl, id⟩

theorem State.likeMem_logDirty (s : State) (a page : Nat) : s.likeMem (s.logDirty a page) := by
  unfold State.logDirty
  split
  · exact .refl s
  · split
    · exact .refl s
    · split
      · simp only
        split
        · exact (s.likeMem_dirty _).trans (State.likeMem_rawWrite _ _ _)
        · split
          · exact (s.likeMem_rawWrite _ _).trans (State.likeMem_rawWrite _ _ _)
          · exact s.likeMem_rawWrite _ _
      · exact .refl s

/-- The bits that an access sets change memory, dirty logs and written maps only. -/
theorem State.likeMem_touch (a : Nat) (w : Bool) (l : List Nat) : ∀ s : State, s.likeMem (s.touch a w l) := by
  induction l with
  | nil => intro s; exact .refl s
  | cons va r ih =>
    intro s
    rw [State.touch]
    refine State.likeMem.trans ?_ (ih _)
    refine State.likeMem.trans ?_ (State.likeMem_setAD _ _ _ _)
    split
    · exact s.likeMem_logDirty _ _
    · exact .refl s

/-- A write of memory by a unit. -/
theorem State.likeMem_writeVa (s t : State) (a : Nat) (va : Word) (b : List Byte) (fill : Bool)
    (by_ : Nat) (h : s.writeVa a va b fill by_ = some t) : s.likeMem t := by
  unfold State.writeVa at h
  have k := s.likeMem_reach a va.toNat b.length true
  split at h
  · next locs ls s1 heq =>
    rw [heq] at k
    split at h
    · simp at h
    · simp only [Option.some.injEq] at h
      have q := (k.trans (State.likeMem_touch a true (pagesOf va.toNat b.length) s1)).trans
        (State.likeMem_putBytes (locs.zip b) by_ _)
      subst h
      split
      · exact q.trans (State.likeMem_fillLocs _ _ _ _)
      · exact q
  · simp at h

/-! ## Records -/

/-- Held records that are posted change dies only. -/
theorem State.postHeld_frame (s : State) (d : Nat) : s.postHeld d = { s with dies := (s.postHeld d).dies } := by
  unfold State.postHeld
  generalize (s.die d).heldRecs = l
  induction l generalizing s with
  | nil => rfl
  | cons r l ih =>
    rw [List.foldl_cons, ih]
    split <;> rfl

/-- Records that cease change boxes and dies only. -/
theorem State.cease_frame (s : State) (b : Nat) (f : FaultRec → Bool) :
    s.cease b f = { s with boxes := (s.cease b f).boxes, dies := (s.cease b f).dies } := by
  unfold State.cease
  split
  · rfl
  · simp only
    rw [State.postHeld_frame]
    rfl

theorem State.ceasePages_frame (s : State) (b : Nat) (p : List Nat) :
    s.ceasePages b p = { s with boxes := (s.ceasePages b p).boxes, dies := (s.ceasePages b p).dies } := s.cease_frame b _

/-- A request for a page changes the list of requests only. -/
theorem State.wantPage_frame (s : State) (d a : Nat) (p : Word) :
    s.wantPage d a p = { s with want := (s.wantPage d a p).want } := by
  unfold State.wantPage
  split <;> rfl

/-- A fault record changes boxes, dies and requests only. -/
theorem State.fault_frame (s : State) (b k u e c : Nat) (p : Word) (m : BitVec 32) :
    s.fault b k u e c p m =
      { s with
        boxes := (s.fault b k u e c p m).boxes, dies := (s.fault b k u e c p m).dies, want := (s.fault b k u e c p m).want } := by
  unfold State.fault
  have h := s.wantPage_frame (boxDie b) (s.box b).asid.toNat p
  simp only
  split
  · rw [h]
  · rw [h]; rfl

theorem State.faultPages_frame (b k u : Nat) (l : List Nat) : ∀ s : State,
    s.faultPages b k u l =
      { s with
        boxes := (s.faultPages b k u l).boxes, dies := (s.faultPages b k u l).dies, want := (s.faultPages b k u l).want } := by
  induction l with
  | nil => intro s; rfl
  | cons p r ih =>
    intro s
    have h := s.fault_frame b k u 0 0 (BitVec.ofNat 64 p) 0
    rw [State.faultPages, ih]
    rw [h]

end Sys2Proof.Machine
end

