-- ==== Sys2Proof/Laws/Image.lean ====
section
/-!
SUPPORT. How long the parts of an image are at most (R303, R304, R307, R310), whatever the coder chooses.
-/
namespace Sys2Proof.Machine

theorem length_toBytes (n x : Nat) : (toBytes n x).length = n := by
  induction n generalizing x with
  | zero => rfl
  | succ n ih => rw [toBytes, List.length_cons, ih]

theorem length_padMul_le (n : Nat) (b : List Byte) (h : 0 < n) : (padMul n b).length ≤ b.length + n := by
  rw [padMul, List.length_append, List.length_replicate]
  exact Nat.add_le_add_left (Nat.le_of_lt (Nat.mod_lt _ h)) _

theorem length_flatten_le {α : Type} (m : Nat) (l : List (List α)) (h : ∀ b, b ∈ l → b.length ≤ m) : l.flatten.length ≤ m * l.length := by
  induction l with
  | nil => simp
  | cons b r ih =>
    rw [List.flatten_cons, List.length_append, List.length_cons, Nat.mul_succ]
    have := h b (List.mem_cons_self ..)
    have := ih fun c hc => h c (List.mem_cons_of_mem _ hc)
    omega

theorem length_chunks {α : Type} (k n : Nat) (l : List α) : (chunks k n l).length = n := by
  induction n generalizing l with
  | zero => rfl
  | succ n ih => rw [chunks, List.length_cons, ih]

theorem chunks_length_le {α : Type} (k n : Nat) (l : List α) : ∀ b, b ∈ chunks k n l → b.length ≤ k := by
  induction n generalizing l with
  | zero => intro b h; cases h
  | succ n ih =>
    intro b h
    rw [chunks] at h
    rcases List.mem_cons.mp h with rfl | h
    · exact List.length_take_le ..
    · exact ih _ b h

theorem length_flatMap_eq {α : Type} (m : Nat) (l : List α) (f : α → List Byte) (h : ∀ x, (f x).length = m) :
    (l.flatMap f).length = m * l.length := by
  induction l with
  | nil => rfl
  | cons x r ih => rw [List.flatMap_cons, List.length_append, h, ih, List.length_cons, Nat.mul_succ, Nat.add_comm]

theorem length_rangeFrom (a n : Nat) : (rangeFrom a n).length = n := by
  induction n generalizing a with
  | zero => rfl
  | succ n ih => rw [rangeFrom, List.length_cons, ih]

theorem length_padTo (n : Nat) (b : List Byte) (h : b.length ≤ n) : (padTo n b).length = n := by
  rw [padTo, List.length_append, List.length_replicate]
  omega

/-- A register block takes 1,120 bytes (R306). -/
theorem length_regBlock (c : CRegs) (pend : List FrozenWrite) : (regBlock c pend).length = 1120 := by
  have h : (padTo 272 ((pend.take 17).flatMap pendBytes)).length = 272 := by
    refine length_padTo _ _ ?_
    rw [length_flatMap_eq 16 _ pendBytes fun x => length_toBytes ..]
    have := List.length_take_le 17 pend
    omega
  simp only [regBlock, List.length_append, h, length_toBytes, length_flatMap_eq 8 _ _ fun _ => length_toBytes 8 _,
    length_flatMap_eq 4 _ _ fun _ => length_toBytes 4 _, length_flatMap_eq 2 _ _ fun _ => length_toBytes 2 _,
    length_flatMap_eq 128 _ _ fun _ => length_toBytes 128 _, List.length_drop, Vector.length_toList, length_rangeFrom]

/-- A stream of at most two levels takes 40 bytes (R306). -/
theorem length_streamBytes (y : Stream) (h : y.levels.length ≤ 2) : (streamBytes y).length = 40 := by
  have h2 : ∀ l : Level, (toBytes 2 l.beg ++ toBytes 2 l.fin ++ toBytes 4 l.left ++ toBytes 8 l.it).length = 16 := by
    intro l
    simp only [List.length_append, length_toBytes]
  have h3 := length_flatMap_eq 16 y.levels.reverse _ h2
  rw [List.length_reverse] at h3
  simp only [streamBytes, List.length_append, length_toBytes]
  rw [length_padTo _ _ (by omega)]

/-- A C section takes 2,560 bytes (R306). -/
theorem length_cSection (c : Ctx) (h : ∀ e, (c.strm e).levels.length ≤ 2) : (cSection c).length = 2560 := by
  have hv := length_streamBytes c.v (h .v)
  have hx := length_streamBytes c.x (h .x)
  have hs := length_streamBytes c.s (h .s)
  refine length_padTo _ _ ?_
  cases c.ckpt <;> simp only [List.length_append, length_toBytes, length_regBlock, List.length_replicate, hv, hx, hs] <;> decide

/-- A V section takes 35,520 bytes where no queue holds more than four entries (R132, R306). -/
theorem length_vSection (v : VState) (h : ∀ q, q ∈ v.q.toList → q.length ≤ 4) : (vSection v).length = 35520 := by
  have hq : ∀ l : List (List Entry), (∀ q, q ∈ l → q.length ≤ 4) →
      (l.flatMap fun q => padTo 1024 (q.flatMap fun e => toBytes 256 e.data.toNat)).length = 1024 * l.length := by
    intro l hl
    induction l with
    | nil => rfl
    | cons q r ih =>
      have h1 := hl q (List.mem_cons_self ..)
      have h2 := length_flatMap_eq 256 q (fun e => toBytes 256 e.data.toNat) fun _ => length_toBytes ..
      rw [List.flatMap_cons, List.length_append, length_padTo _ _ (by omega), ih fun q hq => hl q (List.mem_cons_of_mem _ hq), List.length_cons]
      omega
  have hb : ∀ x : Option Bypass, (bypBytes x).length = 264 := by
    intro x
    cases x <;> simp only [bypBytes, List.length_append, length_toBytes, List.length_replicate]
  have hc : ∀ x : CondQueue, (cqRing x).length = 512 := by
    intro x
    rw [cqRing, List.length_map, length_rangeFrom]
  refine length_padTo _ _ ?_
  simp only [List.length_append, hq _ h, length_toBytes, length_flatMap_eq 264 _ _ hb, length_flatMap_eq 512 _ _ hc,
    length_flatMap_eq 4 _ _ fun _ => length_toBytes 4 _, length_flatMap_eq 32 _ _ fun _ => length_toBytes 32 _,
    length_flatMap_eq 2 _ _ fun _ => length_toBytes 2 _,
    length_flatMap_eq 128 _ _ fun _ => length_toBytes 128 _, Vector.length_toList, length_rangeFrom]
  decide

/-- Coded blocks take at most one byte more each. -/
theorem length_encodeRuns_le (fuel k : Nat) (bs : List (List Byte)) (h : ∀ b, b ∈ bs → b.length ≤ 64) :
    (encodeRuns fuel k bs).1.length ≤ 65 * bs.length := by
  induction fuel generalizing k bs with
  | zero => exact Nat.zero_le _
  | succ fuel ih =>
    cases bs with
    | nil => exact Nat.zero_le _
    | cons b r =>
      rw [encodeRuns]
      dsimp only
      generalize hm : Config.freeBits (k + 1) % _ + 1 = n
      have hn : 1 ≤ n := by omega
      have h1 := ih (k + 2) ((b :: r).drop n) fun c hc => h c (List.mem_of_mem_drop hc)
      have h2 := length_flatten_le 64 ((b :: r).take n) fun c hc => h c (List.mem_of_mem_take hc)
      have h3 : (b.take 8).length ≤ 8 := List.length_take_le ..
      rw [List.length_drop, List.length_cons] at h1
      rw [List.length_take, List.length_cons] at h2
      simp only [List.length_append, List.length_cons]
      split <;> first | omega | (simp only [List.length_nil]; omega)

theorem length_encodeCoded_le (k : Nat) (raw : List Byte) : (encodeCoded k raw).1.length ≤ 65 * (raw.length / 64) := by
  have h := length_encodeRuns_le (raw.length / 64) k (chunks 64 (raw.length / 64) raw) (chunks_length_le 64 _ raw)
  rwa [length_chunks] at h

theorem length_sectOf_le (k type rank : Nat) (raw : List Byte) :
    (sectOf k type rank raw).1.data.length ≤ raw.length + raw.length / 64 := by
  rw [sectOf]
  split
  · exact Nat.le_add_right ..
  · have := length_encodeCoded_le (k + 1) raw
    show (encodeCoded (k + 1) raw).1.length ≤ _
    omega

theorem length_layOut (o : Nat) (l : List Sect) :
    (layOut o l).1.length = 24 * l.length ∧ (layOut o l).2.length ≤ (l.map fun x => x.data.length + 8).sum := by
  induction l generalizing o with
  | nil => exact ⟨rfl, Nat.zero_le _⟩
  | cons x r ih =>
    have h := ih (o + (padMul 8 x.data).length)
    have h2 := length_padMul_le 8 x.data (by decide)
    simp only [layOut, List.length_append, List.length_cons, List.map_cons, List.sum_cons, length_toBytes]
    omega

theorem length_headerBytes (nsec gen team kind lease iso asid total nonce : Nat) (dir : List Byte) (h : dir.length ≤ 4032) :
    (headerBytes nsec gen team kind lease iso asid total nonce dir).length = 4096 := by
  simp only [headerBytes, padTo, List.length_append, length_toBytes, List.length_replicate, List.length_cons, List.length_nil]
  omega

theorem length_sha256 (m : List Byte) : (sha256 m).length = 32 := by
  rw [sha256, length_flatMap_eq 4 _ _ fun x => by rw [toBE, List.length_reverse, length_toBytes], Vector.length_toList]

theorem length_xtsBlocks_le (f : List Byte → List Byte) (t : Nat) (l : List (List Byte)) : (xtsBlocks f t l).length ≤ 16 * l.length := by
  induction l generalizing t with
  | nil => exact Nat.zero_le _
  | cons b r ih =>
    have := ih (xtsNext t)
    rw [xtsBlocks, List.length_append, List.length_cons, xorBytes, List.length_zipWith, length_toBytes]
    omega

theorem length_xtsBody_le (dec : Bool) (key : List Byte) (nonce : Nat) (b : List Byte) : (xtsBody dec key nonce b).length ≤ b.length := by
  have h := length_flatten_le 4096 (((rangeFrom 1 (b.length / 4096)).zip (chunks 4096 (b.length / 4096) b)).map fun p =>
    xtsUnit dec (roundKeys key) (roundKeys (toBytes 32 (Config.xtsSecondKey (ofBytes key)))) (nonce * 2 ^ 64 + p.1) p.2) (by
      intro c hc
      obtain ⟨p, hp, rfl⟩ := List.mem_map.mp hc
      have h1 := chunks_length_le 4096 _ b p.2 (List.of_mem_zip hp).2
      have h2 := length_xtsBlocks_le (if dec then aesDecrypt (roundKeys key) else aesEncrypt (roundKeys key))
        (ofBytes (aesEncrypt (roundKeys (toBytes 32 (Config.xtsSecondKey (ofBytes key)))) (toBytes 16 (nonce * 2 ^ 64 + p.1))))
        (chunks 16 (p.2.length / 16) p.2)
      rw [length_chunks] at h2
      rw [xtsUnit]
      omega)
  rw [List.length_map, List.length_zip, length_chunks] at h
  rw [xtsBody, ← List.flatMap_def] at *
  have : min (rangeFrom 1 (b.length / 4096)).length (b.length / 4096) ≤ b.length / 4096 := Nat.min_le_right ..
  exact Nat.le_trans h (by omega)

/-- An image is a header and at most a body that holds its sections, its trailer and the padding (R303). -/
theorem length_imageBytes_le (x : Box) (ranks : List ImgRank) (kind iso nonce k : Nat) (key : Option (List Byte)) (n : Nat)
    (h1 : ((rankSects k 0 ranks).1 ++ boxSects x).length ≤ 167)
    (h2 : ((((rankSects k 0 ranks).1 ++ boxSects x).map fun y => y.data.length + 8)).sum ≤ n) :
    1 ≤ (imageBytes x ranks kind iso nonce k key).1.length ∧ (imageBytes x ranks kind iso nonce k key).1.length ≤ n + 12288 := by
  have h3 := length_layOut 4096 ((rankSects k 0 ranks).1 ++ boxSects x)
  have h4 := length_layOut 4096 ((rankSects k 0 ranks).1 ++ boxSects x ++ [⟨15, 0xFF, 0, 64, List.replicate 64 0⟩])
  have h5 : ∀ a b c d e f g i j, (headerBytes a b c d e f g i j
      (layOut 4096 ((rankSects k 0 ranks).1 ++ boxSects x ++ [⟨15, 0xFF, 0, 64, List.replicate 64 0⟩])).1).length = 4096 := by
    intro a b c d e f g i j
    refine length_headerBytes _ _ _ _ _ _ _ _ _ _ ?_
    rw [h4.1, List.length_append, List.length_singleton]
    omega
  simp only [imageBytes, List.length_append, h5]
  refine ⟨by omega, ?_⟩
  split
  · refine Nat.le_trans (Nat.add_le_add_left (length_xtsBody_le ..) _) ?_
    simp only [padTo, List.length_append, List.length_replicate, length_sha256]
    omega
  · simp only [padTo, List.length_append, List.length_replicate, length_sha256]
    omega

end Sys2Proof.Machine
end

