-- ==== Sys2Proof/Laws/Issue.lean ====
section
/-!
SUPPORT. What the issue of a word does beside its effect: where its stream goes on, and the records of its issue.
-/
namespace Sys2Proof.Machine

/-- A tile whose word of stream `e` has issued with the context then `c`. -/
def Tile.issue (x : Tile) (e : Strm) (c : Ctx) : Tile :=
  { x with
    issued := x.issued ||| strmBit e
    since := vput x.since e.num none
    retried := vput x.retried e.num false
    ctx := if e = .s then { c with spe := { c.spe with used := true } } else c }

/-- The state `s` after its word at issue, with effect `s'`, has passed. -/
def State.past (s s' : State) : State := (s'.moveOn s.cur.at_ s.cur.strm s.cur.idx).markIssued s.cur.at_ s.cur.strm

theorem runWord_next (s s' : State) : runWord s (.next s') = .next (s.past s') := rfl

theorem State.tile_markIssued (s : State) (t u : Nat) (e : Strm) :
    (s.markIssued t e).tile u = if t = u ∧ u < 160 then (s.tile u).issue e (s.tile u).ctx else s.tile u :=
  State.tile_updTile s t u _

theorem State.tile_moveOn (s : State) (t u : Nat) (e : Strm) (x : Nat) :
    (s.moveOn t e x).tile u = if t = u ∧ u < 160 then
      { s.tile u with ctx := (s.tile u).ctx.passAt e x (x + 1) (.after ((s.tile u).clock e)) } else s.tile u :=
  State.tile_updTile s t u _

theorem State.tile_moveTo (s : State) (t u : Nat) (e : Strm) (pc : Nat) :
    (s.moveTo t e pc).tile u = if t = u ∧ u < 160 then
      { s.tile u with ctx := (s.tile u).ctx.setPc e pc (.after ((s.tile u).clock e)) } else s.tile u :=
  State.tile_updTile s t u _

theorem State.tile_redirect (s : State) (t u : Nat) (r : Bool) :
    (s.redirect t r).tile u = if r = true ∧ t = u ∧ u < 160 then { s.tile u with holdC := (s.tile u).beat + 3 }
      else s.tile u := by
  cases r
  · simp [State.redirect]
  · simp only [State.redirect, if_true, State.tile_updTile, true_and]

theorem State.tile_past (s s' : State) (u : Nat) :
    (s.past s').tile u = if s.cur.at_ = u ∧ u < 160 then
      (s'.tile u).issue s.cur.strm
        ((s'.tile u).ctx.passAt s.cur.strm s.cur.idx (s.cur.idx + 1) (.after ((s'.tile u).clock s.cur.strm)))
      else s'.tile u := by
  simp only [State.past, State.tile_markIssued, State.tile_moveOn]
  split <;> rfl

/-- Passing a word changes tiles only, and marks the step as an issue. -/
theorem State.past_eq (s s' : State) : s.past s' = { s' with tiles := (s.past s').tiles, last := .issued } := rfl

theorem backEdge_of_none (x : Nat) (c : CRegs) :
    ∀ n, (∀ k, k < n → c.lpact.getLsbD k = true → (vget 0 c.lpend k).toNat ≠ x) → backEdge x n c = (c, none) := by
  intro n
  induction n with
  | zero => intro _; rfl
  | succ n ih =>
    intro h
    rw [backEdge, if_neg, ih fun k hk => h k (by omega)]
    simp only [Bool.and_eq_true, beq_iff_eq, not_and]
    exact h n (by omega)

/-- A back-edge changes the loop counts and activity bits only. -/
theorem backEdge_frame (x : Nat) : ∀ (n : Nat) (c : CRegs),
    (backEdge x n c).1 = { c with lpcnt := (backEdge x n c).1.lpcnt, lpact := (backEdge x n c).1.lpact } := by
  intro n
  induction n with
  | zero => intro c; rfl
  | succ n ih =>
    intro c
    rw [backEdge]
    split
    · split
      · rfl
      · generalize hc : ({ c with lpcnt := vput c.lpcnt n 0, lpact := setBit c.lpact n false } : CRegs) = c'
        have h := ih c'
        cases hb : backEdge x n c' with
        | mk r k =>
          rw [hb] at h
          simp only at h
          cases k <;> (simp only [hb]; rw [h]; subst hc; rfl)
    · exact ih c

/-- A back-edge reads no pending write. -/
theorem backEdge_pend (x : Nat) (l : List PendWrite) : ∀ (n : Nat) (c : CRegs),
    backEdge x n { c with pend := l } = ({ (backEdge x n c).1 with pend := l }, (backEdge x n c).2) := by
  intro n
  induction n with
  | zero => intro c; rfl
  | succ n ih =>
    intro c
    simp only [backEdge]
    split
    · split
      · rfl
      · rw [ih { c with lpcnt := vput c.lpcnt n 0, lpact := setBit c.lpact n false }]
        cases hb : backEdge x n { c with lpcnt := vput c.lpcnt n 0, lpact := setBit c.lpact n false } with
        | mk r k => cases k <;> rfl
    · exact ih c

theorem Ctx.passAt_c (c : Ctx) (x n : Nat) (d : Due) :
    c.passAt .c x n d = { c with c := (backEdge x 3 c.c).1, mpc := (backEdge x 3 c.c).2.getD n, due := d } := rfl

end Sys2Proof.Machine
end

