-- ==== Sys2Proof/Laws/PerInstr.lean ====
section
/-!
SUPPORT. The family `Form` of per-instruction statements: an instruction is a word of some stream exactly where it has an OPC value
and a body, and it is at most one of a word, a front-end packet and a unit command.
-/
namespace Sys2Proof.Laws

/-- A word has a stream whose opcode map holds it, and is no packet and no unit command; a packet is no unit command (R50, R366,
R327). -/
def Form.Statement (i : Instr) : Prop :=
  ((streamsOf i).isEmpty = (opcBody i).isNone) ∧ ((opcBody i).isSome = true → encodePacket i = none ∧ encodeUnit i = none)
    ∧ ((encodePacket i).isSome = true → encodeUnit i = none)

/-- Anything follows from `false = true`. -/
theorem ofFalse {p : Prop} (h : false = true) : p := Bool.noConfusion h

theorem Form.nop : Form.Statement (.nop) :=
  ⟨rfl, fun _ => ⟨rfl, rfl⟩, fun _ => rfl⟩

theorem Form.tend : Form.Statement (.tend) :=
  ⟨rfl, fun _ => ⟨rfl, rfl⟩, fun _ => rfl⟩

theorem Form.srep (f : FP) : Form.Statement (.srep f) :=
  ⟨rfl, fun _ => ⟨rfl, rfl⟩, fun _ => rfl⟩

theorem Form.waitc (f : FW) : Form.Statement (.waitc f) :=
  ⟨rfl, fun _ => ⟨rfl, rfl⟩, fun _ => rfl⟩

theorem Form.tgo (f : FT) : Form.Statement (.tgo f) :=
  ⟨rfl, fun _ => ⟨rfl, rfl⟩, fun _ => rfl⟩

theorem Form.add (f : FCR) : Form.Statement (.add f) :=
  ⟨rfl, fun _ => ⟨rfl, rfl⟩, fun _ => rfl⟩

theorem Form.sub (f : FCR) : Form.Statement (.sub f) :=
  ⟨rfl, fun _ => ⟨rfl, rfl⟩, fun _ => rfl⟩

theorem Form.and (f : FCR) : Form.Statement (.and f) :=
  ⟨rfl, fun _ => ⟨rfl, rfl⟩, fun _ => rfl⟩

theorem Form.or (f : FCR) : Form.Statement (.or f) :=
  ⟨rfl, fun _ => ⟨rfl, rfl⟩, fun _ => rfl⟩

theorem Form.xor (f : FCR) : Form.Statement (.xor f) :=
  ⟨rfl, fun _ => ⟨rfl, rfl⟩, fun _ => rfl⟩

theorem Form.sll (f : FCR) : Form.Statement (.sll f) :=
  ⟨rfl, fun _ => ⟨rfl, rfl⟩, fun _ => rfl⟩

theorem Form.srl (f : FCR) : Form.Statement (.srl f) :=
  ⟨rfl, fun _ => ⟨rfl, rfl⟩, fun _ => rfl⟩

theorem Form.sra (f : FCR) : Form.Statement (.sra f) :=
  ⟨rfl, fun _ => ⟨rfl, rfl⟩, fun _ => rfl⟩

theorem Form.mul (f : FCR) : Form.Statement (.mul f) :=
  ⟨rfl, fun _ => ⟨rfl, rfl⟩, fun _ => rfl⟩

theorem Form.mulh (f : FCR) : Form.Statement (.mulh f) :=
  ⟨rfl, fun _ => ⟨rfl, rfl⟩, fun _ => rfl⟩

theorem Form.div (f : FCR) : Form.Statement (.div f) :=
  ⟨rfl, fun _ => ⟨rfl, rfl⟩, fun _ => rfl⟩

theorem Form.rem (f : FCR) : Form.Statement (.rem f) :=
  ⟨rfl, fun _ => ⟨rfl, rfl⟩, fun _ => rfl⟩

theorem Form.min (f : FCR) : Form.Statement (.min f) :=
  ⟨rfl, fun _ => ⟨rfl, rfl⟩, fun _ => rfl⟩

theorem Form.max (f : FCR) : Form.Statement (.max f) :=
  ⟨rfl, fun _ => ⟨rfl, rfl⟩, fun _ => rfl⟩

theorem Form.cmpeq (f : FCR) : Form.Statement (.cmpeq f) :=
  ⟨rfl, fun _ => ⟨rfl, rfl⟩, fun _ => rfl⟩

theorem Form.cmplt (f : FCR) : Form.Statement (.cmplt f) :=
  ⟨rfl, fun _ => ⟨rfl, rfl⟩, fun _ => rfl⟩

theorem Form.cmpltu (f : FCR) : Form.Statement (.cmpltu f) :=
  ⟨rfl, fun _ => ⟨rfl, rfl⟩, fun _ => rfl⟩

theorem Form.sel (f : FCR) : Form.Statement (.sel f) :=
  ⟨rfl, fun _ => ⟨rfl, rfl⟩, fun _ => rfl⟩

theorem Form.addi (f : FCI) : Form.Statement (.addi f) :=
  ⟨rfl, fun _ => ⟨rfl, rfl⟩, fun _ => rfl⟩

theorem Form.andi (f : FCI) : Form.Statement (.andi f) :=
  ⟨rfl, fun _ => ⟨rfl, rfl⟩, fun _ => rfl⟩

theorem Form.ori (f : FCI) : Form.Statement (.ori f) :=
  ⟨rfl, fun _ => ⟨rfl, rfl⟩, fun _ => rfl⟩

theorem Form.xori (f : FCI) : Form.Statement (.xori f) :=
  ⟨rfl, fun _ => ⟨rfl, rfl⟩, fun _ => rfl⟩

theorem Form.slli (f : FCI) : Form.Statement (.slli f) :=
  ⟨rfl, fun _ => ⟨rfl, rfl⟩, fun _ => rfl⟩

theorem Form.srli (f : FCI) : Form.Statement (.srli f) :=
  ⟨rfl, fun _ => ⟨rfl, rfl⟩, fun _ => rfl⟩

theorem Form.srai (f : FCI) : Form.Statement (.srai f) :=
  ⟨rfl, fun _ => ⟨rfl, rfl⟩, fun _ => rfl⟩

theorem Form.lui (f : FCI) : Form.Statement (.lui f) :=
  ⟨rfl, fun _ => ⟨rfl, rfl⟩, fun _ => rfl⟩

theorem Form.muli (f : FCI) : Form.Statement (.muli f) :=
  ⟨rfl, fun _ => ⟨rfl, rfl⟩, fun _ => rfl⟩

theorem Form.cmpeqi (f : FCI) : Form.Statement (.cmpeqi f) :=
  ⟨rfl, fun _ => ⟨rfl, rfl⟩, fun _ => rfl⟩

theorem Form.cmplti (f : FCI) : Form.Statement (.cmplti f) :=
  ⟨rfl, fun _ => ⟨rfl, rfl⟩, fun _ => rfl⟩

theorem Form.ld (f : FCM) : Form.Statement (.ld f) :=
  ⟨rfl, fun _ => ⟨rfl, rfl⟩, fun _ => rfl⟩

theorem Form.st (f : FCM) : Form.Statement (.st f) :=
  ⟨rfl, fun _ => ⟨rfl, rfl⟩, fun _ => rfl⟩

theorem Form.amoadd (f : FCM) : Form.Statement (.amoadd f) :=
  ⟨rfl, fun _ => ⟨rfl, rfl⟩, fun _ => rfl⟩

theorem Form.amoswap (f : FCM) : Form.Statement (.amoswap f) :=
  ⟨rfl, fun _ => ⟨rfl, rfl⟩, fun _ => rfl⟩

theorem Form.amocas (f : FCM) : Form.Statement (.amocas f) :=
  ⟨rfl, fun _ => ⟨rfl, rfl⟩, fun _ => rfl⟩

theorem Form.amomin (f : FCM) : Form.Statement (.amomin f) :=
  ⟨rfl, fun _ => ⟨rfl, rfl⟩, fun _ => rfl⟩

theorem Form.amomax (f : FCM) : Form.Statement (.amomax f) :=
  ⟨rfl, fun _ => ⟨rfl, rfl⟩, fun _ => rfl⟩

theorem Form.beq (f : FCB) : Form.Statement (.beq f) :=
  ⟨rfl, fun _ => ⟨rfl, rfl⟩, fun _ => rfl⟩

theorem Form.bne (f : FCB) : Form.Statement (.bne f) :=
  ⟨rfl, fun _ => ⟨rfl, rfl⟩, fun _ => rfl⟩

theorem Form.blt (f : FCB) : Form.Statement (.blt f) :=
  ⟨rfl, fun _ => ⟨rfl, rfl⟩, fun _ => rfl⟩

theorem Form.bge (f : FCB) : Form.Statement (.bge f) :=
  ⟨rfl, fun _ => ⟨rfl, rfl⟩, fun _ => rfl⟩

theorem Form.bltu (f : FCB) : Form.Statement (.bltu f) :=
  ⟨rfl, fun _ => ⟨rfl, rfl⟩, fun _ => rfl⟩

theorem Form.bgeu (f : FCB) : Form.Statement (.bgeu f) :=
  ⟨rfl, fun _ => ⟨rfl, rfl⟩, fun _ => rfl⟩

theorem Form.jal (f : FCB) : Form.Statement (.jal f) :=
  ⟨rfl, fun _ => ⟨rfl, rfl⟩, fun _ => rfl⟩

theorem Form.jalr (f : FCB) : Form.Statement (.jalr f) :=
  ⟨rfl, fun _ => ⟨rfl, rfl⟩, fun _ => rfl⟩

theorem Form.kbr (f : FCB) : Form.Statement (.kbr f) :=
  ⟨rfl, fun _ => ⟨rfl, rfl⟩, fun _ => rfl⟩

theorem Form.loop (f : FCL) : Form.Statement (.loop f) :=
  ⟨rfl, fun _ => ⟨rfl, rfl⟩, fun _ => rfl⟩

theorem Form.lprot (f : FCL) : Form.Statement (.lprot f) :=
  ⟨rfl, fun _ => ⟨rfl, rfl⟩, fun _ => rfl⟩

theorem Form.mfs (f : FCS) : Form.Statement (.mfs f) :=
  ⟨rfl, fun _ => ⟨rfl, rfl⟩, fun _ => rfl⟩

theorem Form.mts (f : FCS) : Form.Statement (.mts f) :=
  ⟨rfl, fun _ => ⟨rfl, rfl⟩, fun _ => rfl⟩

theorem Form.mtsClkrq (f : FCS) : Form.Statement (.mtsClkrq f) :=
  ⟨rfl, fun _ => ⟨rfl, rfl⟩, fun _ => rfl⟩

theorem Form.mtsLpbegLpend (f : FCS) : Form.Statement (.mtsLpbegLpend f) :=
  ⟨rfl, fun _ => ⟨rfl, rfl⟩, fun _ => rfl⟩

theorem Form.mtsLpcnt (f : FCS) : Form.Statement (.mtsLpcnt f) :=
  ⟨rfl, fun _ => ⟨rfl, rfl⟩, fun _ => rfl⟩

theorem Form.mtsEvpend (f : FCS) : Form.Statement (.mtsEvpend f) :=
  ⟨rfl, fun _ => ⟨rfl, rfl⟩, fun _ => rfl⟩

theorem Form.mtsSflags (f : FCS) : Form.Statement (.mtsSflags f) :=
  ⟨rfl, fun _ => ⟨rfl, rfl⟩, fun _ => rfl⟩

theorem Form.fence (f : FCS) : Form.Statement (.fence f) :=
  ⟨rfl, fun _ => ⟨rfl, rfl⟩, fun _ => rfl⟩

theorem Form.ceapp (f : FCR) : Form.Statement (.ceapp f) :=
  ⟨rfl, fun _ => ⟨rfl, rfl⟩, fun _ => rfl⟩

theorem Form.cetail (f : FCR) : Form.Statement (.cetail f) :=
  ⟨rfl, fun _ => ⟨rfl, rfl⟩, fun _ => rfl⟩

theorem Form.binit (f : FCR) : Form.Statement (.binit f) :=
  ⟨rfl, fun _ => ⟨rfl, rfl⟩, fun _ => rfl⟩

theorem Form.barrive (f : FCR) : Form.Statement (.barrive f) :=
  ⟨rfl, fun _ => ⟨rfl, rfl⟩, fun _ => rfl⟩

theorem Form.bwait (f : FCR) : Form.Statement (.bwait f) :=
  ⟨rfl, fun _ => ⟨rfl, rfl⟩, fun _ => rfl⟩

theorem Form.btest (f : FCR) : Form.Statement (.btest f) :=
  ⟨rfl, fun _ => ⟨rfl, rfl⟩, fun _ => rfl⟩

theorem Form.qsend (f : FCR) : Form.Statement (.qsend f) :=
  ⟨rfl, fun _ => ⟨rfl, rfl⟩, fun _ => rfl⟩

theorem Form.qrecv (f : FCR) : Form.Statement (.qrecv f) :=
  ⟨rfl, fun _ => ⟨rfl, rfl⟩, fun _ => rfl⟩

theorem Form.qpoll (f : FCR) : Form.Statement (.qpoll f) :=
  ⟨rfl, fun _ => ⟨rfl, rfl⟩, fun _ => rfl⟩

theorem Form.kpop (f : FCR) : Form.Statement (.kpop f) :=
  ⟨rfl, fun _ => ⟨rfl, rfl⟩, fun _ => rfl⟩

theorem Form.cxsw (f : FCB) : Form.Statement (.cxsw f) :=
  ⟨rfl, fun _ => ⟨rfl, rfl⟩, fun _ => rfl⟩

theorem Form.cxpark (f : FCB) : Form.Statement (.cxpark f) :=
  ⟨rfl, fun _ => ⟨rfl, rfl⟩, fun _ => rfl⟩

theorem Form.cxyield (f : FCB) : Form.Statement (.cxyield f) :=
  ⟨rfl, fun _ => ⟨rfl, rfl⟩, fun _ => rfl⟩

theorem Form.slsub (f : FCR) : Form.Statement (.slsub f) :=
  ⟨rfl, fun _ => ⟨rfl, rfl⟩, fun _ => rfl⟩

theorem Form.slget (f : FCR) : Form.Statement (.slget f) :=
  ⟨rfl, fun _ => ⟨rfl, rfl⟩, fun _ => rfl⟩

theorem Form.slcfgDrain (f : FCR) : Form.Statement (.slcfgDrain f) :=
  ⟨rfl, fun _ => ⟨rfl, rfl⟩, fun _ => rfl⟩

theorem Form.slcfgFlush (f : FCR) : Form.Statement (.slcfgFlush f) :=
  ⟨rfl, fun _ => ⟨rfl, rfl⟩, fun _ => rfl⟩

theorem Form.trap (f : FCI) : Form.Statement (.trap f) :=
  ⟨rfl, fun _ => ⟨rfl, rfl⟩, fun _ => rfl⟩

theorem Form.tret (f : FCI) : Form.Statement (.tret f) :=
  ⟨rfl, fun _ => ⟨rfl, rfl⟩, fun _ => rfl⟩

theorem Form.tretPass (f : FCI) : Form.Statement (.tretPass f) :=
  ⟨rfl, fun _ => ⟨rfl, rfl⟩, fun _ => rfl⟩

theorem Form.syscExit (f : FCI) : Form.Statement (.syscExit f) :=
  ⟨rfl, fun _ => ⟨rfl, rfl⟩, fun _ => rfl⟩

theorem Form.syscNotify (f : FCI) : Form.Statement (.syscNotify f) :=
  ⟨rfl, fun _ => ⟨rfl, rfl⟩, fun _ => rfl⟩

theorem Form.vadd (f : FVR) : Form.Statement (.vadd f) :=
  ⟨rfl, fun _ => ⟨rfl, rfl⟩, fun _ => rfl⟩

theorem Form.vsub (f : FVR) : Form.Statement (.vsub f) :=
  ⟨rfl, fun _ => ⟨rfl, rfl⟩, fun _ => rfl⟩

theorem Form.vmul (f : FVR) : Form.Statement (.vmul f) :=
  ⟨rfl, fun _ => ⟨rfl, rfl⟩, fun _ => rfl⟩

theorem Form.vfma (f : FVR) : Form.Statement (.vfma f) :=
  ⟨rfl, fun _ => ⟨rfl, rfl⟩, fun _ => rfl⟩

theorem Form.vfms (f : FVR) : Form.Statement (.vfms f) :=
  ⟨rfl, fun _ => ⟨rfl, rfl⟩, fun _ => rfl⟩

theorem Form.vnfma (f : FVR) : Form.Statement (.vnfma f) :=
  ⟨rfl, fun _ => ⟨rfl, rfl⟩, fun _ => rfl⟩

theorem Form.vmin (f : FVR) : Form.Statement (.vmin f) :=
  ⟨rfl, fun _ => ⟨rfl, rfl⟩, fun _ => rfl⟩

theorem Form.vmax (f : FVR) : Form.Statement (.vmax f) :=
  ⟨rfl, fun _ => ⟨rfl, rfl⟩, fun _ => rfl⟩

theorem Form.vabs (f : FVR) : Form.Statement (.vabs f) :=
  ⟨rfl, fun _ => ⟨rfl, rfl⟩, fun _ => rfl⟩

theorem Form.vneg (f : FVR) : Form.Statement (.vneg f) :=
  ⟨rfl, fun _ => ⟨rfl, rfl⟩, fun _ => rfl⟩

theorem Form.vand (f : FVR) : Form.Statement (.vand f) :=
  ⟨rfl, fun _ => ⟨rfl, rfl⟩, fun _ => rfl⟩

theorem Form.vor (f : FVR) : Form.Statement (.vor f) :=
  ⟨rfl, fun _ => ⟨rfl, rfl⟩, fun _ => rfl⟩

theorem Form.vxor (f : FVR) : Form.Statement (.vxor f) :=
  ⟨rfl, fun _ => ⟨rfl, rfl⟩, fun _ => rfl⟩

theorem Form.vandn (f : FVR) : Form.Statement (.vandn f) :=
  ⟨rfl, fun _ => ⟨rfl, rfl⟩, fun _ => rfl⟩

theorem Form.vsll (f : FVR) : Form.Statement (.vsll f) :=
  ⟨rfl, fun _ => ⟨rfl, rfl⟩, fun _ => rfl⟩

theorem Form.vsrl (f : FVR) : Form.Statement (.vsrl f) :=
  ⟨rfl, fun _ => ⟨rfl, rfl⟩, fun _ => rfl⟩

theorem Form.vsra (f : FVR) : Form.Statement (.vsra f) :=
  ⟨rfl, fun _ => ⟨rfl, rfl⟩, fun _ => rfl⟩

theorem Form.vfsl (f : FVR) : Form.Statement (.vfsl f) :=
  ⟨rfl, fun _ => ⟨rfl, rfl⟩, fun _ => rfl⟩

theorem Form.vfsr (f : FVR) : Form.Statement (.vfsr f) :=
  ⟨rfl, fun _ => ⟨rfl, rfl⟩, fun _ => rfl⟩

theorem Form.vmulh (f : FVR) : Form.Statement (.vmulh f) :=
  ⟨rfl, fun _ => ⟨rfl, rfl⟩, fun _ => rfl⟩

theorem Form.vavg (f : FVR) : Form.Statement (.vavg f) :=
  ⟨rfl, fun _ => ⟨rfl, rfl⟩, fun _ => rfl⟩

theorem Form.vclz (f : FVR) : Form.Statement (.vclz f) :=
  ⟨rfl, fun _ => ⟨rfl, rfl⟩, fun _ => rfl⟩

theorem Form.vpopc (f : FVR) : Form.Statement (.vpopc f) :=
  ⟨rfl, fun _ => ⟨rfl, rfl⟩, fun _ => rfl⟩

theorem Form.vsel (f : FVR) : Form.Statement (.vsel f) :=
  ⟨rfl, fun _ => ⟨rfl, rfl⟩, fun _ => rfl⟩

theorem Form.vmov (f : FVR) : Form.Statement (.vmov f) :=
  ⟨rfl, fun _ => ⟨rfl, rfl⟩, fun _ => rfl⟩

theorem Form.vexp (f : FVR) : Form.Statement (.vexp f) :=
  ⟨rfl, fun _ => ⟨rfl, rfl⟩, fun _ => rfl⟩

theorem Form.vrcp (f : FVR) : Form.Statement (.vrcp f) :=
  ⟨rfl, fun _ => ⟨rfl, rfl⟩, fun _ => rfl⟩

theorem Form.vrsq (f : FVR) : Form.Statement (.vrsq f) :=
  ⟨rfl, fun _ => ⟨rfl, rfl⟩, fun _ => rfl⟩

theorem Form.vaddi (f : FVI) : Form.Statement (.vaddi f) :=
  ⟨rfl, fun _ => ⟨rfl, rfl⟩, fun _ => rfl⟩

theorem Form.vmuli (f : FVI) : Form.Statement (.vmuli f) :=
  ⟨rfl, fun _ => ⟨rfl, rfl⟩, fun _ => rfl⟩

theorem Form.vslli (f : FVI) : Form.Statement (.vslli f) :=
  ⟨rfl, fun _ => ⟨rfl, rfl⟩, fun _ => rfl⟩

theorem Form.vsrli (f : FVI) : Form.Statement (.vsrli f) :=
  ⟨rfl, fun _ => ⟨rfl, rfl⟩, fun _ => rfl⟩

theorem Form.vsrai (f : FVI) : Form.Statement (.vsrai f) :=
  ⟨rfl, fun _ => ⟨rfl, rfl⟩, fun _ => rfl⟩

theorem Form.vfsli (f : FVI) : Form.Statement (.vfsli f) :=
  ⟨rfl, fun _ => ⟨rfl, rfl⟩, fun _ => rfl⟩

theorem Form.vfsri (f : FVI) : Form.Statement (.vfsri f) :=
  ⟨rfl, fun _ => ⟨rfl, rfl⟩, fun _ => rfl⟩

theorem Form.vsplat (f : FVI) : Form.Statement (.vsplat f) :=
  ⟨rfl, fun _ => ⟨rfl, rfl⟩, fun _ => rfl⟩

theorem Form.vcvt (f : FVR) : Form.Statement (.vcvt f) :=
  ⟨rfl, fun _ => ⟨rfl, rfl⟩, fun _ => rfl⟩

theorem Form.vpack (f : FVR) : Form.Statement (.vpack f) :=
  ⟨rfl, fun _ => ⟨rfl, rfl⟩, fun _ => rfl⟩

theorem Form.vunpk (f : FVR) : Form.Statement (.vunpk f) :=
  ⟨rfl, fun _ => ⟨rfl, rfl⟩, fun _ => rfl⟩

theorem Form.vrsum (f : FVR) : Form.Statement (.vrsum f) :=
  ⟨rfl, fun _ => ⟨rfl, rfl⟩, fun _ => rfl⟩

theorem Form.vrmax (f : FVR) : Form.Statement (.vrmax f) :=
  ⟨rfl, fun _ => ⟨rfl, rfl⟩, fun _ => rfl⟩

theorem Form.vrmin (f : FVR) : Form.Statement (.vrmin f) :=
  ⟨rfl, fun _ => ⟨rfl, rfl⟩, fun _ => rfl⟩

theorem Form.vgmax (f : FVR) : Form.Statement (.vgmax f) :=
  ⟨rfl, fun _ => ⟨rfl, rfl⟩, fun _ => rfl⟩

theorem Form.vgsum (f : FVR) : Form.Statement (.vgsum f) :=
  ⟨rfl, fun _ => ⟨rfl, rfl⟩, fun _ => rfl⟩

theorem Form.vrarg (f : FVR) : Form.Statement (.vrarg f) :=
  ⟨rfl, fun _ => ⟨rfl, rfl⟩, fun _ => rfl⟩

theorem Form.vld (f : FVM) : Form.Statement (.vld f) :=
  ⟨rfl, fun _ => ⟨rfl, rfl⟩, fun _ => rfl⟩

theorem Form.vst (f : FVM) : Form.Statement (.vst f) :=
  ⟨rfl, fun _ => ⟨rfl, rfl⟩, fun _ => rfl⟩

theorem Form.vstu (f : FVM) : Form.Statement (.vstu f) :=
  ⟨rfl, fun _ => ⟨rfl, rfl⟩, fun _ => rfl⟩

theorem Form.vldm (f : FVM) : Form.Statement (.vldm f) :=
  ⟨rfl, fun _ => ⟨rfl, rfl⟩, fun _ => rfl⟩

theorem Form.vstm (f : FVM) : Form.Statement (.vstm f) :=
  ⟨rfl, fun _ => ⟨rfl, rfl⟩, fun _ => rfl⟩

theorem Form.vcpush (f : FVR) : Form.Statement (.vcpush f) :=
  ⟨rfl, fun _ => ⟨rfl, rfl⟩, fun _ => rfl⟩

theorem Form.vcpop (f : FVR) : Form.Statement (.vcpop f) :=
  ⟨rfl, fun _ => ⟨rfl, rfl⟩, fun _ => rfl⟩

theorem Form.vswcfg (f : FVR) : Form.Statement (.vswcfg f) :=
  ⟨rfl, fun _ => ⟨rfl, rfl⟩, fun _ => rfl⟩

theorem Form.vswget (f : FVR) : Form.Statement (.vswget f) :=
  ⟨rfl, fun _ => ⟨rfl, rfl⟩, fun _ => rfl⟩

theorem Form.vtopk (f : FVI) : Form.Statement (.vtopk f) :=
  ⟨rfl, fun _ => ⟨rfl, rfl⟩, fun _ => rfl⟩

theorem Form.vconf (f : FVI) : Form.Statement (.vconf f) :=
  ⟨rfl, fun _ => ⟨rfl, rfl⟩, fun _ => rfl⟩

theorem Form.vcmpeq (f : FVR) : Form.Statement (.vcmpeq f) :=
  ⟨rfl, fun _ => ⟨rfl, rfl⟩, fun _ => rfl⟩

theorem Form.vcmplt (f : FVR) : Form.Statement (.vcmplt f) :=
  ⟨rfl, fun _ => ⟨rfl, rfl⟩, fun _ => rfl⟩

theorem Form.vcmple (f : FVR) : Form.Statement (.vcmple f) :=
  ⟨rfl, fun _ => ⟨rfl, rfl⟩, fun _ => rfl⟩

theorem Form.vkset (f : FVR) : Form.Statement (.vkset f) :=
  ⟨rfl, fun _ => ⟨rfl, rfl⟩, fun _ => rfl⟩

theorem Form.vkclr (f : FVR) : Form.Statement (.vkclr f) :=
  ⟨rfl, fun _ => ⟨rfl, rfl⟩, fun _ => rfl⟩

theorem Form.xlnt (f : FXT) : Form.Statement (.xlnt f) :=
  ⟨rfl, fun _ => ⟨rfl, rfl⟩, fun _ => rfl⟩

theorem Form.xclaim (f : FXS) : Form.Statement (.xclaim f) :=
  ⟨rfl, fun _ => ⟨rfl, rfl⟩, fun _ => rfl⟩

theorem Form.xrel (f : FXS) : Form.Statement (.xrel f) :=
  ⟨rfl, fun _ => ⟨rfl, rfl⟩, fun _ => rfl⟩

theorem Form.xfill (f : FXS) : Form.Statement (.xfill f) :=
  ⟨rfl, fun _ => ⟨rfl, rfl⟩, fun _ => rfl⟩

theorem Form.xzero (f : FXS) : Form.Statement (.xzero f) :=
  ⟨rfl, fun _ => ⟨rfl, rfl⟩, fun _ => rfl⟩

theorem Form.xdrain (f : FXS) : Form.Statement (.xdrain f) :=
  ⟨rfl, fun _ => ⟨rfl, rfl⟩, fun _ => rfl⟩

theorem Form.xcvt (f : FXS) : Form.Statement (.xcvt f) :=
  ⟨rfl, fun _ => ⟨rfl, rfl⟩, fun _ => rfl⟩

theorem Form.xscld (f : FXS) : Form.Statement (.xscld f) :=
  ⟨rfl, fun _ => ⟨rfl, rfl⟩, fun _ => rfl⟩

theorem Form.xmeta (f : FXS) : Form.Statement (.xmeta f) :=
  ⟨rfl, fun _ => ⟨rfl, rfl⟩, fun _ => rfl⟩

theorem Form.xstat (f : FXS) : Form.Statement (.xstat f) :=
  ⟨rfl, fun _ => ⟨rfl, rfl⟩, fun _ => rfl⟩

theorem Form.xscale (f : FXC) : Form.Statement (.xscale f) :=
  ⟨rfl, fun _ => ⟨rfl, rfl⟩, fun _ => rfl⟩

theorem Form.xspar (f : FXC) : Form.Statement (.xspar f) :=
  ⟨rfl, fun _ => ⟨rfl, rfl⟩, fun _ => rfl⟩

theorem Form.xgo (f : FXC) : Form.Statement (.xgo f) :=
  ⟨rfl, fun _ => ⟨rfl, rfl⟩, fun _ => rfl⟩

theorem Form.sup (f : FSP) : Form.Statement (.sup f) :=
  ⟨rfl, fun _ => ⟨rfl, rfl⟩, fun _ => rfl⟩

theorem Form.sdown (f : FSP) : Form.Statement (.sdown f) :=
  ⟨rfl, fun _ => ⟨rfl, rfl⟩, fun _ => rfl⟩

theorem Form.ssum (f : FSP) : Form.Statement (.ssum f) :=
  ⟨rfl, fun _ => ⟨rfl, rfl⟩, fun _ => rfl⟩

theorem Form.smul (f : FSP) : Form.Statement (.smul f) :=
  ⟨rfl, fun _ => ⟨rfl, rfl⟩, fun _ => rfl⟩

theorem Form.sld (f : FSM) : Form.Statement (.sld f) :=
  ⟨rfl, fun _ => ⟨rfl, rfl⟩, fun _ => rfl⟩

theorem Form.sst (f : FSM) : Form.Statement (.sst f) :=
  ⟨rfl, fun _ => ⟨rfl, rfl⟩, fun _ => rfl⟩

theorem Form.sldw (f : FSM) : Form.Statement (.sldw f) :=
  ⟨rfl, fun _ => ⟨rfl, rfl⟩, fun _ => rfl⟩

theorem Form.sstg (f : FSM) : Form.Statement (.sstg f) :=
  ⟨rfl, fun _ => ⟨rfl, rfl⟩, fun _ => rfl⟩

theorem Form.smov (f : FSB) : Form.Statement (.smov f) :=
  ⟨rfl, fun _ => ⟨rfl, rfl⟩, fun _ => rfl⟩

theorem Form.sresc (f : FSB) : Form.Statement (.sresc f) :=
  ⟨rfl, fun _ => ⟨rfl, rfl⟩, fun _ => rfl⟩

theorem Form.scvti (f : FSB) : Form.Statement (.scvti f) :=
  ⟨rfl, fun _ => ⟨rfl, rfl⟩, fun _ => rfl⟩

theorem Form.scvto (f : FSB) : Form.Statement (.scvto f) :=
  ⟨rfl, fun _ => ⟨rfl, rfl⟩, fun _ => rfl⟩

theorem Form.sevid (f : FSB) : Form.Statement (.sevid f) :=
  ⟨rfl, fun _ => ⟨rfl, rfl⟩, fun _ => rfl⟩

theorem Form.szero (f : FSB) : Form.Statement (.szero f) :=
  ⟨rfl, fun _ => ⟨rfl, rfl⟩, fun _ => rfl⟩

theorem Form.sone (f : FSB) : Form.Statement (.sone f) :=
  ⟨rfl, fun _ => ⟨rfl, rfl⟩, fun _ => rfl⟩

theorem Form.snorm (f : FSB) : Form.Statement (.snorm f) :=
  ⟨rfl, fun _ => ⟨rfl, rfl⟩, fun _ => rfl⟩

theorem Form.sgexp (f : FSB) : Form.Statement (.sgexp f) :=
  ⟨rfl, fun _ => ⟨rfl, rfl⟩, fun _ => rfl⟩

theorem Form.smarg (f : FSB) : Form.Statement (.smarg f) :=
  ⟨rfl, fun _ => ⟨rfl, rfl⟩, fun _ => rfl⟩

theorem Form.loadValueLand (t : Nat) (n : Nat) : Form.Statement (.loadValueLand t n) :=
  ⟨rfl, fun _ => ⟨rfl, rfl⟩, fun _ => rfl⟩

theorem Form.atomicOldValueLand (t : Nat) (n : Nat) : Form.Statement (.atomicOldValueLand t n) :=
  ⟨rfl, fun _ => ⟨rfl, rfl⟩, fun _ => rfl⟩

theorem Form.fetchPageAbsent (t : Nat) (e : Strm) : Form.Statement (.fetchPageAbsent t e) :=
  ⟨rfl, fun _ => ⟨rfl, rfl⟩, fun _ => rfl⟩

theorem Form.fetchDiscard (t : Nat) (e : Strm) : Form.Statement (.fetchDiscard t e) :=
  ⟨rfl, fun _ => ⟨rfl, rfl⟩, fun _ => rfl⟩

theorem Form.waitThresholdExpiry (t : Nat) (e : Strm) : Form.Statement (.waitThresholdExpiry t e) :=
  ⟨rfl, fun _ => ⟨rfl, rfl⟩, fun _ => rfl⟩

theorem Form.preemptRequest (box : Nat) : Form.Statement (.preemptRequest box) :=
  ⟨rfl, fun _ => ⟨rfl, rfl⟩, fun _ => rfl⟩

theorem Form.preemptSaveComplete (box : Nat) : Form.Statement (.preemptSaveComplete box) :=
  ⟨rfl, fun _ => ⟨rfl, rfl⟩, fun _ => rfl⟩

theorem Form.contextWake (box : Nat) : Form.Statement (.contextWake box) :=
  ⟨rfl, fun _ => ⟨rfl, rfl⟩, fun _ => rfl⟩

theorem Form.launchEnd (box : Nat) : Form.Statement (.launchEnd box) :=
  ⟨rfl, fun _ => ⟨rfl, rfl⟩, fun _ => rfl⟩

theorem Form.launchComplete (box : Nat) : Form.Statement (.launchComplete box) :=
  ⟨rfl, fun _ => ⟨rfl, rfl⟩, fun _ => rfl⟩

theorem Form.budgetSpent (rcb : Word) : Form.Statement (.budgetSpent rcb) :=
  ⟨rfl, fun _ => ⟨rfl, rfl⟩, fun _ => rfl⟩

theorem Form.periodStart (rcb : Word) : Form.Statement (.periodStart rcb) :=
  ⟨rfl, fun _ => ⟨rfl, rfl⟩, fun _ => rfl⟩

theorem Form.startTimestampReached (box : Nat) : Form.Statement (.startTimestampReached box) :=
  ⟨rfl, fun _ => ⟨rfl, rfl⟩, fun _ => rfl⟩

theorem Form.timer (box : Nat) : Form.Statement (.timer box) :=
  ⟨rfl, fun _ => ⟨rfl, rfl⟩, fun _ => rfl⟩

theorem Form.rseMove (die : Nat) (asid : Nat) (page : Word) : Form.Statement (.rseMove die asid page) :=
  ⟨rfl, fun _ => ⟨rfl, rfl⟩, fun _ => rfl⟩

theorem Form.rseWakePromotion (box : Nat) : Form.Statement (.rseWakePromotion box) :=
  ⟨rfl, fun _ => ⟨rfl, rfl⟩, fun _ => rfl⟩

theorem Form.hbmRead (die : Nat) (stack : Nat) : Form.Statement (.hbmRead die stack) :=
  ⟨rfl, fun _ => ⟨rfl, rfl⟩, fun _ => rfl⟩

theorem Form.hbmWrite (die : Nat) (stack : Nat) : Form.Statement (.hbmWrite die stack) :=
  ⟨rfl, fun _ => ⟨rfl, rfl⟩, fun _ => rfl⟩

theorem Form.hbmAtomic (die : Nat) (stack : Nat) : Form.Statement (.hbmAtomic die stack) :=
  ⟨rfl, fun _ => ⟨rfl, rfl⟩, fun _ => rfl⟩

theorem Form.hbmReply (die : Nat) (stack : Nat) : Form.Statement (.hbmReply die stack) :=
  ⟨rfl, fun _ => ⟨rfl, rfl⟩, fun _ => rfl⟩

theorem Form.thermalSr (die : Nat) (stack : Nat) (enter : Bool) : Form.Statement (.thermalSr die stack enter) :=
  ⟨rfl, fun _ => ⟨rfl, rfl⟩, fun _ => rfl⟩

theorem Form.ceFetch (box : Nat) (chain : Nat) : Form.Statement (.ceFetch box chain) :=
  ⟨rfl, fun _ => ⟨rfl, rfl⟩, fun _ => rfl⟩

theorem Form.piece (box : Nat) (chain : Nat) (k : Nat) (j : Nat) : Form.Statement (.piece box chain k j) :=
  ⟨rfl, fun _ => ⟨rfl, rfl⟩, fun _ => rfl⟩

theorem Form.mark (box : Nat) (chain : Nat) (k : Nat) : Form.Statement (.mark box chain k) :=
  ⟨rfl, fun _ => ⟨rfl, rfl⟩, fun _ => rfl⟩

theorem Form.queueMessageArrival (box : Nat) (pair : Nat) : Form.Statement (.queueMessageArrival box pair) :=
  ⟨rfl, fun _ => ⟨rfl, rfl⟩, fun _ => rfl⟩

theorem Form.faultRecordPost (die : Nat) (core : Nat) : Form.Statement (.faultRecordPost die core) :=
  ⟨rfl, fun _ => ⟨rfl, rfl⟩, fun _ => rfl⟩

theorem Form.frretResume (die : Nat) (core : Nat) (idx : Nat) : Form.Statement (.frretResume die core idx) :=
  ⟨rfl, fun _ => ⟨rfl, rfl⟩, fun _ => rfl⟩

theorem Form.frretCancel (die : Nat) (core : Nat) (idx : Nat) : Form.Statement (.frretCancel die core idx) :=
  ⟨rfl, fun _ => ⟨rfl, rfl⟩, fun _ => rfl⟩

theorem Form.sample (c : SluCmd) : Form.Statement (.sample c) :=
  ⟨rfl, fun h => ofFalse h, fun h => ofFalse h⟩

theorem Form.short (c : SluCmd) : Form.Statement (.short c) :=
  ⟨rfl, fun h => ofFalse h, fun h => ofFalse h⟩

theorem Form.merge (c : SluCmd) : Form.Statement (.merge c) :=
  ⟨rfl, fun h => ofFalse h, fun h => ofFalse h⟩

theorem Form.verify (c : SluCmd) : Form.Statement (.verify c) :=
  ⟨rfl, fun h => ofFalse h, fun h => ofFalse h⟩

theorem Form.compact (c : CmeCmd) : Form.Statement (.compact c) :=
  ⟨rfl, fun h => ofFalse h, fun h => ofFalse h⟩

theorem Form.backfill (c : BfeCmd) : Form.Statement (.backfill c) :=
  ⟨rfl, fun h => ofFalse h, fun h => ofFalse h⟩

theorem Form.launch (p : Packet) : Form.Statement (.launch p) :=
  ⟨rfl, fun h => ofFalse h, fun _ => rfl⟩

theorem Form.wait (p : Packet) : Form.Statement (.wait p) :=
  ⟨rfl, fun h => ofFalse h, fun _ => rfl⟩

theorem Form.waitSatisfied (die : Nat) (q : Nat) : Form.Statement (.waitSatisfied die q) :=
  ⟨rfl, fun _ => ⟨rfl, rfl⟩, fun _ => rfl⟩

theorem Form.waitTimeout (die : Nat) (q : Nat) : Form.Statement (.waitTimeout die q) :=
  ⟨rfl, fun _ => ⟨rfl, rfl⟩, fun _ => rfl⟩

theorem Form.cancel (p : Packet) : Form.Statement (.cancel p) :=
  ⟨rfl, fun h => ofFalse h, fun _ => rfl⟩

theorem Form.create (p : Packet) : Form.Statement (.create p) :=
  ⟨rfl, fun h => ofFalse h, fun _ => rfl⟩

theorem Form.destroy (p : Packet) : Form.Statement (.destroy p) :=
  ⟨rfl, fun h => ofFalse h, fun _ => rfl⟩

theorem Form.swap (p : Packet) : Form.Statement (.swap p) :=
  ⟨rfl, fun h => ofFalse h, fun _ => rfl⟩

theorem Form.halt (p : Packet) : Form.Statement (.halt p) :=
  ⟨rfl, fun h => ofFalse h, fun _ => rfl⟩

theorem Form.signal (p : Packet) : Form.Statement (.signal p) :=
  ⟨rfl, fun h => ofFalse h, fun _ => rfl⟩

theorem Form.wakehint (p : Packet) : Form.Statement (.wakehint p) :=
  ⟨rfl, fun h => ofFalse h, fun _ => rfl⟩

theorem Form.track (p : Packet) : Form.Statement (.track p) :=
  ⟨rfl, fun h => ofFalse h, fun _ => rfl⟩

theorem Form.xinv (p : Packet) : Form.Statement (.xinv p) :=
  ⟨rfl, fun h => ofFalse h, fun _ => rfl⟩

theorem Form.aspace (p : Packet) : Form.Statement (.aspace p) :=
  ⟨rfl, fun h => ofFalse h, fun _ => rfl⟩

theorem Form.region (p : Packet) : Form.Statement (.region p) :=
  ⟨rfl, fun h => ofFalse h, fun _ => rfl⟩

theorem Form.rclock (p : Packet) : Form.Statement (.rclock p) :=
  ⟨rfl, fun h => ofFalse h, fun _ => rfl⟩

theorem Form.chbind (p : Packet) : Form.Statement (.chbind p) :=
  ⟨rfl, fun h => ofFalse h, fun _ => rfl⟩

theorem Form.prbind (p : Packet) : Form.Statement (.prbind p) :=
  ⟨rfl, fun h => ofFalse h, fun _ => rfl⟩

theorem Form.model (p : Packet) : Form.Statement (.model p) :=
  ⟨rfl, fun h => ofFalse h, fun _ => rfl⟩

theorem Form.attest (p : Packet) : Form.Statement (.attest p) :=
  ⟨rfl, fun h => ofFalse h, fun _ => rfl⟩

theorem Form.keyexp (p : Packet) : Form.Statement (.keyexp p) :=
  ⟨rfl, fun h => ofFalse h, fun _ => rfl⟩

theorem Form.keyimp (p : Packet) : Form.Statement (.keyimp p) :=
  ⟨rfl, fun h => ofFalse h, fun _ => rfl⟩

theorem Form.debugCmd (p : Packet) : Form.Statement (.debugCmd p) :=
  ⟨rfl, fun h => ofFalse h, fun _ => rfl⟩

theorem Form.keywipe (p : Packet) : Form.Statement (.keywipe p) :=
  ⟨rfl, fun h => ofFalse h, fun _ => rfl⟩

theorem Form.power (p : Packet) : Form.Statement (.power p) :=
  ⟨rfl, fun h => ofFalse h, fun _ => rfl⟩

theorem Form.fwload (p : Packet) : Form.Statement (.fwload p) :=
  ⟨rfl, fun h => ofFalse h, fun _ => rfl⟩

theorem Form.fwcommit (v : Word) : Form.Statement (.fwcommit v) :=
  ⟨rfl, fun _ => ⟨rfl, rfl⟩, fun _ => rfl⟩

theorem Form.doorbell (die : Nat) (q : Nat) (width : Nat) (v : Word) : Form.Statement (.doorbell die q width v) :=
  ⟨rfl, fun _ => ⟨rfl, rfl⟩, fun _ => rfl⟩

theorem Form.edgeRelease (box : Nat) : Form.Statement (.edgeRelease box) :=
  ⟨rfl, fun _ => ⟨rfl, rfl⟩, fun _ => rfl⟩

theorem Form.ualinkRequest (r : PeerReq) : Form.Statement (.ualinkRequest r) :=
  ⟨rfl, fun _ => ⟨rfl, rfl⟩, fun _ => rfl⟩

theorem Form.linkTraining (link : Nat) (accid : BitVec 10) : Form.Statement (.linkTraining link accid) :=
  ⟨rfl, fun _ => ⟨rfl, rfl⟩, fun _ => rfl⟩

theorem Form.registerWrite (die : Nat) (off : Nat) (width : Nat) (v : Word) : Form.Statement (.registerWrite die off width v) :=
  ⟨rfl, fun _ => ⟨rfl, rfl⟩, fun _ => rfl⟩

theorem Form.launchBlockRegistration (b : BlockReg) : Form.Statement (.launchBlockRegistration b) :=
  ⟨rfl, fun _ => ⟨rfl, rfl⟩, fun _ => rfl⟩

theorem Form.linkDown (link : Nat) : Form.Statement (.linkDown link) :=
  ⟨rfl, fun _ => ⟨rfl, rfl⟩, fun _ => rfl⟩

theorem Form.xgoStep : Form.Statement (.xgoStep) :=
  ⟨rfl, fun _ => ⟨rfl, rfl⟩, fun _ => rfl⟩

theorem Form.xWordComplete : Form.Statement (.xWordComplete) :=
  ⟨rfl, fun _ => ⟨rfl, rfl⟩, fun _ => rfl⟩

theorem Form.sWordComplete : Form.Statement (.sWordComplete) :=
  ⟨rfl, fun _ => ⟨rfl, rfl⟩, fun _ => rfl⟩

theorem Form.pendingWriteLand : Form.Statement (.pendingWriteLand) :=
  ⟨rfl, fun _ => ⟨rfl, rfl⟩, fun _ => rfl⟩

theorem Form.storePerformed : Form.Statement (.storePerformed) :=
  ⟨rfl, fun _ => ⟨rfl, rfl⟩, fun _ => rfl⟩

theorem Form.crossDieWritePerform : Form.Statement (.crossDieWritePerform) :=
  ⟨rfl, fun _ => ⟨rfl, rfl⟩, fun _ => rfl⟩

theorem Form.asyncCauseDelivery : Form.Statement (.asyncCauseDelivery) :=
  ⟨rfl, fun _ => ⟨rfl, rfl⟩, fun _ => rfl⟩

theorem Form.selection : Form.Statement (.selection) :=
  ⟨rfl, fun _ => ⟨rfl, rfl⟩, fun _ => rfl⟩

theorem Form.grantChange : Form.Statement (.grantChange) :=
  ⟨rfl, fun _ => ⟨rfl, rfl⟩, fun _ => rfl⟩

theorem Form.rseDemotion : Form.Statement (.rseDemotion) :=
  ⟨rfl, fun _ => ⟨rfl, rfl⟩, fun _ => rfl⟩

theorem Form.backfillDispatch : Form.Statement (.backfillDispatch) :=
  ⟨rfl, fun _ => ⟨rfl, rfl⟩, fun _ => rfl⟩

theorem Form.debugExpiry : Form.Statement (.debugExpiry) :=
  ⟨rfl, fun _ => ⟨rfl, rfl⟩, fun _ => rfl⟩

theorem Form.fwRevert : Form.Statement (.fwRevert) :=
  ⟨rfl, fun _ => ⟨rfl, rfl⟩, fun _ => rfl⟩

theorem Form.packageReset : Form.Statement (.packageReset) :=
  ⟨rfl, fun _ => ⟨rfl, rfl⟩, fun _ => rfl⟩

theorem Form.completionWordWrite : Form.Statement (.completionWordWrite) :=
  ⟨rfl, fun _ => ⟨rfl, rfl⟩, fun _ => rfl⟩

theorem Form.notificationPost : Form.Statement (.notificationPost) :=
  ⟨rfl, fun _ => ⟨rfl, rfl⟩, fun _ => rfl⟩

theorem Form.stealOffer : Form.Statement (.stealOffer) :=
  ⟨rfl, fun _ => ⟨rfl, rfl⟩, fun _ => rfl⟩

theorem Form.tileGate : Form.Statement (.tileGate) :=
  ⟨rfl, fun _ => ⟨rfl, rfl⟩, fun _ => rfl⟩

theorem Form.dieWake : Form.Statement (.dieWake) :=
  ⟨rfl, fun _ => ⟨rfl, rfl⟩, fun _ => rfl⟩

theorem Form.packageWake : Form.Statement (.packageWake) :=
  ⟨rfl, fun _ => ⟨rfl, rfl⟩, fun _ => rfl⟩

theorem Form.vWordLand : Form.Statement (.vWordLand) :=
  ⟨rfl, fun _ => ⟨rfl, rfl⟩, fun _ => rfl⟩

end Sys2Proof.Laws
end

