-- ==== Sys2Proof/Tests/Slice0.lean ====
section
/-!
SUPPORT. Tests: words written out from the spec's encodings, ill-formed terms, one witness or more for the hypotheses of each
statement, and single steps whose results are calculated by hand.
-/

namespace Sys2Proof.Tests

set_option Elab.async false

open Sys2Proof.Machine Sys2Proof.Spec

/-! ## Words of the four streams, and terms that no word encodes -/

theorem test_decode_c1 :
    ([(.c, 0xBAA4800000000001, .syscNotify ⟨0, 0, 0, 1⟩),
     (.c, 0x78E4800000000000, .syscExit ⟨0, 0, 0, 0⟩),
     (.c, 0x6364400000000000, .tret ⟨0, 0, 0, 0⟩),
     (.c, 0x53E401A1FEC7A4D3, .trap ⟨0, 0x1a, 1, 0xfec7a4d3⟩),
     (.c, 0xC2E2814000000000, .slcfgDrain ⟨0, 0x14, 0, 0, 0⟩),
     (.c, 0xB4A2970000100000, .slcfgFlush ⟨0xb, 0x10, 0, 0, 1⟩),
     (.c, 0xAD2246F000000000, .slget ⟨3, 0xf, 0, 0, 0⟩),
     (.c, 0xA822073000500000, .slsub ⟨3, 0x13, 0, 0, 5⟩),
     (.c, 0x6FE0800000000000, .cxyield ⟨0, 0, 0, 0⟩),
     (.c, 0xA1204B8100000000, .cxpark ⟨5, 0x18, 1, 0⟩),
     (.c, 0x5EA0060000000000, .cxsw ⟨3, 0, 0, 0⟩),
     (.c, 0xA65E101001F00000, .kpop ⟨8, 1, 0, 0, 0x1f⟩),
     (.c, 0xAD9C840000100000, .qpoll ⟨2, 0, 0, 0, 1⟩),
     (.c, 0x74DC540000200000, .qrecv ⟨0xa, 0, 0, 0, 2⟩),
     (.c, 0x0CDC18EE00600000, .qsend ⟨0xc, 0xe, 0x1c, 0, 6⟩),
     (.c, 0x39DADA5C80000000, .btest ⟨0xd, 5, 0x19, 0, 0⟩),
     (.c, 0xEC5A80C180000000, .bwait ⟨0, 0xc, 3, 0, 0⟩),
     (.c, 0x3ADA69B000000000, .barrive ⟨0x14, 0x1b, 0, 0, 0⟩),
     (.c, 0xF05A01CF40000000, .binit ⟨0, 0x1c, 0x1e, 0x10, 0⟩),
     (.c, 0xE3D87C7000200000, .cetail ⟨0x1e, 7, 0, 0, 2⟩),
     (.c, 0x2998296000400000, .ceapp ⟨0x14, 0x16, 0, 0, 4⟩),
     (.c, 0x8F56818000100000, .fence ⟨0, 0x18, 0, 1, 0⟩),
     (.c, 0x0156406040000000, .mts ⟨0, 6, 0x40, 0, 0⟩),
     (.c, 0x48D6408070000000, .mtsEvpend ⟨0, 8, 0x70, 0, 0⟩),
     (.c, 0x10D6400020000000, .mtsClkrq ⟨0, 0, 0x20, 0, 0⟩),
     (.c, 0xD656220014000000, .mfs ⟨0x11, 0, 0x14, 0, 0⟩),
     (.c, 0x9014500000000000, .lprot ⟨1, 0, 0, 0, 0⟩),
     (.c, 0xD5142F877E6FE583, .loop ⟨2, 0x1f, 0, 0x1df9b, 0x3e583⟩),
     (.c, 0x7D5204003E832472, .kbr ⟨2, 0, 0, 0x3e832472⟩),
     (.c, 0x44D1EF507FB3C517, .jalr ⟨0x17, 0x15, 0, 0x7fb3c517⟩),
     (.c, 0x84D1B400A7B3BBEA, .jal ⟨0x1a, 0, 0, 0xa7b3bbea⟩),
     (.c, 0xEBD17F60FD51E37F, .bgeu ⟨0x1f, 0x16, 0, 0xfd51e37f⟩),
     (.c, 0xAF913EF07CEA79F4, .bltu ⟨0x1f, 0xf, 0, 0x7cea79f4⟩),
     (.c, 0xA590FD30EAEEEDD6, .bge ⟨0x1e, 0x13, 0, 0xeaeeedd6⟩),
     (.c, 0x8B108D50BCEE75FF, .blt ⟨6, 0x15, 0, 0xbcee75ff⟩),
     (.c, 0xD1905EC01ECEAFFF, .bne ⟨0xf, 0xc, 0, 0x1eceafff⟩)] : List (Strm × Word × Instr)).all
      (fun p => (decode p.1 p.2.1).toOption == some p.2.2) = true := by decide +kernel

theorem test_decode_c2 :
    ([(.c, 0xA1D02BE0EFBED1F6, .beq ⟨0x15, 0x1e, 0, 0xefbed1f6⟩),
     (.c, 0x324FAF98CFB7AF1F, .amomax ⟨0x17, 0x19, 2, 0, 0xcfb7af1f⟩),
     (.c, 0xB24F5FDCB9B9BDE9, .amomin ⟨0xf, 0x1d, 3, 0, 0xb9b9bde9⟩),
     (.c, 0x80CF3BEC2FFF6359, .amocas ⟨0x1d, 0x1e, 3, 0, 0x2fff6359⟩),
     (.c, 0x8D0EE3D8EEF277F2, .amoswap ⟨0x11, 0x1d, 2, 0, 0xeef277f2⟩),
     (.c, 0x690EA7F8E3E9DE1F, .amoadd ⟨0x13, 0x1f, 2, 0, 0xe3e9de1f⟩),
     (.c, 0x524E7BE97BEBDF91, .st ⟨0x1d, 0x1e, 2, 1, 0x7bebdf91⟩),
     (.c, 0x4CCE3BA7B3FFCFE5, .ld ⟨0x1d, 0x1a, 1, 3, 0xb3ffcfe5⟩),
     (.c, 0xC7CCAC71DF69F8CF, .cmplti ⟨0x16, 7, 1, 0xdf69f8cf⟩),
     (.c, 0x4E0C4AB0BFDFE3DD, .cmpeqi ⟨5, 0xb, 0, 0xbfdfe3dd⟩),
     (.c, 0x7ACC3CB0BFDC73DF, .muli ⟨0x1e, 0xb, 0, 0xbfdc73df⟩),
     (.c, 0xD48BF6509F5B7FDF, .lui ⟨0x1b, 5, 0, 0x9f5b7fdf⟩),
     (.c, 0x214B80D000000010, .srai ⟨0, 0xd, 0, 0x10⟩),
     (.c, 0x190B796000000000, .srli ⟨0x1c, 0x16, 0, 0⟩),
     (.c, 0xAE0B01200000002A, .slli ⟨0, 0x12, 0, 0x2a⟩),
     (.c, 0x2A0AC3D0F7773E0B, .xori ⟨1, 0x1d, 0, 0xf7773e0b⟩),
     (.c, 0xE14ABF500FBE1D7F, .ori ⟨0x1f, 0x15, 0, 0xfbe1d7f⟩),
     (.c, 0xA5CA5BD073BC5EB3, .andi ⟨0xd, 0x1d, 0, 0x73bc5eb3⟩),
     (.c, 0x56CA3F60FF373D74, .addi ⟨0x1f, 0x16, 0, 0xff373d74⟩),
     (.c, 0xE9487FB0EC000000, .sel ⟨0x1f, 0x1b, 1, 0x1b, 0⟩),
     (.c, 0xD2880F6F80000000, .cmpltu ⟨7, 0x16, 0x1f, 0, 0⟩),
     (.c, 0x2BC7E50500000000, .cmplt ⟨0x12, 0x10, 0xa, 0, 0⟩),
     (.c, 0x13C7B83500000000, .cmpeq ⟨0x1c, 3, 0xa, 0, 0⟩),
     (.c, 0x9747539180100000, .max ⟨9, 0x19, 3, 0, 1⟩),
     (.c, 0x0D07365100000000, .min ⟨0x1b, 5, 2, 0, 0⟩),
     (.c, 0xA806D89C80000000, .rem ⟨0xc, 9, 0x19, 0, 0⟩),
     (.c, 0x12869A6D00100000, .div ⟨0xd, 6, 0x1a, 0, 1⟩),
     (.c, 0xC3C6695900100000, .mulh ⟨0x14, 0x15, 0x12, 0, 1⟩),
     (.c, 0xB78619FE00000000, .mul ⟨0xc, 0x1f, 0x1c, 0, 0⟩),
     (.c, 0xB305D4AB80000000, .sra ⟨0xa, 0xa, 0x17, 0, 0⟩),
     (.c, 0xCE859AEE80000000, .srl ⟨0xd, 0xe, 0x1d, 0, 0⟩),
     (.c, 0x47855F3400000000, .sll ⟨0xf, 0x13, 8, 0, 0⟩),
     (.c, 0x720529A980000000, .xor ⟨0x14, 0x1a, 0x13, 0, 0⟩),
     (.c, 0xFC04D9E100000000, .or ⟨0xc, 0x1e, 2, 0, 0⟩),
     (.c, 0x1284995E80000000, .and ⟨0xc, 0x15, 0x1d, 0, 0⟩),
     (.c, 0x6A04655480000000, .sub ⟨0x12, 0x15, 9, 0, 0⟩)] : List (Strm × Word × Instr)).all
      (fun p => (decode p.1 p.2.1).toOption == some p.2.2) = true := by decide +kernel

theorem test_decode_c3 :
    ([(.c, 0xE7840E8D00000000, .add ⟨7, 8, 0x1a, 0, 0⟩),
     (.c, 0xD7023FBFE7222FF8, .tgo ⟨1, 1, 1, 1, 0x1dff, 0x722, 0x5ff⟩),
     (.c, 0x9400FEF5F7D00000, .waitc ⟨0xfb, 0xd7, 0xdf, 0x40⟩),
     (.c, 0x6F40400000000000, .tend),
     (.c, 0x2580000000000000, .nop),
     (.c, 0x0016403011000000, .mtsLpcnt ⟨0, 3, 0x11, 0, 0⟩),
     (.c, 0x0016404019000000, .mtsLpbegLpend ⟨0, 4, 0x19, 0, 0⟩),
     (.c, 0x0016405064000000, .mtsSflags ⟨0, 5, 0x64, 0, 0⟩),
     (.c, 0x0024400000000001, .tretPass ⟨0, 0, 0, 1⟩)] : List (Strm × Word × Instr)).all
      (fun p => (decode p.1 p.2.1).toOption == some p.2.2) = true := by decide +kernel

theorem test_decode_v1 :
    ([(.v, 0x9319020000000000, .vkclr ⟨1, 0, 0, 0, 0, 0, 0, 0, 0, 0, 0, 0, 0⟩),
     (.v, 0x7018C00000D80000, .vkset ⟨0, 0, 0, 0, 1, 1, 6, 0, 0, 0, 0, 0, 0⟩),
     (.v, 0x8458847D83E00000, .vcmple ⟨2, 7, 0x1b, 0, 7, 1, 8, 0, 0, 0, 0, 0, 0⟩),
     (.v, 0x999847CE82600000, .vcmplt ⟨3, 0x1c, 0x1d, 0, 4, 1, 8, 0, 0, 0, 0, 0, 0⟩),
     (.v, 0xF4980D6D80100000, .vcmpeq ⟨6, 0x16, 0x1b, 0, 0, 0, 4, 0, 0, 0, 0, 0, 0⟩),
     (.v, 0xBF164C00C8001100, .vconf ⟨6, 0, 0xc80, 0, 0, 1, 0, 1, 0, 0⟩),
     (.v, 0xB316140193A38000, .vtopk ⟨0xa, 0, 0x193a, 1, 1, 8, 0, 0, 0, 0⟩),
     (.v, 0x3F54C20000280000, .vswget ⟨1, 0, 0, 0, 0, 0, 0xa, 0, 0, 0, 0, 0, 0⟩),
     (.v, 0x36944A0003F00000, .vcpop ⟨5, 0, 0, 0, 7, 1, 0xc, 0, 0, 0, 0, 0, 0⟩),
     (.v, 0x505406B001E80000, .vcpush ⟨3, 0xb, 0, 0, 3, 1, 0xa, 0, 0, 0, 0, 0, 0⟩),
     (.v, 0x3B9307B7FF200000, .vstm ⟨3, 0xdbff9, 0, 0, 0, 0, 0, 0⟩),
     (.v, 0x0392CD9FFBE00000, .vldm ⟨6, 0xcffdf, 0, 0, 0, 0, 0, 0⟩),
     (.v, 0x7392A6E6D74F2CF0, .vstu ⟨0x13, 0x736ba, 3, 1, 9, 1, 1, 0xf⟩),
     (.v, 0x10526FDE7EA720B0, .vst ⟨0x17, 0xef3f5, 1, 1, 9, 0, 0, 0xb⟩),
     (.v, 0xBAD22FEFD7DE1B40, .vld ⟨0x17, 0xf7ebe, 7, 1, 0, 3, 0, 0x34⟩),
     (.v, 0x1D116A60016C0000, .vrarg ⟨0x15, 6, 0, 0, 2, 1, 0xb, 0, 0, 0, 0, 0, 0⟩),
     (.v, 0x2A510C6382540000, .vgsum ⟨6, 6, 7, 0, 4, 1, 5, 0, 0, 0, 0, 0, 0⟩),
     (.v, 0xDB10D59282EC0000, .vgmax ⟨0xa, 0x19, 5, 0, 5, 1, 0xb, 0, 0, 0, 0, 0, 0⟩),
     (.v, 0xF610B05000C40000, .vrmin ⟨0x18, 5, 0, 0, 1, 1, 1, 0, 0, 0, 0, 0, 0⟩),
     (.v, 0xEED06E6000440000, .vrmax ⟨0x17, 6, 0, 0, 0, 1, 1, 0, 0, 0, 0, 0, 0⟩),
     (.v, 0x6050287001480000, .vrsum ⟨0x14, 7, 0, 0, 2, 1, 2, 0, 0, 0, 0, 0, 0⟩),
     (.v, 0x488EB71580280000, .vunpk ⟨0x1b, 0x11, 0xb, 0, 0, 0, 0xa, 0, 0, 0, 0, 0, 0⟩),
     (.v, 0x130E775C000C0000, .vpack ⟨0x1b, 0x15, 0x18, 0, 0, 0, 3, 0, 0, 0, 0, 0, 0⟩),
     (.v, 0xD28E2E9059590C00, .vcvt ⟨0x17, 9, 0, 0x16, 2, 1, 6, 2, 0, 0, 0, 1, 1⟩),
     (.v, 0xA90DF60290A13400, .vsplat ⟨0x1b, 0, 0x290a, 0, 1, 3, 2, 0, 0, 0⟩),
     (.v, 0xC08D888000008000, .vfsri ⟨4, 8, 0, 0, 0, 8, 0, 0, 0, 0⟩),
     (.v, 0x634D540000008000, .vfsli ⟨0xa, 0, 0, 0, 0, 8, 0, 0, 0, 0⟩),
     (.v, 0xDF0D10500210B000, .vsrai ⟨8, 5, 0x21, 0, 0, 0xb, 0, 0, 0, 0⟩),
     (.v, 0x29CCC40000509000, .vsrli ⟨2, 0, 5, 0, 0, 9, 0, 0, 0, 0⟩),
     (.v, 0x3F8C81000040A100, .vslli ⟨0, 0x10, 4, 0, 0, 0xa, 0, 1, 0, 0⟩),
     (.v, 0xAD0C5CD254A16600, .vmuli ⟨0xe, 0xd, 0x254a, 0, 1, 6, 3, 0, 0, 0⟩),
     (.v, 0x3F4C2C8D394F5340, .vaddi ⟨0x16, 8, 0xd394, 7, 1, 5, 1, 1, 0, 1⟩),
     (.v, 0x558AC1C001C80000, .vrsq ⟨0, 0x1c, 0, 0, 3, 1, 2, 0, 0, 0, 0, 0, 0⟩),
     (.v, 0x6E4A8F5001C80000, .vrcp ⟨7, 0x15, 0, 0, 3, 1, 2, 0, 0, 0, 0, 0, 0⟩),
     (.v, 0xC90A5260000C0000, .vexp ⟨9, 6, 0, 0, 0, 0, 3, 0, 0, 0, 0, 0, 0⟩),
     (.v, 0xD30A1F2002440000, .vmov ⟨0xf, 0x12, 0, 0, 4, 1, 1, 0, 0, 0, 0, 0, 0⟩)] : List (Strm × Word × Instr)).all
      (fun p => (decode p.1 p.2.1).toOption == some p.2.2) = true := by decide +kernel

theorem test_decode_v2 :
    ([(.v, 0x5449DB2E03E00000, .vsel ⟨0xd, 0x12, 0x1c, 0, 7, 1, 8, 0, 0, 0, 0, 0, 0⟩),
     (.v, 0x6089A1F000200000, .vpopc ⟨0x10, 0x1f, 0, 0, 0, 0, 8, 0, 0, 0, 0, 0, 0⟩),
     (.v, 0xF089780002640000, .vclz ⟨0x1c, 0, 0, 0, 4, 1, 9, 0, 0, 0, 0, 0, 0⟩),
     (.v, 0xB88936DC83E00000, .vavg ⟨0x1b, 0xd, 0x19, 0, 7, 1, 8, 0, 0, 0, 0, 0, 0⟩),
     (.v, 0xF448CBD583E00000, .vmulh ⟨5, 0x1d, 0xb, 0, 7, 1, 8, 0, 0, 0, 0, 0, 0⟩),
     (.v, 0x6EC8ABF57FE00000, .vfsr ⟨0x15, 0x1f, 0xa, 0x1f, 7, 1, 8, 0, 0, 0, 0, 0, 0⟩),
     (.v, 0x2B085FBEFCE00000, .vfsl ⟨0xf, 0x1b, 0x1d, 0x1f, 1, 1, 8, 0, 0, 0, 0, 0, 0⟩),
     (.v, 0xC0080EF982E00000, .vsra ⟨7, 0xf, 0x13, 0, 5, 1, 8, 0, 0, 0, 0, 0, 0⟩),
     (.v, 0xE787C7FA02E00000, .vsrl ⟨3, 0x1f, 0x14, 0, 5, 1, 8, 0, 0, 0, 0, 0, 0⟩),
     (.v, 0x08878F6603E00000, .vsll ⟨7, 0x16, 0xc, 0, 7, 1, 8, 0, 0, 0, 0, 0, 0⟩),
     (.v, 0x60877B1F83500000, .vandn ⟨0x1d, 0x11, 0x1f, 0, 6, 1, 4, 0, 0, 0, 0, 0, 0⟩),
     (.v, 0x77072D9E024C0000, .vxor ⟨0x16, 0x19, 0x1c, 0, 4, 1, 3, 0, 0, 0, 0, 0, 0⟩),
     (.v, 0xEF06FA7E03E00000, .vor ⟨0x1d, 7, 0x1c, 0, 7, 1, 8, 0, 0, 0, 0, 0, 0⟩),
     (.v, 0x94C68FDD03E00000, .vand ⟨7, 0x1d, 0x1a, 0, 7, 1, 8, 0, 0, 0, 0, 0, 0⟩),
     (.v, 0x3546780003E40000, .vneg ⟨0x1c, 0, 0, 0, 7, 1, 9, 0, 0, 0, 0, 0, 0⟩),
     (.v, 0xA946067000240000, .vabs ⟨3, 7, 0, 0, 0, 0, 9, 0, 0, 0, 0, 0, 0⟩),
     (.v, 0x7605EE5F83D00000, .vmax ⟨0x17, 5, 0x1f, 0, 7, 1, 4, 0, 0, 0, 0, 0, 0⟩),
     (.v, 0xE2859FBD83500000, .vmin ⟨0xf, 0x1b, 0x1b, 0, 6, 1, 4, 0, 0, 0, 0, 0, 0⟩),
     (.v, 0x4105735EFED00000, .vnfma ⟨0x19, 0x15, 0x1d, 0x1f, 5, 1, 4, 0, 0, 0, 0, 0, 0⟩),
     (.v, 0x91C53AFBFFD00000, .vfms ⟨0x1d, 0xf, 0x17, 0x1f, 7, 1, 4, 0, 0, 0, 0, 0, 0⟩),
     (.v, 0x0844FBBBD7500000, .vfma ⟨0x1d, 0x1b, 0x17, 0x15, 6, 1, 4, 0, 0, 0, 0, 0, 0⟩),
     (.v, 0x5B04A46583D00000, .vmul ⟨0x12, 6, 0xb, 0, 7, 1, 4, 0, 0, 0, 0, 0, 0⟩),
     (.v, 0x3204614782D80000, .vsub ⟨0x10, 0x14, 0xf, 0, 5, 1, 6, 0, 0, 0, 0, 0, 0⟩),
     (.v, 0x2B443F6303D00000, .vadd ⟨0x1f, 0x16, 6, 0, 7, 1, 4, 0, 0, 0, 0, 0, 0⟩),
     (.v, 0x9400FEF5F7D00000, .waitc ⟨0xfb, 0xd7, 0xdf, 0x40⟩),
     (.v, 0x48C080C8F7B00000, .srep ⟨0, 0, 0xc8f7, 0x1600⟩),
     (.v, 0x6F40400000000000, .tend),
     (.v, 0x2580000000000000, .nop),
     (.v, 0x0014806000280000, .vswcfg ⟨0, 6, 0, 0, 0, 0, 0xa, 0, 0, 0, 0, 0, 0⟩)] : List (Strm × Word × Instr)).all
      (fun p => (decode p.1 p.2.1).toOption == some p.2.2) = true := by decide +kernel

theorem test_decode_x1 :
    ([(.x, 0xB88A8CCDA3D00000, .xgo ⟨3, 3, 3, 1, 2, 2, 3, 0xd⟩),
     (.x, 0xA68A400200400000, .xspar ⟨0, 0, 0, 2, 0, 0, 0, 4⟩),
     (.x, 0xBD0A000086000000, .xscale ⟨0, 0, 0, 0, 2, 0, 6, 0⟩),
     (.x, 0xE28800F7F4D00000, .xstat ⟨0, 0, 0xf7f4d, 0, 0, 0⟩),
     (.x, 0x4487DFFFBEB00000, .xmeta ⟨7, 3, 0xffbeb, 0, 0, 0⟩),
     (.x, 0x6EC78A8400470A80, .xscld ⟨2, 2, 0x84004, 7, 0, 0x15⟩),
     (.x, 0x064778E13FC47900, .xcvt ⟨0xe, 0, 0xe13fc, 4, 3, 0x32⟩),
     (.x, 0xDC870E3614211C00, .xdrain ⟨3, 2, 0x36142, 1, 0, 0x38⟩),
     (.x, 0x8306C00000010000, .xzero ⟨0, 0, 0, 1, 0, 0⟩),
     (.x, 0x68C68E822B460A80, .xfill ⟨3, 2, 0x822b4, 6, 0, 0x15⟩),
     (.x, 0xD886700000000000, .xrel ⟨0xc, 0, 0, 0, 0, 0⟩),
     (.x, 0xB406080000000000, .xclaim ⟨2, 0, 0, 0, 0, 0⟩),
     (.x, 0x66C405B0F7F24200, .xlnt ⟨0, 5, 0xb0f7f242⟩),
     (.x, 0x9400FEF5F7D00000, .waitc ⟨0xfb, 0xd7, 0xdf, 0x40⟩),
     (.x, 0x48C080C8F7B00000, .srep ⟨0, 0, 0xc8f7, 0x1600⟩),
     (.x, 0x6F40400000000000, .tend),
     (.x, 0x2580000000000000, .nop)] : List (Strm × Word × Instr)).all
      (fun p => (decode p.1 p.2.1).toOption == some p.2.2) = true := by decide +kernel

theorem test_decode_s1 :
    ([(.s, 0x618A6FFEBBC00000, .smarg ⟨0xb, 0xff, 0xa, 0xef, 0, 0, 0⟩),
     (.s, 0xA74A1BBBB1805AB8, .sgexp ⟨6, 0xee, 0xe, 0xc6, 0, 0, 0x5ab8⟩),
     (.s, 0x9F09EBA19B4275F8, .snorm ⟨0xa, 0xe8, 6, 0x6d, 0, 4, 0x75f8⟩),
     (.s, 0x8849857800000000, .sone ⟨1, 0x5e, 0, 0, 0, 0, 0⟩),
     (.s, 0x1649441400000014, .szero ⟨1, 5, 0, 0, 0, 0, 0x14⟩),
     (.s, 0xAF892EFBFBC00000, .sevid ⟨0xb, 0xbe, 0xf, 0xef, 0, 0, 0⟩),
     (.s, 0xD448C42577CC0000, .scvto ⟨1, 9, 5, 0xdf, 3, 0, 0⟩),
     (.s, 0x6BC8A15E2E480000, .scvti ⟨8, 0x57, 8, 0xb9, 2, 0, 0⟩),
     (.s, 0x37487ED0B24035AE, .sresc ⟨0xf, 0xb4, 2, 0xc9, 0, 0, 0x35ae⟩),
     (.s, 0x2DC82F579FC00000, .smov ⟨0xb, 0xd5, 0xe, 0x7f, 0, 0, 0⟩),
     (.s, 0x4546EFD6BE73DDC8, .sstg ⟨0xb, 0xf5, 0xaf9cf, 0x1d, 0x19⟩),
     (.s, 0x15469FECF7FD2370, .sldw ⟨7, 0xfb, 0x3dff4, 0x23, 0xe⟩),
     (.s, 0x17C67BFAFFAEA2E8, .sst ⟨0xe, 0xfe, 0xbfeba, 0x22, 0x1d⟩),
     (.s, 0xC68635F677EFDD78, .sld ⟨0xd, 0x7d, 0x9dfbf, 0x1d, 0xf⟩),
     (.s, 0xD844F6FDBD700000, .smul ⟨0xd, 0xbf, 6, 0xf5, 0xc0, 0, 0⟩),
     (.s, 0x5A0499CFEFC00000, .ssum ⟨6, 0x73, 0xf, 0xbf, 0, 0, 0⟩),
     (.s, 0x98847FAE5FBA5F6C, .sdown ⟨0xf, 0xeb, 9, 0x7e, 0xe9, 7, 0xdb⟩),
     (.s, 0x54841FAAF7BF3B0C, .sup ⟨7, 0xea, 0xb, 0xde, 0xfc, 0xe, 0xc3⟩),
     (.s, 0x9400FEF5F7D00000, .waitc ⟨0xfb, 0xd7, 0xdf, 0x40⟩),
     (.s, 0x48C080C8F7B00000, .srep ⟨0, 0, 0xc8f7, 0x1600⟩),
     (.s, 0x6F40400000000000, .tend),
     (.s, 0x2580000000000000, .nop)] : List (Strm × Word × Instr)).all
      (fun p => (decode p.1 p.2.1).toOption == some p.2.2) = true := by decide +kernel

theorem test_illformed_1 :
    ([(.c, .add ⟨7, 8, 0x1a, 1, 0⟩, .field),
     (.c, .sub ⟨0x12, 0x15, 9, 1, 0⟩, .field),
     (.c, .and ⟨0xc, 0x15, 0x1d, 1, 0⟩, .field),
     (.c, .or ⟨0xc, 0x1e, 2, 1, 0⟩, .field),
     (.c, .xor ⟨0x14, 0x1a, 0x13, 1, 0⟩, .field),
     (.c, .sll ⟨0xf, 0x13, 8, 1, 0⟩, .field),
     (.c, .srl ⟨0xd, 0xe, 0x1d, 1, 0⟩, .field),
     (.c, .sra ⟨0xa, 0xa, 0x17, 1, 0⟩, .field),
     (.c, .mul ⟨0xc, 0x1f, 0x1c, 1, 0⟩, .field),
     (.c, .mulh ⟨0x14, 0x15, 0x12, 1, 1⟩, .field),
     (.c, .div ⟨0xd, 6, 0x1a, 1, 1⟩, .field),
     (.c, .rem ⟨0xc, 9, 0x19, 1, 0⟩, .field),
     (.c, .min ⟨0x1b, 5, 2, 1, 0⟩, .field),
     (.c, .max ⟨9, 0x19, 3, 1, 1⟩, .field),
     (.c, .cmpeq ⟨0x1c, 3, 0xa, 1, 0⟩, .field),
     (.c, .cmplt ⟨0x12, 0x10, 0xa, 1, 0⟩, .field),
     (.c, .cmpltu ⟨7, 0x16, 0x1f, 1, 0⟩, .field),
     (.c, .add ⟨7, 8, 0x1a, 0, 1⟩, .value),
     (.c, .sub ⟨0x12, 0x15, 9, 0, 1⟩, .value),
     (.c, .mulh ⟨0x14, 0x15, 0x12, 0, 3⟩, .value),
     (.c, .div ⟨0xd, 6, 0x1a, 0, 2⟩, .value),
     (.c, .min ⟨0x1b, 5, 2, 0, 2⟩, .value),
     (.c, .sel ⟨0x1f, 0x1b, 1, 0x1b, 1⟩, .value),
     (.c, .addi ⟨0x1f, 0x16, 1, 0xff373d74⟩, .value),
     (.c, .slli ⟨0, 0x12, 1, 0x2a⟩, .value),
     (.c, .cmplti ⟨0x16, 7, 2, 0xdf69f8cf⟩, .value),
     (.c, .st ⟨0x1d, 0x1e, 2, 2, 0x7bebdf91⟩, .value),
     (.c, .amoadd ⟨0x13, 0x1f, 2, 1, 0xe3e9de1f⟩, .value),
     (.c, .amomin ⟨0xf, 0x1d, 3, 2, 0xb9b9bde9⟩, .value),
     (.c, .beq ⟨0x15, 0x1e, 1, 0xefbed1f6⟩, .value),
     (.c, .jal ⟨0x1a, 0, 1, 0xa7b3bbea⟩, .value),
     (.c, .jalr ⟨0x17, 0x15, 1, 0x7fb3c517⟩, .value),
     (.c, .kbr ⟨2, 0, 2, 0x3e832472⟩, .value),
     (.c, .lprot ⟨1, 0, 1, 0, 0⟩, .value),
     (.c, .mfs ⟨0x11, 0, 0x14, 1, 0⟩, .value),
     (.c, .mts ⟨0, 6, 0x40, 1, 0⟩, .value)] : List (Strm × Instr × Reject)).all
      (fun p => check p.2.1 == some p.2.2 && !wf p.1 p.2.1) = true := by decide +kernel

theorem test_illformed_2 :
    ([(.c, .mtsClkrq ⟨0, 0, 0x20, 1, 0⟩, .value),
     (.c, .fence ⟨0, 0x18, 0, 0, 0⟩, .value),
     (.c, .ceapp ⟨0x14, 0x16, 0, 0, 8⟩, .value),
     (.c, .cetail ⟨0x1e, 7, 0, 0, 8⟩, .value),
     (.c, .binit ⟨0, 0x1c, 0x1e, 0x10, 1⟩, .value),
     (.c, .barrive ⟨0x14, 0x1b, 0, 0, 1⟩, .value),
     (.c, .bwait ⟨0, 0xc, 3, 0, 1⟩, .value),
     (.c, .btest ⟨0xd, 5, 0x19, 0, 1⟩, .value),
     (.c, .qsend ⟨0xc, 0xe, 0x1c, 0, 8⟩, .value),
     (.c, .qrecv ⟨0xa, 0, 0, 0, 8⟩, .value),
     (.c, .qpoll ⟨2, 0, 0, 0, 8⟩, .value),
     (.c, .cxsw ⟨3, 0, 1, 0⟩, .value),
     (.c, .cxpark ⟨5, 0x18, 2, 0⟩, .value),
     (.c, .cxyield ⟨0, 0, 1, 0⟩, .value),
     (.c, .slsub ⟨3, 0x13, 0, 0, 6⟩, .value),
     (.c, .slget ⟨3, 0xf, 0, 0, 2⟩, .value),
     (.c, .trap ⟨0, 0x1a, 2, 0xfec7a4d3⟩, .value),
     (.c, .tret ⟨0, 0, 1, 0⟩, .value),
     (.c, .syscExit ⟨0, 0, 1, 0⟩, .value),
     (.c, .syscNotify ⟨0, 0, 1, 1⟩, .value),
     (.c, .slli ⟨0, 0x12, 0, 0x40⟩, .value),
     (.c, .amoswap ⟨0x11, 0x1d, 1, 0, 0xeef277f2⟩, .value),
     (.c, .loop ⟨3, 0x1f, 0, 0x1df9b, 1⟩, .value),
     (.c, .lprot ⟨3, 0, 0, 0, 0⟩, .value),
     (.c, .loop ⟨2, 0x1f, 0, 0x1df9b, 0⟩, .value),
     (.c, .loop ⟨2, 0x1f, 1, 1, 0⟩, .field),
     (.c, .jal ⟨0x1a, 1, 0, 0xa7b3bbea⟩, .field),
     (.c, .kbr ⟨4, 0, 0, 0x3e832472⟩, .field),
     (.c, .lprot ⟨1, 1, 0, 0, 0⟩, .field),
     (.c, .mfs ⟨0x11, 1, 0x14, 0, 0⟩, .field),
     (.c, .mts ⟨1, 6, 0x40, 0, 0⟩, .field),
     (.c, .mfs ⟨0x11, 0, 0x7f, 0, 0⟩, .value),
     (.c, .mtsLpcnt ⟨1, 3, 0x11, 0, 0⟩, .field),
     (.c, .fence ⟨1, 0x18, 0, 1, 0⟩, .field),
     (.c, .fence ⟨0, 0x18, 0, 1, 5⟩, .value),
     (.c, .ceapp ⟨0x14, 0x16, 1, 0, 4⟩, .field)] : List (Strm × Instr × Reject)).all
      (fun p => check p.2.1 == some p.2.2 && !wf p.1 p.2.1) = true := by decide +kernel

theorem test_illformed_3 :
    ([(.c, .cetail ⟨0x1e, 7, 0, 1, 2⟩, .field),
     (.c, .binit ⟨1, 0x1c, 0x1e, 0x10, 0⟩, .field),
     (.c, .barrive ⟨0x14, 0x1b, 1, 0, 0⟩, .field),
     (.c, .bwait ⟨1, 0xc, 3, 0, 0⟩, .field),
     (.c, .btest ⟨0xd, 5, 0x19, 1, 0⟩, .field),
     (.c, .qsend ⟨0xc, 0xe, 0x1c, 1, 6⟩, .field),
     (.c, .qrecv ⟨0xa, 1, 0, 0, 2⟩, .field),
     (.c, .qpoll ⟨2, 0, 1, 0, 1⟩, .field),
     (.c, .kpop ⟨8, 1, 1, 0, 0x1f⟩, .field),
     (.c, .cxsw ⟨3, 1, 0, 0⟩, .field),
     (.c, .cxpark ⟨5, 0x18, 1, 1⟩, .field),
     (.c, .cxyield ⟨1, 0, 0, 0⟩, .field),
     (.c, .slsub ⟨3, 0x13, 1, 0, 5⟩, .field),
     (.c, .slget ⟨3, 0xf, 1, 0, 0⟩, .field),
     (.c, .slcfgDrain ⟨1, 0x14, 0, 0, 0⟩, .field),
     (.c, .slcfgFlush ⟨0xb, 0x10, 0, 1, 1⟩, .field),
     (.c, .trap ⟨1, 0x1a, 1, 0xfec7a4d3⟩, .field),
     (.c, .tret ⟨0, 1, 0, 0⟩, .field),
     (.c, .tretPass ⟨0, 0, 0, 2⟩, .value),
     (.c, .syscExit ⟨0, 1, 0, 0⟩, .field),
     (.c, .syscNotify ⟨1, 0, 0, 1⟩, .field),
     (.c, .syscNotify ⟨0, 0, 0, 2⟩, .value),
     (.v, .srep ⟨1, 0, 1, 1⟩, .field),
     (.v, .srep ⟨0, 0, 0xc8f7, 0⟩, .value),
     (.c, .tgo ⟨1, 0, 1, 1, 1, 0x722, 0x5ff⟩, .field),
     (.c, .tgo ⟨1, 0, 0, 0, 0, 0, 0⟩, .value),
     (.v, .vadd ⟨0x1f, 0x16, 6, 1, 7, 1, 4, 0, 0, 0, 0, 0, 0⟩, .field),
     (.v, .vsub ⟨0x10, 0x14, 0xf, 1, 5, 1, 6, 0, 0, 0, 0, 0, 0⟩, .field),
     (.v, .vmul ⟨0x12, 6, 0xb, 1, 7, 1, 4, 0, 0, 0, 0, 0, 0⟩, .field),
     (.v, .vmin ⟨0xf, 0x1b, 0x1b, 1, 6, 1, 4, 0, 0, 0, 0, 0, 0⟩, .field),
     (.v, .vmax ⟨0x17, 5, 0x1f, 1, 7, 1, 4, 0, 0, 0, 0, 0, 0⟩, .field),
     (.v, .vand ⟨7, 0x1d, 0x1a, 1, 7, 1, 8, 0, 0, 0, 0, 0, 0⟩, .field),
     (.v, .vsll ⟨7, 0x16, 0xc, 1, 7, 1, 8, 0, 0, 0, 0, 0, 0⟩, .field),
     (.v, .vmulh ⟨5, 0x1d, 0xb, 1, 7, 1, 8, 0, 0, 0, 0, 0, 0⟩, .field),
     (.v, .vavg ⟨0x1b, 0xd, 0x19, 1, 7, 1, 8, 0, 0, 0, 0, 0, 0⟩, .field),
     (.v, .vcmpeq ⟨6, 0x16, 0x1b, 1, 0, 0, 4, 0, 0, 0, 0, 0, 0⟩, .field)] : List (Strm × Instr × Reject)).all
      (fun p => check p.2.1 == some p.2.2 && !wf p.1 p.2.1) = true := by decide +kernel

theorem test_illformed_4 :
    ([(.v, .vabs ⟨3, 7, 1, 0, 0, 0, 9, 0, 0, 0, 0, 0, 0⟩, .field),
     (.v, .vneg ⟨0x1c, 0, 1, 0, 7, 1, 9, 0, 0, 0, 0, 0, 0⟩, .field),
     (.v, .vclz ⟨0x1c, 0, 1, 0, 4, 1, 9, 0, 0, 0, 0, 0, 0⟩, .field),
     (.v, .vpopc ⟨0x10, 0x1f, 1, 0, 0, 0, 8, 0, 0, 0, 0, 0, 0⟩, .field),
     (.v, .vmov ⟨0xf, 0x12, 1, 0, 4, 1, 1, 0, 0, 0, 0, 0, 0⟩, .field),
     (.v, .vexp ⟨9, 6, 1, 0, 0, 0, 3, 0, 0, 0, 0, 0, 0⟩, .field),
     (.v, .vcvt ⟨0x17, 9, 1, 0x16, 2, 1, 6, 2, 0, 0, 0, 1, 1⟩, .field),
     (.v, .vrsum ⟨0x14, 7, 1, 0, 2, 1, 2, 0, 0, 0, 0, 0, 0⟩, .field),
     (.v, .vrmax ⟨0x17, 6, 1, 0, 0, 1, 1, 0, 0, 0, 0, 0, 0⟩, .field),
     (.v, .vrarg ⟨0x15, 6, 1, 0, 2, 1, 0xb, 0, 0, 0, 0, 0, 0⟩, .field),
     (.v, .vcpush ⟨3, 0xb, 1, 0, 3, 1, 0xa, 0, 0, 0, 0, 0, 0⟩, .field),
     (.v, .vadd ⟨0x1f, 0x16, 6, 0, 1, 0, 4, 0, 0, 0, 0, 0, 0⟩, .field),
     (.v, .vfma ⟨0x1d, 0x1b, 0x17, 0x15, 1, 0, 4, 0, 0, 0, 0, 0, 0⟩, .field),
     (.v, .vabs ⟨3, 7, 0, 0, 1, 0, 9, 0, 0, 0, 0, 0, 0⟩, .field),
     (.v, .vand ⟨7, 0x1d, 0x1a, 0, 1, 0, 8, 0, 0, 0, 0, 0, 0⟩, .field),
     (.v, .vclz ⟨0x1c, 0, 0, 0, 1, 0, 9, 0, 0, 0, 0, 0, 0⟩, .field),
     (.v, .vsel ⟨0xd, 0x12, 0x1c, 0, 1, 0, 8, 0, 0, 0, 0, 0, 0⟩, .field),
     (.v, .vmov ⟨0xf, 0x12, 0, 0, 1, 0, 1, 0, 0, 0, 0, 0, 0⟩, .field),
     (.v, .vcvt ⟨0x17, 9, 0, 0x16, 1, 0, 6, 2, 0, 0, 0, 1, 1⟩, .field),
     (.v, .vrsum ⟨0x14, 7, 0, 0, 1, 0, 2, 0, 0, 0, 0, 0, 0⟩, .field),
     (.v, .vcpush ⟨3, 0xb, 0, 0, 1, 0, 0xa, 0, 0, 0, 0, 0, 0⟩, .field),
     (.v, .vcpop ⟨5, 0, 0, 0, 1, 0, 0xc, 0, 0, 0, 0, 0, 0⟩, .field),
     (.v, .vcmplt ⟨3, 0x1c, 0x1d, 0, 1, 0, 8, 0, 0, 0, 0, 0, 0⟩, .field),
     (.v, .vkset ⟨0, 0, 0, 0, 1, 0, 6, 0, 0, 0, 0, 0, 0⟩, .field),
     (.v, .vpack ⟨0x1b, 0x15, 0x18, 0, 0, 1, 3, 0, 0, 0, 0, 0, 0⟩, .field),
     (.v, .vunpk ⟨0x1b, 0x11, 0xb, 0, 0, 1, 0xa, 0, 0, 0, 0, 0, 0⟩, .field),
     (.v, .vswcfg ⟨0, 6, 0, 0, 0, 1, 0xa, 0, 0, 0, 0, 0, 0⟩, .field),
     (.v, .vswget ⟨1, 0, 0, 0, 0, 1, 0xa, 0, 0, 0, 0, 0, 0⟩, .field),
     (.v, .vswget ⟨1, 0, 0, 0, 0, 0, 0xa, 0, 0, 0, 0, 1, 0⟩, .field),
     (.v, .vkclr ⟨1, 0, 0, 0, 0, 1, 0, 0, 0, 0, 0, 0, 0⟩, .field),
     (.v, .vmin ⟨0xf, 0x1b, 0x1b, 0, 6, 1, 4, 1, 0, 0, 0, 0, 0⟩, .field),
     (.v, .vand ⟨7, 0x1d, 0x1a, 0, 7, 1, 8, 1, 0, 0, 0, 0, 0⟩, .field),
     (.v, .vsll ⟨7, 0x16, 0xc, 0, 7, 1, 8, 1, 0, 0, 0, 0, 0⟩, .field),
     (.v, .vmov ⟨0xf, 0x12, 0, 0, 4, 1, 1, 1, 0, 0, 0, 0, 0⟩, .field),
     (.v, .vpack ⟨0x1b, 0x15, 0x18, 0, 0, 0, 3, 1, 0, 0, 0, 0, 0⟩, .field),
     (.v, .vrmax ⟨0x17, 6, 0, 0, 0, 1, 1, 1, 0, 0, 0, 0, 0⟩, .field),
     (.v, .vcmple ⟨2, 7, 0x1b, 0, 7, 1, 8, 1, 0, 0, 0, 0, 0⟩, .field)] : List (Strm × Instr × Reject)).all
      (fun p => check p.2.1 == some p.2.2 && !wf p.1 p.2.1) = true := by decide +kernel

theorem test_illformed_5 :
    ([(.v, .vkset ⟨0, 0, 0, 0, 1, 1, 6, 1, 0, 0, 0, 0, 0⟩, .field),
     (.v, .vmin ⟨0xf, 0x1b, 0x1b, 0, 6, 1, 4, 0, 0, 0, 0, 0, 1⟩, .field),
     (.v, .vand ⟨7, 0x1d, 0x1a, 0, 7, 1, 8, 0, 0, 0, 0, 0, 1⟩, .field),
     (.v, .vmov ⟨0xf, 0x12, 0, 0, 4, 1, 1, 0, 0, 0, 0, 0, 1⟩, .field),
     (.v, .vpack ⟨0x1b, 0x15, 0x18, 0, 0, 0, 3, 0, 0, 0, 0, 0, 1⟩, .field),
     (.v, .vrmax ⟨0x17, 6, 0, 0, 0, 1, 1, 0, 0, 0, 0, 0, 1⟩, .field),
     (.v, .vcpush ⟨3, 0xb, 0, 0, 3, 1, 0xa, 0, 0, 0, 0, 1, 0⟩, .field),
     (.v, .vswcfg ⟨0, 6, 0, 0, 0, 0, 0xa, 0, 0, 0, 0, 1, 0⟩, .field),
     (.v, .vcmpeq ⟨6, 0x16, 0x1b, 0, 0, 0, 4, 0, 0, 0, 0, 1, 0⟩, .field),
     (.v, .vkset ⟨0, 0, 0, 0, 1, 1, 6, 0, 0, 0, 0, 1, 0⟩, .field),
     (.v, .vkclr ⟨1, 0, 0, 0, 0, 0, 0, 0, 0, 0, 0, 1, 0⟩, .field),
     (.v, .vgmax ⟨0xa, 0x19, 5, 0, 5, 1, 0xb, 0, 0, 1, 0, 0, 0⟩, .field),
     (.v, .vcpush ⟨4, 0xb, 0, 0, 3, 1, 0xa, 0, 0, 0, 0, 0, 0⟩, .field),
     (.v, .vcpop ⟨5, 2, 0, 0, 7, 1, 0xc, 0, 0, 0, 0, 0, 0⟩, .field),
     (.v, .vcpop ⟨5, 0, 0, 0, 7, 1, 0xc, 0, 1, 0, 0, 0, 0⟩, .field),
     (.v, .vcmpeq ⟨8, 0x16, 0x1b, 0, 0, 0, 4, 0, 0, 0, 0, 0, 0⟩, .field),
     (.v, .vkclr ⟨1, 0, 0, 0, 0, 0, 1, 0, 0, 0, 0, 0, 0⟩, .field),
     (.v, .vkset ⟨4, 0, 0, 0, 1, 1, 6, 0, 0, 0, 0, 0, 0⟩, .field),
     (.v, .vswget ⟨1, 1, 0, 0, 0, 0, 0xa, 0, 0, 0, 0, 0, 0⟩, .field),
     (.v, .vcvt ⟨0x17, 9, 0, 0x16, 2, 1, 6, 2, 0, 0, 1, 1, 1⟩, .field),
     (.v, .vadd ⟨0x1f, 0x16, 6, 0, 7, 1, 0, 0, 0, 0, 0, 0, 0⟩, .value),
     (.v, .vadd ⟨0x1f, 0x16, 6, 0, 7, 1, 0xd, 0, 0, 0, 0, 0, 0⟩, .value),
     (.v, .vadd ⟨0x1f, 0x16, 6, 0, 7, 1, 0xa, 1, 0, 0, 0, 0, 0⟩, .field),
     (.v, .vadd ⟨0x1f, 0x16, 6, 0, 7, 1, 1, 5, 0, 0, 0, 0, 0⟩, .value),
     (.v, .vfma ⟨0x1d, 0x1b, 0x17, 0x15, 6, 1, 8, 0, 0, 0, 0, 0, 0⟩, .value),
     (.v, .vmin ⟨0xf, 0x1b, 0x1b, 0, 6, 1, 7, 0, 0, 0, 0, 0, 0⟩, .value),
     (.v, .vabs ⟨3, 7, 0, 0, 0, 0, 1, 0, 0, 0, 0, 0, 1⟩, .field),
     (.v, .vsll ⟨7, 0x16, 0xc, 0, 7, 1, 1, 0, 0, 0, 0, 0, 0⟩, .value),
     (.v, .vfsl ⟨0xf, 0x1b, 0x1d, 0x1f, 1, 1, 2, 0, 0, 0, 0, 0, 0⟩, .value),
     (.v, .vclz ⟨0x1c, 0, 0, 0, 4, 1, 3, 0, 0, 0, 0, 0, 0⟩, .value),
     (.v, .vsel ⟨0xd, 0x12, 0x1c, 0, 0, 0, 1, 0, 0, 0, 0, 0, 0⟩, .value),
     (.v, .vmov ⟨0xf, 0x12, 0, 0, 4, 1, 0xd, 0, 0, 0, 0, 0, 0⟩, .value),
     (.v, .vexp ⟨9, 6, 0, 0, 0, 0, 8, 0, 0, 0, 0, 0, 0⟩, .value),
     (.v, .vcvt ⟨0x17, 9, 0, 0x16, 2, 1, 0, 0, 0, 0, 0, 1, 1⟩, .value),
     (.v, .vpack ⟨0x1b, 0x15, 0x18, 0, 0, 0, 0xe, 0, 0, 0, 0, 0, 0⟩, .value),
     (.v, .vrsum ⟨0x14, 7, 0, 0, 2, 1, 0xa, 1, 0, 0, 0, 0, 0⟩, .field)] : List (Strm × Instr × Reject)).all
      (fun p => check p.2.1 == some p.2.2 && !wf p.1 p.2.1) = true := by decide +kernel

theorem test_illformed_6 :
    ([(.v, .vrmax ⟨0x17, 6, 0, 0, 0, 1, 0xc, 0, 0, 0, 0, 0, 0⟩, .value),
     (.v, .vgmax ⟨0xa, 0x19, 0, 0, 5, 1, 1, 0, 0, 0, 0, 0, 0⟩, .value),
     (.v, .vgmax ⟨0xa, 0x19, 7, 0, 5, 1, 1, 0, 0, 0, 0, 0, 0⟩, .value),
     (.v, .vgsum ⟨6, 6, 7, 0, 4, 1, 1, 0, 0, 0, 0, 0, 0⟩, .value),
     (.v, .vcpush ⟨3, 0xb, 0, 0, 3, 1, 6, 0, 0, 0, 0, 0, 0⟩, .value),
     (.v, .vcpop ⟨5, 0, 0, 0, 7, 1, 6, 0, 0, 0, 0, 0, 0⟩, .value),
     (.v, .vswcfg ⟨0, 6, 0, 0, 0, 0, 1, 0, 0, 0, 0, 0, 0⟩, .value),
     (.v, .vswget ⟨1, 0, 0, 0, 0, 0, 8, 0, 0, 0, 0, 0, 0⟩, .value),
     (.v, .vcmpeq ⟨6, 0x16, 0x1b, 0, 0, 0, 6, 0, 0, 0, 0, 0, 0⟩, .value),
     (.v, .vkset ⟨0, 0, 0, 0, 1, 1, 0xf, 0, 0, 0, 0, 0, 0⟩, .value),
     (.v, .vsplat ⟨0x1b, 1, 0x290a, 0, 1, 3, 2, 0, 0, 0⟩, .field),
     (.v, .vslli ⟨0, 0x10, 4, 0, 0, 0xa, 1, 1, 0, 0⟩, .field),
     (.v, .vtopk ⟨0xa, 0, 0x193a, 1, 1, 8, 0, 0, 1, 0⟩, .field),
     (.v, .vconf ⟨8, 0, 0xc80, 0, 0, 1, 0, 1, 0, 0⟩, .field),
     (.v, .vaddi ⟨0x16, 8, 0xd394, 7, 1, 0, 0, 1, 0, 1⟩, .value),
     (.v, .vslli ⟨0, 0x10, 8, 0, 0, 8, 0, 1, 0, 0⟩, .value),
     (.v, .vtopk ⟨0xa, 0, 0x41, 1, 1, 1, 0, 0, 0, 0⟩, .value),
     (.v, .vtopk ⟨0xa, 0, 0, 1, 1, 1, 0, 0, 0, 0⟩, .value),
     (.v, .vtopk ⟨0xa, 0, 0x8001, 1, 1, 1, 0, 0, 0, 0⟩, .value),
     (.v, .vconf ⟨6, 0, 0xc80, 0, 0, 2, 0, 1, 0, 0⟩, .value),
     (.v, .vld ⟨0x17, 0xf7ebe, 7, 1, 0, 3, 1, 0x34⟩, .field),
     (.v, .vld ⟨0x17, 0xf7ebe, 7, 1, 0xd, 0, 0, 0x34⟩, .value),
     (.v, .vld ⟨0x17, 0xf7ebe, 0, 0, 1, 3, 0, 0x34⟩, .value),
     (.v, .vst ⟨0x17, 0xef3f5, 1, 1, 9, 2, 0, 0xb⟩, .value),
     (.v, .vst ⟨0x17, 0xef3f5, 1, 0, 9, 0, 0, 0xb⟩, .field),
     (.v, .vldm ⟨8, 0xcffdf, 0, 0, 0, 0, 0, 0⟩, .field),
     (.v, .vldm ⟨6, 0xcffdf, 0, 0, 0, 3, 0, 0⟩, .value),
     (.v, .vstm ⟨3, 0xdbff9, 0, 0, 1, 0, 0, 0⟩, .field),
     (.v, .vstm ⟨3, 0xdbff9, 0, 0, 0, 2, 0, 0⟩, .value),
     (.x, .xlnt ⟨6, 5, 0xb0f7f242⟩, .value),
     (.x, .xlnt ⟨0, 7, 0xb0f7f242⟩, .value),
     (.x, .xlnt ⟨0, 0, 0⟩, .value),
     (.x, .xlnt ⟨0, 0, 0x10001⟩, .value),
     (.x, .xlnt ⟨5, 6, 0xb0f7f242⟩, .value),
     (.x, .xclaim ⟨2, 1, 0, 0, 0, 0⟩, .field),
     (.x, .xrel ⟨0xc, 0, 1, 0, 0, 0⟩, .field)] : List (Strm × Instr × Reject)).all
      (fun p => check p.2.1 == some p.2.2 && !wf p.1 p.2.1) = true := by decide +kernel

theorem test_illformed_7 :
    ([(.x, .xfill ⟨3, 2, 0x822b4, 6, 1, 0x15⟩, .field),
     (.x, .xfill ⟨3, 2, 0x822b4, 1, 0, 0x15⟩, .value),
     (.x, .xzero ⟨1, 0, 0, 1, 0, 0⟩, .field),
     (.x, .xzero ⟨0, 0, 0, 2, 0, 0⟩, .value),
     (.x, .xdrain ⟨3, 2, 0x36142, 2, 0, 0x38⟩, .value),
     (.x, .xcvt ⟨0xe, 0, 0xe13fc, 7, 3, 0x32⟩, .value),
     (.x, .xscld ⟨2, 2, 0x84004, 2, 0, 0x15⟩, .value),
     (.x, .xmeta ⟨7, 3, 0xffbeb, 1, 0, 0⟩, .value),
     (.x, .xstat ⟨1, 0, 0xf7f4d, 0, 0, 0⟩, .field),
     (.x, .xscale ⟨1, 0, 0, 0, 2, 0, 6, 0⟩, .field),
     (.x, .xscale ⟨0, 0, 0, 0, 3, 0, 6, 0⟩, .value),
     (.x, .xspar ⟨0, 0, 0, 2, 1, 0, 0, 4⟩, .field),
     (.x, .xspar ⟨0, 0, 0, 3, 0, 0, 0, 4⟩, .value),
     (.x, .xgo ⟨1, 3, 3, 1, 2, 2, 3, 0xd⟩, .value),
     (.x, .xgo ⟨3, 3, 3, 1, 3, 2, 3, 0xd⟩, .value),
     (.x, .xgo ⟨3, 3, 4, 1, 2, 2, 3, 0xd⟩, .value),
     (.s, .ssum ⟨6, 0x73, 0xf, 0xbf, 0, 1, 0⟩, .field),
     (.s, .ssum ⟨6, 0x73, 0xf, 0xbf, 0x40, 0, 0⟩, .value),
     (.s, .smul ⟨0xd, 0xbf, 6, 0xf5, 8, 0, 0⟩, .value),
     (.s, .smov ⟨0xb, 0xd5, 0xe, 0x7f, 1, 0, 0⟩, .field),
     (.s, .smov ⟨0xb, 0xd5, 0xe, 0x7f, 0, 0, 0x100⟩, .value),
     (.s, .scvti ⟨8, 0x57, 8, 0xb9, 4, 0, 0⟩, .value),
     (.s, .scvto ⟨1, 9, 5, 0xdf, 3, 0, 2⟩, .value),
     (.s, .sevid ⟨0xb, 0xbe, 0xf, 0xef, 0, 1, 0⟩, .field),
     (.s, .szero ⟨1, 5, 1, 0, 0, 0, 0x14⟩, .field),
     (.s, .sone ⟨1, 0x5e, 0, 0, 0, 0, 0x100⟩, .value),
     (.s, .snorm ⟨0xa, 0xe8, 6, 0x6d, 0, 4, 1⟩, .value),
     (.s, .sresc ⟨0xf, 0xb4, 2, 0xc9, 0, 1, 0x35ae⟩, .field),
     (.s, .sgexp ⟨6, 0xee, 0xe, 0xc6, 1, 0, 0x5ab8⟩, .field),
     (.s, .smarg ⟨0xb, 0xff, 0xa, 0xef, 0, 0, 0x100⟩, .value)] : List (Strm × Instr × Reject)).all
      (fun p => check p.2.1 == some p.2.2 && !wf p.1 p.2.1) = true := by decide +kernel
/-! ## Split rows, packets, unit commands -/

theorem test_split_rows : [(Strm.c, Instr.mts ⟨0, 1, 0x020, 0, 0⟩), (.c, .mts ⟨0, 1, 0x064, 0, 0⟩), (.c, .mtsLpcnt ⟨0, 1, 0x014, 0, 0⟩),
    (.c, .mtsLpbegLpend ⟨0, 1, 0x010, 0, 0⟩), (.c, .mtsEvpend ⟨0, 1, 0x064, 0, 0⟩), (.c, .tret ⟨0, 0, 0, 1⟩),
    (.c, .tretPass ⟨0, 0, 0, 0⟩), (.c, .syscExit ⟨0, 0, 0, 1⟩), (.c, .syscNotify ⟨0, 0, 0, 0⟩), (.c, .slcfgDrain ⟨0, 1, 0, 0, 1⟩),
    (.c, .slcfgFlush ⟨0, 1, 0, 0, 0⟩), (.v, .add ⟨1, 2, 3, 0, 0⟩), (.c, .xzero ⟨0, 0, 0, 1, 0, 0⟩), (.x, .fwcommit 1)].all
      (fun p => !wf p.1 p.2) = true := by decide +kernel

/-- A packet with FAB set, TAG 0x77, COMPL 0x1008 and operands at their offsets (R365). -/
def rawPacket (cmd box : Nat) (ops : List (Nat × Nat)) : BitVec 512 :=
  BitVec.ofNat 512 (cmd + 2 * 2 ^ 8 + box * 2 ^ 16 + 0x77 * 2 ^ 32 + 0x1008 * 2 ^ 64 + (ops.map fun p => p.2 * 2 ^ (8 * p.1)).sum)

/-- Its fields after CMD. -/
def packet (box : Nat) (ops : List (Nat × Nat)) : Packet :=
  ⟨2, BitVec.ofNat 16 box, 0x77, 0x1008, BitVec.ofNat 384 ((ops.map fun p => p.2 * 2 ^ (8 * (p.1 - 16))).sum)⟩

/-- The codes and operands of R366, each operand all ones. -/
def packetRows : List (Nat × (Packet → Instr) × Bool × List (Nat × Nat)) :=
  [(0x01, .launch, true, [(0x10, 4), (0x18, 8), (0x20, 8), (0x28, 8)]), (0x02, .wait, false, [(0x10, 8), (0x18, 8), (0x20, 8), (0x28, 1), (0x30, 8)]),
   (0x03, .cancel, false, [(0x10, 4)]), (0x04, .create, false, [(0x10, 8), (0x18, 8), (0x20, 8), (0x28, 2), (0x2A, 2), (0x2C, 4)]),
   (0x05, .destroy, true, []), (0x06, .swap, true, []), (0x07, .halt, true, []), (0x08, .signal, true, []), (0x09, .wakehint, true, [(0x10, 8)]),
   (0x0A, .track, false, [(0x10, 2), (0x12, 1), (0x13, 1), (0x18, 8)]), (0x0B, .xinv, false, [(0x10, 2), (0x18, 8), (0x20, 4)]),
   (0x0C, .aspace, false, [(0x10, 2), (0x12, 1), (0x18, 8)]), (0x0D, .region, false, [(0x10, 8)]), (0x0E, .rclock, false, [(0x10, 8), (0x18, 2)]),
   (0x0F, .chbind, true, [(0x10, 1), (0x11, 1), (0x18, 8), (0x20, 8), (0x28, 2), (0x2A, 2)]),
   (0x10, .prbind, true, [(0x10, 1), (0x11, 1), (0x12, 1), (0x14, 2), (0x16, 2), (0x18, 2)]),
   (0x11, .model, false, [(0x10, 8), (0x18, 8), (0x20, 4)]), (0x12, .attest, false, [(0x10, 32), (0x30, 8)]),
   (0x13, .keyexp, false, [(0x10, 2), (0x18, 8), (0x20, 8)]), (0x14, .keyimp, false, [(0x10, 2), (0x18, 8), (0x20, 8)]),
   (0x15, .debugCmd, false, [(0x18, 8)]), (0x16, .keywipe, false, []), (0x17, .power, false, [(0x10, 1)]),
   (0x18, .fwload, false, [(0x18, 8), (0x20, 4)])]

/-- The operands of a row, all ones, with a byte of the packet set beyond them where `extra` is an offset. -/
def rowOps (l : List (Nat × Nat)) : List (Nat × Nat) := l.map fun q => (q.1, 2 ^ (8 * q.2) - 1)

theorem test_decode_packets : packetRows.all (fun r =>
    let box := if r.2.2.1 then 0xC003 else 0
    let i := r.2.1 (packet box (rowOps r.2.2.2))
    decodePacket (rawPacket r.1 box (rowOps r.2.2.2)) == some i && wfPacket i && encodePacket i == some (rawPacket r.1 box (rowOps r.2.2.2))) = true := by
  decide +kernel

/-- Every byte of 0x10 to 0x3F outside a row's operands, and BOX where no box is named, makes the packet BADPKT. -/
theorem test_badpkt_bytes : packetRows.all (fun r =>
    let box := if r.2.2.1 then 0xC003 else 0
    (List.range 48).all (fun k => (r.2.2.2.any fun q => decide (q.1 ≤ 16 + k ∧ 16 + k < q.1 + q.2))
      || (decodePacket (rawPacket r.1 box ((16 + k, 1) :: rowOps r.2.2.2)) == none
          && !wfPacket (r.2.1 (packet box ((16 + k, 1) :: rowOps r.2.2.2)))))
    && (r.2.2.1 || decodePacket (rawPacket r.1 1 (rowOps r.2.2.2)) == none)) = true := by decide +kernel

/-- FLAGS: LAUNCH alone takes ANY, with a box set and no BOX, and STEP; [7:4] are zero; CMD 0 and above 0x18 are unknown. -/
theorem test_packet_flags :
    (decodePacket (BitVec.ofNat 512 (0x01 + 8 * 2 ^ 8))).isSome = true
      ∧ decodePacket (BitVec.ofNat 512 (0x01 + 16 * 2 ^ 8)) = none
      ∧ (decodePacket (BitVec.ofNat 512 (0x01 + 4 * 2 ^ 8 + 5 * 2 ^ 384))).isSome = true
      ∧ decodePacket (BitVec.ofNat 512 (0x01 + 4 * 2 ^ 8 + 3 * 2 ^ 16)) = none
      ∧ decodePacket (BitVec.ofNat 512 (0x01 + 5 * 2 ^ 384)) = none
      ∧ decodePacket (BitVec.ofNat 512 (0x08 + 4 * 2 ^ 8)) = none
      ∧ decodePacket (BitVec.ofNat 512 0) = none ∧ decodePacket (BitVec.ofNat 512 0x19) = none := by decide +kernel

/-- Unit commands written from the layouts of R327, R337 and R338; a unit takes its own codes only. -/
theorem test_decode_units :
    let slu : Nat := 1 * 2 ^ 8 + 2 * 2 ^ 16 + 3 * 2 ^ 32 + 4 * 2 ^ 56 + 5 * 2 ^ 64 + 6 * 2 ^ 128 + 7 * 2 ^ 192 + 8 * 2 ^ 256 + 9 * 2 ^ 288 + 10 * 2 ^ 320
      + 11 * 2 ^ 352 + 12 * 2 ^ 384 + 13 * 2 ^ 448
    let c : SluCmd := ⟨1, 2, 3, 4, 5, 6, 7, 8, 9, 10, 11, 12, 13⟩
    [(1, Instr.sample c), (2, .short c), (3, .merge c), (4, .verify c)].all (fun p => [0, 3].all fun u =>
        decodeUnit u (BitVec.ofNat 512 (slu + p.1)) == some p.2 && wfUnit u p.2 && encodeUnit p.2 == some (BitVec.ofNat 512 (slu + p.1))) = true
      ∧ decodeUnit 4 (BitVec.ofNat 512 (5 + 2 * 2 ^ 16 + 3 * 2 ^ 32 + 4 * 2 ^ 64 + 5 * 2 ^ 128 + 6 * 2 ^ 192 + 7 * 2 ^ 256 + 8 * 2 ^ 288 + 9 * 2 ^ 320
          + 10 * 2 ^ 384 + 11 * 2 ^ 416)) = some (.compact ⟨0, 2, 3, 4, 5, 6, 7, 8, 9, 10, 11, 0⟩)
      ∧ decodeUnit 5 (BitVec.ofNat 512 (6 + 2 * 2 ^ 16 + 3 * 2 ^ 64 + 4 * 2 ^ 128 + 5 * 2 ^ 192 + 6 * 2 ^ 224)) = some (.backfill ⟨0, 2, 0, 3, 4, 5, 0, 6, 0⟩)
      ∧ decodeUnit 4 1 = none ∧ decodeUnit 0 5 = none ∧ decodeUnit 4 6 = none ∧ decodeUnit 5 5 = none ∧ decodeUnit 0 7 = none
      ∧ wfUnit 4 (.sample c) = false := by decide +kernel

/-- Whether a word is refused for the reason `r`. -/
def refusedFor (e : Strm) (w : Word) (r : Reject) : Bool :=
  match decode e w with
  | .error x => x == r
  | .ok _ => false

/-- The checks of R51 in their order: an unassigned code, a reserved bit or a field not used, a value not allowed. -/
theorem test_reject_order : refusedFor .c 0x001FC00000000001 .unassigned && refusedFor .c 0x0004061100200001 .field
    && refusedFor .c 0x0004061100200000 .value && refusedFor .v 0x0010800000000000 .value = true := by decide +kernel
/-! ## States for the witnesses -/

/-- Words of the page table of R205 with root 0: address space 1 has page 0 in HBM, page 1 absent, page 2 in the SRAM window of
tile 0, page 3 read-only, page 4 under move and page 5 in the loft. -/
def tableWords : List (Nat × Nat) :=
  [(0, 2 ^ 63 + 1), (0x10000, 2 ^ 63 + 2), (0x20000, 0xC818000000000100), (0x20008, 0xD818000000000000), (0x20010, 0xA018000100000000),
   (0x20018, 0xC800000000000103), (0x20020, 0xC81C000000000104), (0x20028, 0x9018000000000000 + 2 ^ 35)]

/-- A package with address spaces 0 and 1 over that table. -/
def space : State := { State.reset with
  asids := [(0, ⟨true, 0⟩), (1, ⟨true, 0⟩)]
  mem := (tableWords.flatMap fun p => (rangeFrom p.1 8).zip (toBytes 8 p.2)).foldl (fun m p => m.write p.1 p.2) [] }

/-- A root region of die 0. -/
def rootAt (va : Word) : Region :=
  ⟨va, 0, true, 0, true, 40000, 2000, true, 3, true, 1, true, 2, true, 2000, 0, none, 0xDDDD, [], 0⟩

/-- A box of address space 1 that runs on tile 0. -/
def runBox : Box := { Box.reset with
  state := .running, asid := 1, imgsize := 16, lsize := 16, rcb := 0x40, tiles := [0], live := true, everRan := true, resume := true }

/-- A word of stream C at index 5 of 64 on tile 0, at beat 10; s1 = 8, s2 = 0x20010, s3 = 3, s4 = 2^57, s5 = 0x10008. -/
def atC : State := { space with
  boxes := [(0, runBox)], regions := [rootAt 0x40], cur := ⟨0, .c, 0, 5, 0, 0, 0⟩
  tiles := vput State.reset.tiles 0 { Tile.reset with
    box := some 0, beat := 10, lsize := 16, sect := Vector.replicate 4 ⟨0x1000, 64⟩
    ctx := { Ctx.reset with
      mpc := 5
      c := { CRegs.reset with s := (vput (vput (vput (vput (vput CRegs.reset.s 1 8) 2 0x20010) 3 3) 4 0x200000000000000) 5 0x10008) } } } }

/-- That state with a change to the context. -/
def atC' (f : Ctx → Ctx) : State := atC.updCtx 0 f

/-- That state with a change to the C registers. -/
def atCR (f : CRegs → CRegs) : State := atC' fun c => { c with c := f c.c }

/-- A word of an engine stream at index 5 of 64 there. -/
def atE (e : Strm) : State := { atC with cur := { atC.cur with strm := e } }

/-- Live poison in register 7. -/
def poisoned : State := atCR fun c => { c with poison := 0x80 }

/-- Register 1 waits for a pending write. -/
def waiting : State := atC' fun c => { c with loads := [⟨.load, [(1, 9)], true, none, false, false, []⟩] }

/-- Level 0 of the loops runs over words 2 to 5. -/
def looping : State := atCR fun c => { c with lpact := 1, lpcnt := vput c.lpcnt 0 2, lpbeg := vput c.lpbeg 0 2, lpend := vput c.lpend 0 5 }

/-- A lockstep region of C and V. -/
def inRegion : State := atC' fun c => { c with lockstep := true, memV := true, v := ⟨true, false, 3, .after 0, []⟩ }

/-- A handler installed at word 20. -/
def handled : State := atC' fun c => { c with trap := { c.trap with tvec := 0x8000000000000014 } }

/-- An ALU word's, a branch's and a loop's fields. -/
def fcr : FCR := ⟨3, 1, 2, 0, 0⟩
def fcb (d : BitVec 32) : FCB := ⟨1, 2, 0, d⟩

/-! ## Witnesses: each meets the hypotheses of the statement that its name gives -/

theorem wit_AtIssue : AtIssue atC .c ∧ AtIssue (atE .v) .v ∧ AtIssue (atE .x) .x ∧ AtIssue (atE .s) .s ∧ atC.inv ∧ TeamAtIssue atC 0 := by
  unfold State.inv TeamAtIssue; decide +kernel

theorem wit_ScalarResults : ∃ op, scalarOp (.add fcr) = some op ∧ AtIssue atC .c ∧ atC.me.waits op.src = false :=
  ⟨_, rfl, by decide +kernel⟩

theorem wit_ConditionalBranches : ∃ c, branchOp (.beq (fcb 3)) = some (fcb 3, c) ∧ AtIssue atC .c ∧ atC.me.waits [1, 2] = false
    ∧ atC.me.c.live = false ∧ NoLoopEnd atC.me.c 5 ∧ c (atC.reg 1) (atC.reg 2) = false ∧ c (atC.reg 1) (atC.reg 1) = true
    ∧ 0 ≤ (5 : Int) + (-5 : BitVec 32).toInt ∧ (5 : Int) + (58 : BitVec 32).toInt < cLen atC :=
  ⟨_, rfl, by unfold NoLoopEnd cLen; decide +kernel⟩

theorem wit_BranchesThatTrap : ∃ c, branchOp (.bne (fcb 59)) = some (fcb 59, c) ∧ AtIssue poisoned .c ∧ poisoned.me.c.live = true
    ∧ waiting.me.waits [1, 2] = true ∧ waiting.me.c.live = false ∧ ¬ NoLoopEnd looping.me.c 5 ∧ c (atC.reg 1) (atC.reg 2) = true
    ∧ (cLen atC : Int) ≤ 5 + (59 : BitVec 32).toInt ∧ (5 : Int) + (-6 : BitVec 32).toInt < 0 :=
  ⟨_, rfl, by unfold NoLoopEnd cLen; decide +kernel⟩

theorem wit_JumpsLink : AtIssue atC .c ∧ atC.me.c.live = false ∧ NoLoopEnd atC.me.c atC.cur.idx ∧ atC.me.waits [3] = false
    ∧ (0 : Int) ≤ (atC.reg 3).toNat + (-3 : BitVec 32).toInt ∧ (atC.reg 3).toNat + (60 : BitVec 32).toInt < cLen atC := by
  unfold NoLoopEnd cLen; decide +kernel

theorem wit_KeepBitWords :
    let s := atCR fun c => { c with kvalid := 1, kcur := vput c.kcur 0 1023 }
    let t := atCR fun c => { c with kvalid := 1, kcur := vput c.kcur 0 1024 }
    AtIssue s .c ∧ s.me.c.live = false ∧ NoLoopEnd s.me.c s.cur.idx ∧ s.me.c.kvalid.getLsbD 0 = true
      ∧ (vget 0 s.me.c.kcur 0).toNat + 1 ≤ 1024 ∧ (vget 0 s.me.c.kcur 0).toNat ≠ 1024 ∧ (vget 0 t.me.c.kcur 0).toNat = 1024
      ∧ 1024 < (vget 0 s.me.c.kcur 0).toNat + 2 ∧ atC.me.c.kvalid.getLsbD 0 = false := by
  unfold NoLoopEnd; decide +kernel

theorem wit_LoopActivatesLevel :
    let f : FCL := ⟨1, 3, 0, 1, 3⟩
    AtIssue atC .c ∧ f.lvl.toNat = 1 ∧ atC.me.waits [3] = false ∧ atC.me.c.live = false ∧ NoLoopEnd atC.me.c 5
      ∧ (∀ m, m < 3 → 1 ≤ m → atC.me.c.lpact.getLsbD m = false) ∧ f.q.getLsbD 0 = false ∧ (6 : Int) = 5 + f.beg.toInt
      ∧ 8 + 1 = 6 + f.len.toNat ∧ 8 < cLen atC ∧ (∀ m, m < 1 → atC.me.c.lpact.getLsbD m = true → 8 ≤ (vget 0 atC.me.c.lpend m).toNat)
      ∧ atC.reg 3 = BitVec.setWidth 64 (3 : BitVec 32) := by
  unfold NoLoopEnd cLen; decide +kernel

/-- LOOP.st with its staged copy, and a count of 0. -/
theorem wit_LoopStaged :
    let s := atCR fun c => { c with lpstg := vput c.lpstg 0 ⟨true, 63, 6⟩ }
    let f : FCL := ⟨0, 0, 1, 0, 0⟩
    f.q.getLsbD 0 = true ∧ vget ⟨false, 0, 0⟩ s.me.c.lpstg 0 = ⟨true, BitVec.ofNat 24 63, BitVec.ofNat 24 6⟩ ∧ 63 < cLen s
      ∧ s.reg 0 = BitVec.setWidth 64 (0 : BitVec 32) := by
  unfold cLen; decide +kernel

theorem wit_LprotHandsOff : AtIssue looping .c ∧ looping.me.c.lpact.getLsbD 0 = true ∧ (vget 0 looping.me.c.lpend 0).toNat = looping.cur.idx
    ∧ (∀ m, m < 3 → m ≠ 0 → ¬ (looping.me.c.lpact.getLsbD m = true ∧ (vget 0 looping.me.c.lpend m).toNat = looping.cur.idx))
    ∧ looping.me.vec.fly = [] ∧ atC.me.c.lpact.getLsbD 0 = false := by decide +kernel

theorem wit_LoopCountWrites : AtIssue looping .c ∧ (0x012 : BitVec 12).toNat = 0x010 + 2 ∧ looping.me.waits [3] = false
    ∧ looping.me.c.live = false := by decide +kernel

theorem wit_WaitcPasses : waitMet atC ⟨0, 0, 0, 0⟩ ∧ waitMet (atC.updTile 0 fun x => { x with oc0 := ⟨255, 254, 0, 9⟩ }) ⟨255, 254, 0, 255⟩
    ∧ ¬ waitMet (atC.updTile 0 fun x => { x with oc0 := ⟨1, 0, 0, 0⟩ }) ⟨0, 0, 0, 0⟩ := by
  unfold waitMet allowed; decide +kernel

theorem wit_TendEndsStream : AtIssue inRegion .c ∧ inRegion.me.c.live = false ∧ inRegion.me.lockstep = true ∧ ¬ othersEnded inRegion.me .c
    ∧ atC.me.lockstep = false
    ∧ othersEnded (atC' fun c => { c with lockstep := true, memV := true, cEnded := true, v := { c.v with ended := true } }).me .v
    ∧ (atE .v).me.v.levels = [] ∧ (inRegion.me).member .v = true := by
  unfold othersEnded; decide +kernel

theorem wit_Srep :
    let s := (atE .v).updCtx 0 fun c => { c with v := { c.v with running := true, mpc := 5 } }
    let t := (atE .v).updCtx 0 fun c => { c with v := { c.v with levels := [⟨4, 60, 1, 0⟩, ⟨2, 62, 1, 0⟩] } }
    AtIssue s .v ∧ (s.me.strm .v).levels.length < 2 ∧ s.cur.idx + 58 < secLen s .v ∧ secLen s .v ≤ s.cur.idx + 59
      ∧ s.me.waits [3] = false ∧ s.me.c.psn 3 = false ∧ (s.reg 3).toNat < 2 ^ 32 ∧ 2 ^ 32 ≤ (s.reg 4).toNat
      ∧ (t.me.strm .v).levels.length = 2 := by
  unfold secLen; decide +kernel

/-- The fields of a TGO that joins V at 0 and X at 63 in a region. -/
def ftgo : FT := ⟨1, 1, 1, 0, 0, 63, 0⟩

theorem wit_TgoStartsStreams : AtIssue atC .c ∧ atC.me.c.live = false ∧ atC.me.lockstep = false
    ∧ ([Strm.c, .v, .x, .s].all fun e => (tgoJoins ftgo e).isNone
        || (!(atC.me.strm e).running && decide ((tgoJoins ftgo e).getD 0 < secLen atC e))) = true
    ∧ inRegion.me.lockstep = true ∧ tgoJoins ⟨0, 0, 1, 0, 0, 64, 0⟩ .x = some 64 ∧ secLen atC .x ≤ 64 := by
  unfold secLen; decide +kernel

theorem wit_MfsReadsRegister : AtIssue atC .c ∧ (0x000, atC.here.ctxno.setWidth 64) ∈ sprTable atC
    ∧ (0x04D, ((0 : BitVec 48) ++ atC.me.trap.tpend ++ (0 : BitVec 7) ++ bit atC.me.trap.act : BitVec 64)) ∈ sprTable atC := by
  unfold sprTable; decide +kernel

theorem wit_MfsOfFlags : AtIssue atC .c ∧ atC.me.lockstep = false := by decide +kernel

theorem wit_MtsWritesRegister : AtIssue atC .c ∧ (∃ g, mtsEffect (.mts ⟨0, 1, 0x002, 0, 0⟩) = some (⟨0, 1, 0x002, 0, 0⟩, g))
    ∧ (∃ g, mtsEffect (.mtsLpbegLpend ⟨0, 1, 0x01A, 0, 0⟩) = some (⟨0, 1, 0x01A, 0, 0⟩, g))
    ∧ atC.me.waits [1] = false ∧ atC.me.c.live = false := ⟨by decide +kernel, ⟨_, rfl⟩, ⟨_, rfl⟩, by decide +kernel⟩

theorem wit_MtsReachesBox : AtIssue atC .c ∧ atC.me.waits [1] = false ∧ atC.me.c.live = false ∧ Rising atC.boxes ∧ atC.here.rank = 0
    ∧ (atC.updTile 0 fun x => { x with rank := 1 }).here.rank ≠ 0 := by decide +kernel

/-! ## Accesses, stores, atomics, fences, barriers -/

/-- The parts of an access that every check admits. -/
def locsOf (a : Access) : List Nat := match a with | .ok l _ => l | _ => []
def leavesOf (a : Access) : List Word := match a with | .ok _ l => l | _ => []
def served (s : State) (va : Word) (n : Nat) (w : Bool) : Access × State := s.access s.myAsid va.toNat n w
def ceased (s : State) (va : Word) (n : Nat) (w : Bool) : State := (served s va n w).2.ceasePages s.myBox (pageBases va.toNat n)

theorem served_of {s : State} {va : Word} {n : Nat} {w : Bool} (h : bits va 57 7 = 0)
    (h2 : (served s va n w).1 = .ok (locsOf (served s va n w).1) (leavesOf (served s va n w).1)) :
    Served s va n w (locsOf (served s va n w).1) (leavesOf (served s va n w).1) (ceased s va n w) :=
  ⟨h, (served s va n w).2, Prod.ext h2 rfl, rfl⟩

/-- Fields of a memory word: s[5] = 0x10008 lies in the absent page, s[1] = 8 in page 0, s[2] = 0x20010 in the tile window. -/
def fcm (sa : Reg) (w : BitVec 2) (q : BitVec 2) (off : BitVec 32) : FCM := ⟨3, sa, w, q, off⟩

theorem wit_AccessesThatStop :
    memoryWord atC (.st (fcm 5 3 0 0)) = some (0x10008, 8, true, [5, 3]) ∧ atC.me.c.live = false ∧ atC.me.waits [5, 3] = false
      ∧ bits (0x10008 : Word) 57 7 = 0 ∧ (served atC 0x10008 8 true).1 = .absent [0x10000]
      ∧ (served atC 0x30000 1 true).1 = .cause 0x42 0x30000 ∧ (served atC 0x60000 1 true).1 = .cause 0x41 0x60000
      ∧ (served atC 0x1FFFFFFFFFFFFFF 2 true).1 = .cause 0x40 0x200000000000000
      ∧ (leavesOf (served atC 0x40000 8 true).1).any lfMv = true ∧ poisoned.me.c.live = true ∧ waiting.me.waits [1, 3] = true := by
  decide +kernel

theorem wit_LoadsPoison : AtIssue atC .c ∧ atC.me.waits [5] = false ∧ atC.here.stores = [] ∧ bits (cmVa atC (fcm 5 3 0 0)) 57 7 = 0
    ∧ (atC.access atC.myAsid (cmVa atC (fcm 5 3 0 0)).toNat 8 false).1 = .absent [0x10000] ∧ atC.me.lockstep = false ∧ atC.me.ckpt = none
    ∧ inRegion.me.lockstep = true ∧ (inRegion.access 1 0x10008 8 false).1 = .absent [0x10000] := by decide +kernel

/-- A load that has not landed, and one with a negative reply. -/
def flying1 : State := atC' fun c =>
  { c with loads := [⟨.load, [(1, 9)], true, none, false, false, []⟩, ⟨.atomic, [(2, 9)], true, some (5, 64), false, false, []⟩] }

theorem wit_ValuesLand : flying1.me.loads[0]? = some ⟨.load, [(1, 9)], true, none, false, false, []⟩
    ∧ flying1.me.loads[1]? = some ⟨.atomic, [(2, 9)], true, some (5, 64), false, false, []⟩ ∧ (flying1.tile 0).box = some 0
    ∧ flying1.tileOf 0 (flying1.tile 0).rank = some 0 := by decide +kernel

/-- A word in flight that is due at beat `b`. -/
def fly (b : Nat) : WordFly := ⟨1, 1, 0, false, 4, 4, b⟩

theorem wit_EngineWordsLand :
    let s := atC' fun c => { c with vec := { c.vec with fly := [fly 11, fly 10] }, spe := { c.spe with fly := [fly 10] }, mat := { c.mat with fly := [fly 4] } }
    s.cur.at_ < 160 ∧ s.me.vec.fly = [fly 11] ++ fly 10 :: [] ∧ s.here.beat < (fly 11).due ∧ (fly 10).due ≤ s.here.beat
      ∧ s.me.spe.fly = fly 10 :: [] ∧ s.me.mat.fly = fly 4 :: [] := by decide +kernel

theorem wit_StoresIssue : AtIssue atC .c ∧ atC.me.c.live = false ∧ atC.me.waits [1, 3] = false
    ∧ Served atC (cmVa atC (fcm 1 3 0 0)) 8 true (locsOf (served atC 8 8 true).1) (leavesOf (served atC 8 8 true).1) (ceased atC 8 8 true)
    ∧ (leavesOf (served atC 8 8 true).1).any lfMv = false :=
  ⟨by decide +kernel, by decide +kernel, by decide +kernel, served_of (by decide +kernel) (by decide +kernel), by decide +kernel⟩

/-- `MidBeat` and `Awaited` as the model computes them. -/
theorem midBeat_iff (x : Tile) : MidBeat x ↔ x.midBeat = true := by
  have h1 : (∃ e y, e < 4 ∧ vget none x.since e = some y ∧ y.seen = x.beat) ↔ x.since.toList.any (fun y => y.any (·.seen == x.beat)) = true := by
    rw [List.any_eq_true]
    constructor
    · rintro ⟨e, y, he, hv, hs⟩
      rw [vget, dif_pos he] at hv
      exact ⟨_, Vector.mem_toList_iff.mpr (Vector.getElem_mem he), by rw [hv]; simpa using hs⟩
    · rintro ⟨o, ho, h⟩
      obtain ⟨e, he, hv⟩ := Vector.mem_iff_getElem.mp (Vector.mem_toList_iff.mp ho)
      cases o with
      | none => simp at h
      | some y => exact ⟨e, y, he, by rw [vget, dif_pos he, hv], by simpa using h⟩
  unfold MidBeat Tile.midBeat
  rw [h1]
  cases x.box <;> cases x.start <;> simp

theorem awaited_iff (s : State) (locs : List Nat) : Awaited s locs ↔ s.held locs = true := by
  unfold Awaited State.held
  rw [Bool.or_eq_true, List.any_eq_true]
  refine or_congr_right ⟨?_, ?_⟩
  · rintro ⟨l, u, off, hl, hp, hm⟩
    exact ⟨l, hl, by simpa only [State.midBeat, hp] using (midBeat_iff _).mp hm⟩
  · rintro ⟨l, hl, hm⟩
    unfold State.midBeat at hm
    split at hm
    · exact ⟨l, _, _, hl, ‹_›, (midBeat_iff _).mpr hm⟩
    · cases hm

/-- Two stores in flight, the first on its own die. -/
def storing : State := atC.updTile 0 fun x => { x with
  stores := [⟨0, 0, [(0x1000008, 7)], false, [], none, none, [0x1000008], Vector.replicate 4 0⟩,
    ⟨0, 0, [(0x2400000000, 7)], false, [1], none, none, [0x2400000000], Vector.replicate 4 0⟩] }

theorem wit_StoresPerform : storing.inv ∧ storing.here.stores = ⟨0, 0, [(0x1000008, 7)], false, [], none, none, [0x1000008], Vector.replicate 4 0⟩
      :: [⟨0, 0, [(0x2400000000, 7)], false, [1], none, none, [0x2400000000], Vector.replicate 4 0⟩] ∧ storing.tileOf 0 0 = some storing.cur.at_ := by
  unfold State.inv; decide +kernel

theorem wit_AtomicsUpdateMemory : (∃ g, atomicOp atC (.amoadd (fcm 2 3 0 0)) = some (fcm 2 3 0 0, false, g)) ∧ atC.inv ∧ AtIssue atC .c
    ∧ atC.me.c.live = false ∧ atC.me.waits (atomicReads (fcm 2 3 0 0) false) = false
    ∧ Served atC (cmVa atC (fcm 2 3 0 0)) 8 true (locsOf (served atC 0x20010 8 true).1) (leavesOf (served atC 0x20010 8 true).1) (ceased atC 0x20010 8 true)
    ∧ (cmVa atC (fcm 2 3 0 0)).toNat % 8 = 0 ∧ (leavesOf (served atC 0x20010 8 true).1).any lfMv = false
    ∧ Clean (ceased atC 0x20010 8 true) (locsOf (served atC 0x20010 8 true).1)
    ∧ (ceased atC 0x20010 8 true).reply 0x20010 (locsOf (served atC 0x20010 8 true).1) true = none
    ∧ (locsOf (served atC 0x20010 8 true).1).Nodup ∧ Clean ((ceased atC 0x20010 8 true).performAll 0) (locsOf (served atC 0x20010 8 true).1) :=
  ⟨⟨_, rfl⟩, by unfold State.inv; decide +kernel, by decide +kernel, by decide +kernel, by decide +kernel,
    served_of (by decide +kernel) (by decide +kernel), by decide +kernel, by decide +kernel, by unfold Clean; decide +kernel, by decide +kernel,
    by decide +kernel, by unfold Clean; decide +kernel⟩

theorem wit_AtomicsThatTrap : (∃ g, atomicOp atC (.amoadd (fcm 1 3 0 1)) = some (fcm 1 3 0 1, false, g)) ∧ atC.me.c.live = false
    ∧ atC.me.waits (atomicReads (fcm 1 3 0 1) true) = false
    ∧ Served atC (cmVa atC (fcm 1 3 0 1)) 8 true (locsOf (served atC 9 8 true).1) (leavesOf (served atC 9 8 true).1) (ceased atC 9 8 true)
    ∧ (cmVa atC (fcm 1 3 0 1)).toNat % 8 ≠ 0 ∧ (∃ g, atomicOp atC (.amocas ⟨15, 1, 3, 0, 0⟩) = some (⟨15, 1, 3, 0, 0⟩, true, g))
    ∧ (cmVa atC ⟨15, 1, 3, 0, 0⟩).toNat % 8 = 0 :=
  ⟨⟨_, rfl⟩, by decide +kernel, by decide +kernel, served_of (by decide +kernel) (by decide +kernel), by decide +kernel, ⟨_, rfl⟩,
    by decide +kernel⟩

theorem wit_FenceWaits : AtIssue atC .c ∧ atC.me.c.live = false ∧ atC.here.stores = [] ∧ atC.me.loads = []
    ∧ (∃ p, p ∈ storing.here.stores ∧ p.box = storing.myBox ∧ p.rank = storing.here.rank)
    ∧ (∃ g, g ∈ flying1.me.loads ∧ g.kind ≠ .word ∧ g.raised = false) ∧ atC.me.waits [1] = false ∧ bits (atC.reg 1) 57 7 = 0
    ∧ (atC.reg 3).toNat % 8 ≠ 0 ∧ (atC.reg 1).toNat % 8 = 0 := by decide +kernel

/-- A list of one entry of 64 bytes at 8 (R244). -/
def fenced : State := { atC with mem := atC.mem.write 0x1000018 64 }

/-- A barrier object at 0x20010 in the tile window, whose ARR is 2. -/
def barrier : State := { atC with mem := ((rangeFrom 0x1000000000010 8).zip (toBytes 8 (2 * 2 ^ 48))).foldl (fun m p => m.write p.1 p.2) atC.mem }

/-- The fields of its barrier words, and the parts of its access. -/
def fbar : FCR := ⟨3, 2, 1, 0, 0⟩
def barLocs (w : Bool) : List Nat := locsOf (served barrier (barrier.reg fbar.sa) 16 w).1
def barLeaves (w : Bool) : List Word := leavesOf (served barrier (barrier.reg fbar.sa) 16 w).1
def barAfter (w : Bool) : State := ceased barrier (barrier.reg fbar.sa) 16 w

theorem homes (w : Bool) : (barLeaves w).all (fun l => lfHome l == 1 || lfHome l == 2) = true := by revert w; decide +kernel

theorem barred (w : Bool) : Barred barrier fbar w (barLocs w) (barLeaves w) (barAfter w) :=
  ⟨served_of (s := barrier) (va := barrier.reg fbar.sa) (by decide +kernel) (by revert w; decide +kernel), by decide +kernel,
    fun l h => by simpa using List.all_eq_true.mp (homes w) l h, by unfold Clean; revert w; decide +kernel⟩

theorem wit_BarrierWords : barrier.inv ∧ AtIssue barrier .c ∧ barrier.me.c.live = false ∧ barrier.me.waits [fbar.sa, fbar.sb, fbar.sc] = false
    ∧ (barLeaves true).any lfMv = false ∧ (barrier.reg fbar.sb).toNat < 2 ^ 48 ∧ (barrier.reg fbar.sc).toNat < 2 ^ 15
    ∧ ¬ (barrier.reg fbar.sb = 0 ∧ barrier.reg fbar.sc = 0) ∧ (barAfter true).reply 0x20010 (barLocs true) true = none
    ∧ (barLocs true).Nodup ∧ (barLocs true).length = 16 ∧ (wordAt (barAfter true) ((barLocs true).take 8)).extractLsb' 48 15 ≠ 0
    ∧ 2 ^ 48 ≤ (barrier.reg 4).toNat := by
  unfold State.inv; decide +kernel

theorem wit_BarrierPhases : (wordAt (barAfter false) ((barLocs false).take 8)).getLsbD 63 = (barrier.reg 1).getLsbD 63
    ∧ (wordAt (barAfter false) ((barLocs false).take 8)).getLsbD 63 ≠ (0x8000000000000000 : Word).getLsbD 63
    ∧ (barLocs false).length = 16 ∧ (barAfter false).reply 0x20010 (barLocs false) true = none := by decide +kernel

theorem wit_JumpsThatTrap : AtIssue atC .c ∧ poisoned.me.c.live = true ∧ waiting.me.c.live = false ∧ waiting.me.waits [1] = true
    ∧ looping.me.c.live = false ∧ ¬ NoLoopEnd looping.me.c looping.cur.idx ∧ looping.me.waits [3] = false ∧ NoLoopEnd atC.me.c atC.cur.idx
    ∧ (cLen atC : Int) ≤ atC.cur.idx + (59 : BitVec 32).toInt ∧ atC.cur.idx + (-6 : BitVec 32).toInt < 0
    ∧ (cLen atC : Int) ≤ (atC.reg 3).toNat + (61 : BitVec 32).toInt ∧ (atC.reg 3).toNat + (-4 : BitVec 32).toInt < 0 := by
  unfold NoLoopEnd cLen; decide +kernel

/-- A body before the word, beyond the section, beyond an active level; a staged copy not written; a count of more than 32 bits. -/
theorem wit_LoopsThatStop :
    let s := atCR fun c => { c with lpact := 1, lpend := vput c.lpend 0 60 }
    waiting.me.waits [1] = true ∧ ¬ NoLoopEnd looping.me.c looping.cur.idx ∧ looping.me.c.lpact.getLsbD 0 = true
      ∧ (vget ⟨false, 0, 0⟩ atC.me.c.lpstg 0).v = false ∧ atC.cur.idx + (0 : Int) ≤ atC.cur.idx ∧ NoLoopEnd atC.me.c atC.cur.idx
      ∧ (cLen atC : Int) ≤ 64 ∧ (63 : Int) < cLen atC ∧ NoLoopEnd s.me.c s.cur.idx ∧ s.me.c.lpact.getLsbD 1 = false
      ∧ s.me.c.lpact.getLsbD 0 = true ∧ ((vget 0 s.me.c.lpend 0).toNat : Int) < 61 ∧ 2 ^ 32 ≤ (atC.reg 4).toNat ∧ atC.me.waits [4] = false
      ∧ poisoned.me.c.live = true ∧ poisoned.me.waits [3] = false ∧ (poisoned.reg 3).toNat < 2 ^ 32 := by
  unfold NoLoopEnd cLen; decide +kernel

/-- A V word with a flag in flight at counted beat 0 of a region, now at 16; another flag set at this beat. -/
theorem wit_FlagsInRegion :
    let s := (inRegion.updTile 0 fun x => { x with cnt := 16 }).updCtx 0 fun c => { c with
      flagNew := 2, sflags := 3, vec := { c.vec with fly := [⟨4, 0, 0, false, 0, 0, 30⟩] } }
    AtIssue s .c ∧ s.me.lockstep = true ∧ s.me.waits [1] = false ∧ s.me.c.live = false ∧ oldFlags s = 4
      ∧ (s.reg 5).setWidth 5 &&& ~~~s.me.flagNew ≠ 0 := by decide +kernel

theorem wit_MtsStops : AtIssue atC .c ∧ poisoned.me.c.live = true ∧ waiting.me.c.live = false ∧ waiting.me.waits [1] = true := by decide +kernel

theorem wit_AtomicsStop : memoryWord atC (.amoadd (fcm 5 3 0 0)) = some (0x10008, 8, true, [5, 3])
    ∧ AtomicFits (.amoadd (fcm 5 3 0 0)) 0x10008 8 ∧ ¬ AtomicFits (.amoadd (fcm 5 3 0 1)) 0x10009 8
    ∧ memoryWord atC (.amocas ⟨15, 5, 3, 0, 0⟩) = some (0x10008, 8, true, [5, 15, 16]) ∧ ¬ AtomicFits (.amocas ⟨15, 5, 3, 0, 0⟩) 0x10008 8
    ∧ AtomicFits (.amocas ⟨14, 5, 3, 0, 0⟩) 0x10008 8 := by
  refine ⟨by decide +kernel, ⟨by decide, fun f h => by cases h⟩, fun h => absurd h.1 (by decide), by decide +kernel,
    fun h => absurd rfl (h.2 _ rfl).2.1, ⟨by decide, fun f h => by cases h; decide⟩⟩

/-- That package with the leaf of page 7, which has a reserved bit set. -/
def unsound : State := { space with mem := ((rangeFrom 0x20038 8).zip (toBytes 8 0xC818001000000105)).foldl (fun m p => m.write p.1 p.2) space.mem }

theorem sound_of {l : Word} {p : Place} (a : bits l 36 12 = 0 ∧ (lfHome l = 2 ∨ lfSlice l = 0) ∧ (lfHome l = 1 → lfTier l = 0))
    (b : match p with | .window _ _ => lfTier l = 0 | .hbm _ => lfTier l = 1 | .loft => lfTier l = 2 | _ => False)
    (h : placeOf (lfPfn l * 65536) = p) : Sound l := by
  subst h; exact ⟨a.1, a.2.1, a.2.2, .inr b⟩

/-- Pages 0 to 4 of that table lead to sound leaves, which differ in an attribute, are read-only or absent; page 6 leads nowhere. -/
theorem wit_TranslationMeets : Leads unsound 1 0 0xC818000000000100 ∧ Sound 0xC818000000000100 ∧ Leads unsound 1 1 0xD818000000000000
    ∧ Sound 0xD818000000000000 ∧ lfTier 0xD818000000000000 = 3 ∧ Leads unsound 1 2 0xA018000100000000 ∧ Sound 0xA018000100000000
    ∧ lfTier 0xD818000000000000 ≠ lfTier 0xA018000100000000 ∧ Leads unsound 1 3 0xC800000000000103 ∧ Sound 0xC800000000000103
    ∧ lfW 0xC800000000000103 = false ∧ lfW 0xC818000000000100 = true ∧ Leads unsound 1 7 0xC818001000000105 ∧ ¬ Sound 0xC818001000000105
    ∧ (∀ l, ¬ Leads unsound 1 6 l) ∧ unsound.tcache = [] := by
  refine ⟨by unfold Leads; decide +kernel, sound_of (p := .hbm 0) (by decide) (by decide) (by decide +kernel), by unfold Leads; decide +kernel,
    ⟨by decide, by decide, by decide, .inl rfl⟩, by decide, by unfold Leads; decide +kernel, sound_of (p := .window 0 0) (by decide) (by decide) (by decide +kernel),
    by decide, by unfold Leads; decide +kernel, sound_of (p := .hbm 0) (by decide) (by decide) (by decide +kernel), by decide, by decide,
    by unfold Leads; decide +kernel, fun h => absurd h.1 (by decide), ?_, by decide +kernel⟩
  rintro l ⟨_, _, _, _, _, h, h2, _⟩
  subst h
  revert h2
  decide +kernel

theorem wit_LoadsDeliverMemory : AtIssue atC .c ∧ atC.me.waits [1] = false
    ∧ Served atC (cmVa atC (fcm 1 3 0 0)) 8 false (rangeFrom 0x1000008 8) [0xC818000000000100] (ceased atC 8 8 false)
    ∧ Clean (ceased atC 8 8 false) (rangeFrom 0x1000008 8) ∧ Room (ceased atC 8 8 false) 1 0 0 :=
  ⟨by decide +kernel, by decide +kernel, ⟨by decide +kernel, (served atC 8 8 false).2, Prod.ext (by decide +kernel) rfl, rfl⟩,
    by unfold Clean; decide +kernel, by unfold Room; decide +kernel⟩

/-- A .fc load of a full granule of the tile window. -/
theorem wit_LoadsEmpty :
    let s := atC.updTile 0 fun x => { x with full := [1] }
    let l := locsOf (served s 0x20010 8 false).1
    let z := (ceased s 0x20010 8 false).performOwn l
    Served s (cmVa s (fcm 2 3 3 0)) 8 false l (leavesOf (served s 0x20010 8 false).1) (ceased s 0x20010 8 false) ∧ Room z 1 0 0
      ∧ Clean (ceased s 0x20010 8 false) l ∧ l = rangeFrom 0x1000000000010 8 ∧ ∀ a, a ∈ l → z.emptyAt a = false :=
  ⟨served_of (by decide +kernel) (by decide +kernel), by unfold Room; decide +kernel, by unfold Clean; decide +kernel, by decide +kernel, by decide +kernel⟩

theorem wit_ConsumingLoads :
    let p : PendStore := ⟨0, 0, [(0x1000008, 7)], false, [], none, none, [0x1000008], Vector.replicate 4 0⟩
    let r : PendStore := ⟨0, 0, [(0x2400000000, 7)], false, [1], none, none, [0x2400000000], Vector.replicate 4 0⟩
    storing.here.stores = [] ++ p :: [r] ∧ storing.here.box = some p.box ∧ p.rank = storing.here.rank ∧ (∃ q, q ∈ p.bytes ∧ q.1 ∈ [0x1000008])
      ∧ (∀ q, q ∈ r.bytes → q.1 ∉ [0x1000008]) ∧ (∀ q, q ∈ storing.here.stores → storing.srHeld q.locs = false ∧ q.nack = none) := by decide +kernel

/-- No store of another tile is in flight there, so none is named. -/
theorem wit_NoneNamed : storing.cur.at_ < 160
    ∧ ∀ p u q, p ∈ storing.here.stores → u < 160 → u ≠ storing.cur.at_ → q ∈ (storing.tile u).stores → ¬ Names p.stamp p.cross u q := by
  refine ⟨by decide +kernel, fun p u q _ hu h0 hq => ?_⟩
  have h : ∀ u, u < 160 → u ≠ storing.cur.at_ → (storing.tile u).stores = [] := by decide +kernel
  rw [h u hu h0] at hq
  cases hq

theorem wit_PoisonRecords : atC.inv ∧ atC.myBox < 65536 ∧ (inRegion.access inRegion.myAsid 0x10008 8 false).1 = .absent [0x10000] := by
  unfold State.inv; decide +kernel

/-- A load whose stack is in forced self-refresh. -/
def heldLoad : State := (atC' fun c => { c with loads := [⟨.load, [(1, 9)], true, none, false, false, [0x1000008]⟩] }).updStack 0 1 fun x =>
  { x with sr := true }

theorem wit_ValuesHeld : heldLoad.me.loads[0]? = some ⟨.load, [(1, 9)], true, none, false, false, [0x1000008]⟩ ∧ heldLoad.srHeld [0x1000008] = true
    ∧ flying1.srHeld [] = false := by decide +kernel

theorem wit_RoomToStore : Room atC 0 1 0 := by unfold Room; decide +kernel

/-- A store held off by its stack, one through the window of its tile in mid beat, and one that an earlier write to its die precedes. -/
theorem wit_StoresWait :
    let p : PendStore := ⟨0, 0, [(0x1000000000010, 7)], false, [], none, none, [0x1000000000010], Vector.replicate 4 0⟩
    let q : PendStore := ⟨0, 0, [(0x2400000000, 7)], false, [1], none, none, [0x2400000000], #v[1, 0, 0, 0]⟩
    let r : PendStore := { q with stamp := Vector.replicate 4 0 }
    (storing.updStack 0 1 fun x => { x with sr := true }).srHeld [0x1000008] = true
      ∧ (let s := atC.updTile 0 fun x => { x with issued := 1, stores := [p] }
         s.here.issued ≠ 0 ∧ placeOf 0x1000000000010 = .window s.cur.at_ 0x10 ∧ s.tileOf 0 0 = some 0)
      ∧ (let s := (atC.updTile 0 fun x => { x with stores := [q] }).updTile 1 fun x => { x with stores := [r] }
         s.here.stores = [q] ∧ r ∈ (s.tile 1).stores ∧ Names q.stamp q.cross 1 r ∧ s.srHeld q.locs = false)
      ∧ (let s := atC.updTile 0 fun x => { x with issued := 1, stores := [p] }; s.here.midBeat = true)
      ∧ storing.here.issued = 0 ∧ storing.here.midBeat = false ∧ storing.srHeld [0x1000008] = false
      ∧ (∀ u, u < 160 → u ≠ 0 → (storing.tile u).stores = []) := by
  unfold Names; decide +kernel

theorem wit_AtomicRooms :
    let l := locsOf (served atC 0x20010 8 true).1
    let z := ((ceased atC 0x20010 8 true).performAll 0).crossLines 0 (leavesOf (served atC 0x20010 8 true).1) l
    Clean z l ∧ Room z 1 1 0 := by
  unfold Clean Room; decide +kernel

/-- A FENCE at FABRIC in its release part, and one that is not; and bytes that peers do not see yet, of this rank and of another. -/
theorem wit_FencesAtFabric :
    let f : FCS := ⟨0, 0, 0, 2, 4⟩
    let g : FCS := ⟨0, 0, 0, 2, 3⟩
    let s := { atC with unseen := [⟨0x1000008, 7, some (0, 0)⟩, ⟨0x1000010, 7, some (0, 1)⟩] }
    (f.q.getLsbD 1 = true ∧ bits f.imm 0 3 = 4) ∧ ¬ (g.q.getLsbD 1 = true ∧ bits g.imm 0 3 = 4) ∧ AtIssue s .c ∧ s.me.c.live = false ∧ f.sa = 0
      ∧ s.here.stores = [] ∧ s.me.loads = [] ∧ (s.myBox, s.here.rank) = (0, 0) ∧ ({ f with sa := 1 } : FCS).sa ≠ 0 := by decide +kernel

/-- What a word of a list that can be read leaves. -/
def listRead (s : State) (va : Word) : State := (ceased s va 8 false).touch (ceased s va 8 false).myAsid false (pagesOf va.toNat 8)

theorem fence_reads {n : Nat} {va : Word} {s t : State} {r : List Byte} (h0 : bits va 57 7 = 0)
    (h1 : (served s va 8 false).1 = .ok (locsOf (served s va 8 false).1) (leavesOf (served s va 8 false).1))
    (h2 : (ceased s va 8 false).ces = [] ∧ (ceased s va 8 false).ues = [])
    (h3 : (ceased s va 8 false).reply va.toNat (locsOf (served s va 8 false).1) true = none)
    (h4 : FenceReads n (va + 8) (listRead s va) r t) :
    FenceReads (n + 1) va s ((locsOf (served s va 8 false).1).map ((ceased s va 8 false).ownByte s.cur.at_ ·) ++ r) t :=
  ⟨_, _, _, _, served_of h0 h1, fun l _ => ⟨by rw [h2.1]; exact List.not_mem_nil, by rw [h2.2]; exact List.not_mem_nil⟩, h3, rfl, h4⟩

theorem wit_FenceList : (atC.reg 1).toNat % 8 = 0 ∧ (atC.reg 3).toNat % 8 ≠ 0
    ∧ ∃ head s1 body s2, FenceReads 1 8 fenced head s1 ∧ ofBytes head = 0 ∧ FenceReads 2 16 s1 body s2 ∧ RegionList 0 body
      ∧ ¬ RegionList 16 body := by
  refine ⟨by decide +kernel, by decide +kernel, _, _, _, _,
    fence_reads (by decide +kernel) (by decide +kernel) (by decide +kernel) (by decide +kernel) ⟨rfl, rfl⟩, by decide +kernel,
    fence_reads (by decide +kernel) (by decide +kernel) (by decide +kernel) (by decide +kernel)
      (fence_reads (by decide +kernel) (by decide +kernel) (by decide +kernel) (by decide +kernel) ⟨rfl, rfl⟩), ⟨by decide, fun i h => ?_⟩,
    fun h => absurd h.1 (by decide)⟩
  obtain rfl : i = 0 := by omega
  decide +kernel

theorem wit_BarrierRooms :
    let z := fun w => (barAfter w).performOwn (barLocs w)
    let z1 := (z true).crossLines 0 (barLeaves true) ((barLocs true).take 8)
    (∀ w, Room (z w) 1 1 0 ∧ (z w).reply 0x20010 (barLocs w) true = none) ∧ (wordAt z1 ((barLocs true).take 8)).extractLsb' 48 15 ≠ 0
      ∧ (BitVec.ofNat 64 (ofBytes (((barLocs false).take 8).map (z false).seen))).getLsbD 63 = (barrier.reg 1).getLsbD 63
      ∧ (BitVec.ofNat 64 (ofBytes (((barLocs false).take 8).map (z false).seen))).getLsbD 63 ≠ (0x8000000000000000 : Word).getLsbD 63 := by
  unfold Room; decide +kernel

/-- The object with ARR = 0, at which an arrival makes BAR_OVERFLOW pending. -/
def spent : State := { atC with mem := ((rangeFrom 0x1000000000010 8).zip (toBytes 8 7)).foldl (fun m p => m.write p.1 p.2) atC.mem }

theorem wit_BarrierOverflows :
    let l := locsOf (served spent 0x20010 16 true).1
    let s' := ceased spent 0x20010 16 true
    let z1 := (s'.performOwn l).crossLines 0 (leavesOf (served spent 0x20010 16 true).1) (l.take 8)
    Barred spent fbar true l (leavesOf (served spent 0x20010 16 true).1) s' ∧ spent.inv ∧ AtIssue spent .c ∧ spent.me.c.live = false
      ∧ spent.me.waits [fbar.sa, fbar.sb, fbar.sc] = false ∧ Room (s'.performOwn l) 1 1 0 ∧ (s'.performOwn l).reply 0x20010 l true = none ∧ l.Nodup
      ∧ l.length = 16 ∧ (wordAt z1 (l.take 8)).extractLsb' 48 15 = 0 ∧ spent.tileOf spent.myBox spent.here.rank = some spent.cur.at_ := by
  refine ⟨⟨served_of (s := spent) (va := spent.reg fbar.sa) (by decide +kernel) (by decide +kernel), by decide +kernel, fun l h => ?_,
    by unfold Clean; decide +kernel⟩, by unfold State.inv; decide +kernel, by decide +kernel, by decide +kernel, by decide +kernel,
    by unfold Room; decide +kernel, by decide +kernel, by decide +kernel, by decide +kernel, by decide +kernel, by decide +kernel⟩
  have h1 : (leavesOf (served spent 0x20010 16 true).1).all (fun l => lfHome l == 1 || lfHome l == 2) = true := by decide +kernel
  simpa using List.all_eq_true.mp h1 l h

/-! ## Traps, context words, queues, selection words -/

theorem raises_tret : Raises (.tret ⟨0, 0, 0, 0⟩) handled 0x09 0 ∧ Raises (.tret ⟨0, 0, 0, 0⟩) atC 0x09 0 := ⟨rfl, rfl⟩

theorem wit_PreciseTrapEntry : handled.cur.at_ < 160 ∧ Raises (.tret ⟨0, 0, 0, 0⟩) handled 0x09 0 ∧ handled.me.c.live = false
    ∧ handled.me.trap.act = false ∧ Usable handled :=
  ⟨by decide +kernel, raises_tret.1, by decide +kernel, by decide +kernel, by unfold Usable cLen; decide +kernel⟩

theorem wit_UnhandledTrapHalts : atC.inv ∧ TeamAtIssue atC 0 ∧ Raises (.tret ⟨0, 0, 0, 0⟩) atC 0x09 0 ∧ atC.me.c.live = false ∧ ¬ Usable atC
    ∧ poisoned.me.c.live = true :=
  ⟨by unfold State.inv; decide +kernel, by unfold TeamAtIssue; decide +kernel, raises_tret.2, by decide +kernel,
    by unfold Usable; decide +kernel, by decide +kernel⟩

/-- HBM_UE alone is pending, and both it and the lowest cause. -/
def pendingCause (t : BitVec 8) : State := handled.updCtx 0 fun c => { c with trap := { c.trap with tpend := t } }

theorem wit_AsyncCauseDelivered : (pendingCause 0x81).here.box.isSome = true ∧ (pendingCause 0x81).me.done = false
    ∧ (pendingCause 0x81).me.trap.tpend.getLsbD 0 = true ∧ (pendingCause 0x80).me.trap.tpend.getLsbD 7 = true
    ∧ (∀ j, j < 7 → (pendingCause 0x80).me.trap.tpend.getLsbD j = false) ∧ (pendingCause 0x80).me.trap.act = false
    ∧ (pendingCause 0x80).me.c.live = false ∧ (pendingCause 0x80).here.issued = 0
    ∧ (pendingCause 0x80).here.holdAll ≤ (pendingCause 0x80).here.beat ∧ Usable (pendingCause 0x80) ∧ handled.me.trap.tpend = 0 := by
  unfold Usable cLen; decide +kernel

theorem wit_TrapWordsRaise : AtIssue atC .c ∧ atC.me.c.live = false ∧ atC.me.waits [1] = false ∧ atC.reg 1 ≠ 0 ∧ atC.reg 6 = 0
    ∧ atC.me.trap.act = false ∧ inRegion.me.lockstep = true ∧ poisoned.me.c.live = true := by decide +kernel

/-- In a handler that a cause of word 5 of C, of V or an asynchronous one entered. -/
def inHandler (cause : Word) : State := atC' fun c => { c with trap := { c.trap with act := true, tcause := cause, faultpc := 5 } }

theorem wit_TretResumes : AtIssue (inHandler 0x5000008) .c ∧ (inHandler 0x5000008).me.c.live = false ∧ (inHandler 0x5000008).me.trap.act = true
    ∧ (inHandler 0x5000008).me.trap.tcause.getLsbD 10 = false ∧ (inHandler 0x5000008).me.trap.tcause.extractLsb' 8 2 = 0
    ∧ ((inHandler 0x5000108).me.trap.tcause.extractLsb' 8 2).toNat = Strm.v.num
    ∧ (inHandler 0x4C0).me.trap.tcause.getLsbD 10 = true := by decide +kernel

theorem wit_ContextWords : atC.inv ∧ AtIssue atC .c ∧ TeamAtIssue atC 0 ∧ atC.me.c.live = false ∧ atC.me.lockstep = false
    ∧ NoLoopEnd atC.me.c atC.cur.idx ∧ atC.me.waits [1, 2] = false ∧ ¬ NoLoopEnd looping.me.c looping.cur.idx
    ∧ looping.me.c.live = false ∧ looping.me.lockstep = false ∧ inRegion.me.c.live = false := by
  unfold State.inv TeamAtIssue NoLoopEnd; decide +kernel

/-- With an event of the mask pending, without one, and the masks that CXPARK refuses. -/
theorem wit_CxparkParks : (let y := armed atC 8 0 false { runBox with evpend := 8 }; y.evpend &&& y.evmask ≠ 0)
    ∧ (let y := armed atC 8 0 false runBox; y.evpend &&& y.evmask = 0) ∧ ¬ (2 ^ 32 ≤ (atC.reg 1).toNat ∨ (atC.reg 1 = 0 ∧ (true = false)))
    ∧ 2 ^ 32 ≤ (atC.reg 4).toNat ∧ atC.reg 6 = 0 := by decide +kernel

/-- A launch of the first block, and a launch block. -/
def aLaunch : Launch := ⟨0, some 0, 0x11, 0, 0, 1, 0, 0, 0, false, [], true, none, none, [], false, 0, 1⟩

/-- A second box, READY and never run, whose lease lies beside the first. -/
def twoBoxes : State := { atC with boxes := [(0, runBox), (1, { Box.reset with
  state := .ready, asid := 1, imgsize := 16, lbase := 16, lsize := 16, rcb := 0x40, queue := [aLaunch] })] }

theorem leases_apart (s : State) (a : Nat) (h : s.boxes = twoBoxes.boxes) (ha : a = 1) :
    ∀ o, o ≠ a → leasesMeet (s.box a) (s.box o) = false := by
  subst ha
  intro o ho
  simp only [State.box, h, twoBoxes, sget, leasesMeet]
  by_cases h0 : 0 = o
  · subst h0; decide
  · rw [if_neg h0, if_neg (Ne.symm ho)]; decide

theorem wit_CxswHandsTilesOver : twoBoxes.inv ∧ AtIssue twoBoxes .c ∧ TeamAtIssue twoBoxes 0 ∧ twoBoxes.me.c.live = false
    ∧ twoBoxes.me.lockstep = false ∧ NoLoopEnd twoBoxes.me.c twoBoxes.cur.idx ∧ twoBoxes.cxChoice = some 1 ∧ atC.cxChoice = none
    ∧ twoBoxes.cxTarget 1 = true ∧ twoBoxes.cxTarget 3 = false ∧ (∀ o, o ≠ 1 → leasesMeet (twoBoxes.box 1) (twoBoxes.box o) = false)
    ∧ (twoBoxes.box 1).live = false ∧ (twoBoxes.box 1).img = false := by
  refine ⟨by unfold State.inv; decide +kernel, by decide +kernel, by unfold TeamAtIssue; decide +kernel, by decide +kernel, by decide +kernel,
    by unfold NoLoopEnd; decide +kernel, by decide +kernel, by decide +kernel, by decide +kernel, by decide +kernel,
    leases_apart twoBoxes 1 rfl rfl, by decide +kernel, by decide +kernel⟩

/-- A die with a notification ring of 16 records at 0x20000. -/
def ringed : State := atC.updDie 0 fun d => { d with nring := ⟨0x20000, 4, 0, 0, 0⟩ }

/-- Address space 0 and 1 share the table, so that the ring's page is the tile window; a ring in the page under move waits, and one
in the absent page cannot be written. -/
theorem wit_SyscNotifies : AtIssue ringed .c ∧ ringed.me.c.live = false ∧ ringed.me.lockstep = false ∧ ringed.me.waits [1] = false
    ∧ ringed.here.stores = [] ∧ 4 ≤ (ringed.die 0).nring.log.toNat ∧ (ringed.die 0).nring.base.toNat % 4096 = 0
    ∧ ((ringed.die 0).nring.prod - (ringed.die 0).nring.cons).toNat ≠ 2 ^ (ringed.die 0).nring.log.toNat
    ∧ ringed.writeWaits 0 0x20000 32 = false ∧ (ringed.writeFrom 0 0 0x20000 (List.replicate 32 1)).isSome = true
    ∧ ringed.writeWaits 0 0x40000 32 = true ∧ (ringed.writeFrom 0 0 0x10000 (List.replicate 32 1)) = none
    ∧ (∃ p, p ∈ storing.here.stores ∧ p.box = storing.myBox ∧ p.rank = storing.here.rank) := by decide +kernel

/-- Chain 1 bound with a ring of 16 at 0x1000, `n` commands waiting; pair 2 bound to pair 3 of the same box, a message held. -/
def bound (n : Nat) : State := (atC.updChain 0 1 fun _ => { Chain.reset with v := true, base := 0x1000, tail := BitVec.ofNat 32 n, qmin := 4, qcap := 16 }).updBox 0
  fun x => { x with pairs := vput (vput x.pairs 2 ⟨true, 0xFFFFFFFF, 1, 0, 3, 1, 2, [⟨5, 6, 1⟩], []⟩) 3 ⟨true, 1, 1, 0, 2, 1, 2, [], []⟩ }

theorem wit_CommandsArePublished : (bound 0).inv ∧ AtIssue (bound 0) .c ∧ (bound 0).me.c.live = false ∧ ((bound 0).chain 0 1).v = true
    ∧ ((bound 0).chain 0 0).v = false ∧ (bound 0).me.waits [1] = false ∧ ((bound 0).reg 1).toNat ≤ 16 ∧ 16 < ((bound 0).reg 2).toNat
    ∧ (((bound 8).chain 0 1).tail - ((bound 8).chain 0 1).head).toNat + 8 ≤ 16 ∧ 16 < (((bound 9).chain 0 1).tail - ((bound 9).chain 0 1).head).toNat + 8
    ∧ bits ((bound 0).reg 4) 57 7 ≠ 0 ∧ ((bound 0).reg 1).toNat % 64 ≠ 0 := by
  unfold State.inv; decide +kernel

/-- CEAPP copies 64 bytes at 0 into the slot at 0x1000. -/
theorem wit_CeappCopies :
    let a := served (bound 0) 0 64 false
    let b := served (bound 0) 0x1000 64 true
    a.1 = .ok (locsOf a.1) (leavesOf a.1) ∧ b.1 = .ok (locsOf b.1) (leavesOf b.1) ∧ (leavesOf b.1).any lfMv = false
      ∧ (bound 0).reply 0 (locsOf a.1) true = none ∧ (bound 0).reply 0x1000 (locsOf b.1) false = none
      ∧ (bound 0).ces = [] ∧ (bound 0).ues = [] := by decide +kernel

/-- Commands that an engine fetched in the team's present beat leave no room for its words: 8 wait there, and 8 were fetched. -/
theorem wit_FetchesOfTheBeat :
    let s := (bound 8).updChain 0 1 fun x => { x with fetches := List.replicate 8 10 ++ [9] }
    ((s.chain 0 1).tail - (s.chain 0 1).head).toNat + ((s.chain 0 1).fetches.filter fun k => decide (s.here.beat - s.here.base ≤ k)).length = 16
      ∧ s.here.beat - s.here.base = 10 ∧ s.inv ∧ AtIssue s .c ∧ (s.chain 0 1).v = true ∧ s.me.waits [1] = false := by
  unfold State.inv; decide +kernel

theorem wit_Messages : (bound 0).inv ∧ ((bound 0).pair 0 2).v = true ∧ ((bound 0).pair 0 0).v = false ∧ (bound 0).me.waits [1, 2] = false
    ∧ (bound 0).here.stores = [] ∧ Takes 4096 ((bound 0).pair 0 3).queue ((bound 0).otherPairs 0 3)
    ∧ ¬ Takes 4096 ⟨1, 2, 2⟩ ((bound 0).otherPairs 0 3) ∧ ((bound 0).pair 0 2).held.find? (fun m => m.seq = ((bound 0).pair 0 2).rseq) = some ⟨5, 6, 1⟩
    ∧ ((bound 0).pair 0 3).held = [] := by
  unfold State.inv Takes; decide +kernel

/-- A selection command at 64 and its result word at 8. -/
def selecting : State := atCR fun c => { c with s := vput (vput c.s 1 64) 2 8 }

theorem slServed {s : State} {f : FCR} {n : Nat} (h1 : (s.reg f.sa).toNat % n = 0) (h0 : bits (s.reg f.sa) 57 7 = 0)
    (h2 : (served s (s.reg f.sa) n false).1 = .ok (locsOf (served s (s.reg f.sa) n false).1) (leavesOf (served s (s.reg f.sa) n false).1))
    (h3 : (ceased s (s.reg f.sa) n false).ces = []) (h4 : (ceased s (s.reg f.sa) n false).ues = [])
    (h5 : (ceased s (s.reg f.sa) n false).reply (s.reg f.sa).toNat (locsOf (served s (s.reg f.sa) n false).1) true = none) :
    SlServed s f n (locsOf (served s (s.reg f.sa) n false).1) ((ceased s (s.reg f.sa) n false).touch s.myAsid false (pagesOf (s.reg f.sa).toNat n)) :=
  ⟨_, _, h1, served_of h0 h2, fun l _ => ⟨by rw [h3]; exact List.not_mem_nil, by rw [h4]; exact List.not_mem_nil⟩, h5, rfl⟩

def fsl (sa : Reg) (q : BitVec 6) : FCR := ⟨3, sa, 0, 0, q⟩

theorem wit_SelectionWords : selecting.inv ∧ AtIssue selecting .c ∧ selecting.me.c.live = false ∧ selecting.me.waits [1] = false
    ∧ selecting.me.waits [2] = false ∧ selecting.myBox < 65536 ∧ (∃ l s', SlServed selecting (fsl 1 5) 64 l s') ∧ (∃ l s', SlServed selecting (fsl 2 0) 8 l s')
    ∧ ((fsl 1 5).q.extractLsb' 0 3).toNat < 6 ∧ (atC.reg 3).toNat % 8 ≠ 0 ∧ 64 ≤ (selecting.reg 1).toNat ∧ (selecting.reg 2).toNat < 64
    ∧ unitCmds selecting 0 8 = 0
    ∧ unitCmds (selecting.updDie 0 fun d => { d with units := vput d.units 3 [⟨0, 0, 1⟩, ⟨7, 0, 1⟩] }) 0 8 = 1 :=
  ⟨by unfold State.inv; decide +kernel, by decide +kernel, by decide +kernel, by decide +kernel, by decide +kernel, by decide +kernel,
    ⟨_, _, slServed (by decide +kernel) (by decide +kernel) (by decide +kernel) (by decide +kernel) (by decide +kernel) (by decide +kernel)⟩,
    ⟨_, _, slServed (by decide +kernel) (by decide +kernel) (by decide +kernel) (by decide +kernel) (by decide +kernel) (by decide +kernel)⟩,
    by decide +kernel, by decide +kernel, by decide +kernel, by decide +kernel, by decide +kernel, by decide +kernel⟩

theorem wit_AddressRange : bits (atC.reg 4) 57 7 ≠ 0 ∧ bits (atC.reg 4 + (0xFFFFFFFF : BitVec 32).signExtend 64) 57 7 = 0 ∧ (4 : Reg) ≠ 0
    ∧ atC.me.c.live = false ∧ atC.me.waits [4] = false ∧ (2 ^ 57 - 1 : Nat) < 2 ^ 57 ∧ 2 ^ 57 < (2 ^ 57 - 1) + 2
    ∧ ((bound 0).chain (bound 0).myBox 1).v = true ∧ (bound 0).me.c.live = false ∧ (bound 0).me.waits [4] = false
    ∧ bits ((bound 0).reg 4) 57 7 ≠ 0 := by decide +kernel

/-- A CXSW has handed tile 0 to box 1, which has never run. -/
def handedOver : State := { (twoBoxes.updTile 0 fun x => { x with box := none }) with boxes := [(0, { runBox with state := .ready, live := false, tiles := [] }),
  (1, { twoBoxes.box 1 with handed := some ([0], true) })] }

theorem wit_HandedTiles : handedOver.inv ∧ (handedOver.box 1).handed = some ([0], true) ∧ handedOver.startable 1 = true
    ∧ ({ handedOver with boxes := [(1, { handedOver.box 1 with stopping := true })] } : State).startable 1 = false
    ∧ (∀ o, o ≠ 1 → leasesMeet (handedOver.box 1) (handedOver.box o) = false) ∧ (∀ u, u ∈ [0] → (handedOver.tile u).box = none)
    ∧ (handedOver.box 1).live = false ∧ (handedOver.box 1).img = false := by
  refine ⟨by unfold State.inv; decide +kernel, by decide +kernel, by decide +kernel, by decide +kernel, ?_, by decide +kernel, by decide +kernel,
    by decide +kernel⟩
  intro o ho
  by_cases h0 : o = 0
  · subst h0; decide +kernel
  · have h : handedOver.box o = Box.reset := by
      simp only [State.box, handedOver, sget]
      rw [if_neg (Ne.symm h0), if_neg (Ne.symm ho)]
    rw [h]
    decide +kernel

/-! ## Engine words -/

/-- Queue `r` holds two entries of format `r`, ready from beat 5 on. -/
def filledV : VState := { VState.reset with q := Vector.ofFn fun (i : Fin 32) => [⟨BitVec.ofNat 4 i, 0, 5⟩, ⟨BitVec.ofNat 4 i, 1, 5⟩] }

/-- A V word at issue with filled queues. -/
def atV : State := (atE .v).updCtx 0 fun c => { c with vec := filledV }

theorem reads_some {α : Type} {x : Except α (List Entry × VState)} {n : Nat} (h : x.toOption.any (fun r => r.1.length == n) = true) :
    ∃ es v, x = .ok (es, v) ∧ es.length = n := by
  cases x with
  | error e => simp [Except.toOption] at h
  | ok r => exact ⟨r.1, r.2, rfl, by simpa [Except.toOption] using h⟩

theorem reads_one {α : Type} {x : Except α (List Entry × VState)} (h : x.toOption.any (fun r => r.1.length == 1) = true) :
    ∃ e v, x = .ok ([e], v) := by
  obtain ⟨es, v, h1, h2⟩ := reads_some h
  obtain ⟨e, rfl⟩ := List.length_eq_one_iff.mp h2
  exact ⟨e, v, h1⟩

/-- Fields of a V word on register `r` in its format, with mask 1. -/
def fvr (vd r : Reg) : FVR := ⟨vd, r, r, 0, 1, 1, BitVec.ofNat 4 r.toNat, 0, 0, 0, 0, 0, 0⟩
def fvi (vd r : Reg) (imm : BitVec 16) : FVI := ⟨vd, r, imm, 1, 1, BitVec.ofNat 4 r.toNat, 0, 0, 0, 0⟩

theorem wit_VectorReads :
    let v : VState := { filledV with byp := #v[some ⟨true, false, 2, ⟨1, 7, 0⟩⟩, some ⟨true, true, 2, ⟨1, 8, 0⟩⟩, none], lost := 8, q := vput filledV.q 4 [] }
    (∃ b, vget none v.byp 0 = some b ∧ b.t = true ∧ b.used = false ∧ b.reg = 2) ∧ v.lost.getLsbD 3 = true ∧ vget [] v.q 4 = []
      ∧ (vget [] v.q 5).length = 2 ∧ v.lost.getLsbD 5 = false
      ∧ (∃ n g, laneOp (.vadd (fvr 0 1)) = some (fvr 0 1, n, 3, g)) ∧ (∃ g, immOp (.vaddi (fvi 0 1 0)) = some (fvi 0 1 0, true, 3, g))
      ∧ VReady atV (vrSrc (fvr 0 1) 2) (maskOfWord 1 1) []
      ∧ ¬ VReady (atV.updCtx 0 fun c => { c with vec := { c.vec with mReady := vput c.vec.mReady 1 11 } }) [] [1] [] :=
  ⟨⟨_, rfl, rfl, rfl, rfl⟩, by decide +kernel, by decide +kernel, by decide +kernel, by decide +kernel, ⟨_, _, rfl⟩, ⟨_, rfl⟩,
    by unfold VReady; decide +kernel, by unfold VReady; decide +kernel⟩

theorem wit_VectorElementwise : AtIssue atV .v
    ∧ (∃ n g, laneOp (.vsll (fvr 0 10)) = some (fvr 0 10, n, 2, g)) ∧ (10 : BitVec 4).toNat < 13 ∧ fmtI 10 = true
    ∧ VReady atV (vrSrc (fvr 0 10) 2) (maskOfWord 1 1) [] ∧ (∃ es v, readAll atV.me.vec (vrSrc (fvr 0 10) 2) = .ok (es, v) ∧ es.length = 2)
    ∧ (∃ g, immOp (.vslli (fvi 0 8 7)) = some (fvi 0 8 7, true, 2, g)) ∧ VReady atV [⟨8, 0, tagOf 8⟩] (maskOfWord 1 1) []
    ∧ (∃ es v, readAll atV.me.vec [⟨8, 0, tagOf 8⟩] = .ok (es, v) ∧ es.length = 1) :=
  ⟨by decide +kernel, ⟨_, _, rfl⟩, by decide +kernel, by decide +kernel, by unfold VReady; decide +kernel, reads_some (by decide +kernel), ⟨_, rfl⟩,
    by unfold VReady; decide +kernel, reads_some (by decide +kernel)⟩

theorem wit_VectorMoves : AtIssue atV .v ∧ (fvr 0 12).fmt.toNat < 13 ∧ VReady atV (vrSrc (fvr 0 12) 2) [] [] ∧ VReady atV (vrSrc (fvr 0 12) 1) (maskOfWord 1 1) []
    ∧ (∃ es v, readAll atV.me.vec (vrSrc (fvr 0 12) 2) = .ok (es, v) ∧ es.length = 2) ∧ (∃ e v, readAll atV.me.vec (vrSrc (fvr 0 12) 1) = .ok ([e], v)) :=
  ⟨by decide +kernel, by decide +kernel, by unfold VReady; decide +kernel, by unfold VReady; decide +kernel, reads_some (by decide +kernel),
    reads_one (by decide +kernel)⟩

theorem wit_VectorConvertsAndReduces : AtIssue atV .v ∧ VReady atV [⟨11, 0, none⟩] (maskOfWord 1 1) []
    ∧ (∃ e v, readAll atV.me.vec [⟨11, 0, none⟩] = .ok ([e], v)) ∧ (fvr 0 11).fmt.toNat < 12 ∧ (fvr 0 11).fmt ≠ 0
    ∧ max (elemCount 11) (elemCount 8) = 256 ∧ 7 * min (elemCount 11) (elemCount 8) < 256 ∧ 256 ≤ 8 * min (elemCount 11) (elemCount 8)
    ∧ FmtFI (fvr 0 1).fmt ∧ VReady atV (vrSrc (fvr 0 1) 1) (maskOfWord 1 1) [] ∧ (∃ e v, readAll atV.me.vec (vrSrc (fvr 0 1) 1) = .ok ([e], v))
    ∧ 2 ^ 6 ≤ elemCount 1 ∧ elemCount 1 < 2 ^ 7 :=
  ⟨by decide +kernel, by unfold VReady; decide +kernel, reads_one (by decide +kernel), by decide +kernel, by decide +kernel, by decide +kernel,
    by decide +kernel, by decide +kernel, by unfold FmtFI; decide +kernel, by unfold VReady; decide +kernel, reads_one (by decide +kernel), by decide +kernel,
    by decide +kernel⟩

theorem wit_VectorMasks : AtIssue atV .v ∧ (∃ op, compareOp (.vcmple (fvr 7 11)) = some (fvr 7 11, op)) ∧ (fvr 7 11).vd.toNat < 8 ∧ (fvr 7 11).fmt.toNat ≤ 11
    ∧ (fvr 7 11).fmt ≠ 6 ∧ VReady atV (vrSrc (fvr 7 11) 2) (maskOfWord 1 1) [] ∧ (∃ es v, readAll atV.me.vec (vrSrc (fvr 7 11) 2) = .ok (es, v) ∧ es.length = 2)
    ∧ (fvi 7 1 0).fmt = 1 ∧ VReady atV [⟨1, 0, some 1⟩] (maskOfWord 1 1) [] ∧ (∃ e v, readAll atV.me.vec [⟨1, 0, some 1⟩] = .ok ([e], v))
    ∧ (fvr 3 1).vd.toNat < 4 ∧ (vget 0 atV.me.vec.kwcur 3).toNat + elemCount 1 ≤ 1024 ∧ 1024 < (1000 : BitVec 11).toNat + elemCount 1 :=
  ⟨by decide +kernel, ⟨_, rfl⟩, by decide +kernel, by decide +kernel, by decide +kernel, by unfold VReady; decide +kernel, reads_some (by decide +kernel),
    by decide +kernel, by unfold VReady; decide +kernel, reads_one (by decide +kernel), by decide +kernel, by decide +kernel, by decide +kernel⟩

/-- A conditional queue that holds one FP32 element. -/
def queuedV : State := atV.updCtx 0 fun c => { c with vec := { c.vec with cq := vput c.vec.cq 1 ⟨[1, 2, 3, 4], 0, 1⟩, rtw := 0x888A } }

theorem wit_VectorQueues : AtIssue queuedV .v ∧ (fvr 3 1).vd.toNat < 4 ∧ (fvr 3 1).fmt.toNat < 13 ∧ (fvr 3 1).fmt ≠ 6
    ∧ VReady queuedV (vrSrc (fvr 3 1) 1) (maskOfWord 1 1) [0, 1] ∧ (∃ e v, readAll queuedV.me.vec (vrSrc (fvr 3 1) 1) = .ok ([e], v))
    ∧ (fvr 0 1).va.toNat < 2 ∧ VReady queuedV [] (maskOfWord 1 1) [1] ∧ (condQ queuedV.me.vec 1).tag = 1 ∧ (condQ queuedV.me.vec 0).data = []
    ∧ VReady queuedV [⟨10, 0, some 10⟩] [] [] ∧ (∃ e v, readAll queuedV.me.vec [⟨10, 0, some 10⟩] = .ok ([e], v)) ∧ VReady queuedV [] [] [0, 1]
    ∧ FmtFI 1 ∧ VReady queuedV [⟨1, 0, some 1⟩] (maskOfWord 1 1) [] ∧ (∃ e v, readAll queuedV.me.vec [⟨1, 0, some 1⟩] = .ok ([e], v))
    ∧ ¬ 4 < (vget [] VState.reset.q 1).length + 2 ∧ 4 < (vget [] (vput filledV.q 1 (List.replicate 3 ⟨1, 0, 0⟩)) 1).length + 2 :=
  ⟨by decide +kernel, by decide +kernel, by decide +kernel, by decide +kernel, by unfold VReady; decide +kernel, reads_one (by decide +kernel),
    by decide +kernel, by unfold VReady; decide +kernel, by decide +kernel, by decide +kernel, by unfold VReady; decide +kernel, reads_one (by decide +kernel),
    by unfold VReady; decide +kernel, by unfold FmtFI; decide +kernel, by unfold VReady; decide +kernel, reads_one (by decide +kernel), by decide +kernel,
    by decide +kernel⟩

/-- A V memory word at tile address 16 (the last 16 bytes of the lease for index 0xFFF), on a tile whose granules 1 to 16 are full. -/
def fvm (fq : BitVec 2) (g : BitVec 20) : FVM := ⟨1, g, 0, 0, 1, fq, 0, 0⟩
def fullV : State := atV.updTile 0 fun x => { x with full := rangeFrom 1 16 }

theorem wit_VectorStores : fullV.inv ∧ AtIssue fullV .v ∧ VReady fullV [⟨1, 0, tagOf 1⟩] (maskOfWord 0 0) []
    ∧ (∃ e v, readAll fullV.me.vec [⟨1, 0, tagOf 1⟩] = .ok ([e], v)) ∧ (∀ j, j < 256 → inLease fullV (eaOf fullV 1 0 + j))
    ∧ VReady fullV [] [7] [] :=
  ⟨by unfold State.inv; decide +kernel, by decide +kernel, by unfold VReady; decide +kernel, reads_one (by decide +kernel), by decide +kernel,
    by unfold VReady; decide +kernel⟩

/-- A matrix engine whose slots 0 and 1 hold INT8 operands, with a nest of one step. -/
def nestOne : NestRec := { XState.reset.active with levels := Vector.replicate 6 ⟨1, 0, 0, 0, 0, 0⟩ }
def goFields : FXC := ⟨8, 8, 0, 0, 0, 0, 0, 1⟩
def atX : State := (atE .x).updCtx 0 fun c => { c with mat := { c.mat with
  slot := vput (vput c.mat.slot 0 ⟨true, 1, 8, 15, false, []⟩) 1 ⟨true, 1, 8, 15, false, []⟩, active := nestOne } }

theorem wit_MatrixRecords : AtIssue atX .x ∧ (5 : BitVec 3).toNat < 6 ∧ (slotOf atX.me.mat 0).cl = true ∧ (slotOf atX.me.mat 2).cl = false
    ∧ (slotOf atX.me.mat 0).busy = false ∧ (accOf atX.me.mat 0).busy = false
    ∧ (accOf (atX.updCtx 0 fun c => { c with mat := { c.mat with acc := vput c.mat.acc 0 ⟨true, 10, true, []⟩ } }).me.mat 0).busy = true := by
  decide +kernel

/-- Fields of an X memory word of format `fmt` at tile address 0. -/
def fxs (fmt : BitVec 4) : FXS := ⟨0, 3, 0, fmt, 0, 0⟩
def fullX : State := atX.updTile 0 fun x => { x with full := rangeFrom 0 512 }

theorem mem_rangeFrom_iff (a n x : Nat) : x ∈ rangeFrom a n ↔ a ≤ x ∧ x < a + n := by
  induction n generalizing a with
  | zero => simp [rangeFrom]
  | succ n ih => simp only [rangeFrom, List.mem_cons, ih]; omega

theorem one_tuple (idx : Vector (BitVec 32) 6) (h : Tuple nestOne idx) : idx = Vector.replicate 6 0 := by
  apply Vector.ext
  intro n hn
  have h1 := h n hn
  have h2 : (vget (⟨0, 0, 0, 0, 0, 0⟩ : NestLevel) nestOne.levels n).cnt = 1 := by
    have : n = 0 ∨ n = 1 ∨ n = 2 ∨ n = 3 ∨ n = 4 ∨ n = 5 := by omega
    rcases this with rfl | rfl | rfl | rfl | rfl | rfl <;> rfl
  rw [h2, vget, dif_pos hn] at h1
  rw [Vector.getElem_replicate]
  exact BitVec.eq_of_toNat_eq (by simpa using h1)

theorem wit_MatrixNestStarts : AtIssue atX .x ∧ atX.me.mat.shadow.run = false ∧ comboOk goFields = true ∧ comboOk ⟨8, 8, 0, 0, 1, 0, 0, 1⟩ = false
    ∧ ¬ (goFields.scl ≠ atX.me.mat.active.scl ∨ goFields.spa ≠ atX.me.mat.active.spa) ∧ nestSteps atX.me.mat.active ≤ 2 ^ 40
    ∧ (∀ n, n < 6 → (vget ⟨0, 0, 0, 0, 0, 0⟩ atX.me.mat.active.levels n).cnt ≠ 0)
    ∧ (∀ idx, Tuple atX.me.mat.active idx → StepInRange atX.me.mat.active goFields idx)
    ∧ (atX.me.mat.active.reads goFields).any atX.me.mat.unready = false ∧ (atX.me.mat.active.reads goFields).findSome? atX.me.mat.misfit = none
    ∧ (accOf atX.me.mat 0).tag = 0 := by
  refine ⟨by decide +kernel, by decide +kernel, by decide +kernel, by decide +kernel, by decide +kernel, by decide +kernel, by decide +kernel, ?_,
    by decide +kernel, by decide +kernel, by decide +kernel⟩
  intro idx h
  have he : atX.me.mat.active = nestOne := by decide +kernel
  rw [he] at h ⊢
  rw [one_tuple idx h]
  unfold StepInRange
  decide +kernel

/-- The nest started, its word XGO of those fields. -/
def runningX : State := atX.updCtx 0 fun c => { c with mat := { c.mat with
  shadow := { nestOne with run := true, xgow := ((encode 0 (.xgo goFields)).getD 0) } } }

theorem wit_MatrixStep : runningX.cur.at_ < 160 ∧ runningX.me.mat.running = some goFields
    ∧ Tuple runningX.me.mat.shadow runningX.me.mat.shadow.idx ∧ (pointer runningX.me.mat.shadow 0 2 (·.dc) runningX.me.mat.shadow.idx).toNat + 64 ≤ 512
    ∧ nestOrder runningX.me.mat.shadow runningX.me.mat.shadow.idx + 1 = nestSteps runningX.me.mat.shadow := by
  unfold Tuple; decide +kernel

/-- A subtree pass of one node at registers 255, and one that passes the bank's end. -/
def atS : State := (atE .s).updTile 0 fun x => { x with holdS := 0 }
def fsp (i : BitVec 8) : FSP := ⟨0, i, 1, 255, 0, 2, 255⟩

theorem wit_SumProductRegisters : AtIssue atS .s ∧ (∃ op, sumOp atS (.sup (fsp 255)) = some op ∧ ∀ r, r ∈ op.dst :: op.reads → inBank255 r)
    ∧ (∃ op, sumOp atS (.szero ⟨0, 255, 0, 0, 0, 0, 1⟩) = some op ∧ ¬ inBank255 op.dst) ∧ SumReady atS [ins (fsp 255), wts (fsp 255)]
    ∧ Rising atS.me.spe.word ∧ Rising atS.me.spe.g :=
  ⟨by decide +kernel, ⟨_, rfl, by unfold inBank255; decide +kernel⟩, ⟨_, rfl, by unfold inBank255; decide +kernel⟩,
    by unfold SumReady; decide +kernel, by decide +kernel, by decide +kernel⟩

theorem wit_PendingWritesLand :
    let s := atC' fun c => { c with c := { c.c with pend := [⟨1, 5, false, 10⟩, ⟨1, 6, false, 9⟩, ⟨1, 7, false, 10⟩, ⟨1, 8, false, 11⟩] } }
    let due := s.me.c.pend.filter fun w => decide (w.vis ≤ s.here.beat) && w.reg == 1
    s.cur.at_ < 160 ∧ due = [⟨1, 5, false, 10⟩, ⟨1, 6, false, 9⟩] ++ ⟨1, 7, false, 10⟩ :: []
      ∧ (∀ x, x ∈ [(⟨1, 5, false, 10⟩ : PendWrite), ⟨1, 6, false, 9⟩] → x.vis ≤ 10) := by decide +kernel

theorem wit_VectorLoads :
    let ea := eaOf fullV (fvm 2 1).gidx 0
    AtIssue fullV .v ∧ Room fullV 1 0 0 ∧ VReady fullV [] [] [] ∧ (vget [] fullV.me.vec.q 1).length < 4 ∧ (∀ j, j < 256 → inLease fullV (ea + j))
      ∧ (∀ j, j < 256 → fullV.emptyAt (tileLoc fullV (ea + j)) = false) ∧ Clean fullV ((List.range 256).map fun j => tileLoc fullV (ea + j))
      ∧ (List.range 256).find? (fun j => decide ¬ inLease fullV (eaOf fullV 0xFFF 0 + j)) = some 16
      ∧ (List.range 256).find? (fun j => fullV.emptyAt (tileLoc fullV (ea + 1 + j))) = some 255
      ∧ (List.range 32).find? (fun j => decide ¬ inLease fullV (eaOf fullV 0xFFF 0 + j)) = some 16
      ∧ (List.range 32).find? (fun j => fullV.emptyAt (tileLoc fullV j)) = some 0 ∧ (1 : Reg).toNat < 8 := by
  unfold VReady Room Clean; decide +kernel

/-- A full queue, and an error of the row that the loads read. -/
theorem wit_VectorLoadsStop :
    let q := fullV.updCtx 0 fun c => { c with vec := { c.vec with q := vput c.vec.q 1 (List.replicate 4 ⟨1, 0, 0⟩) } }
    let s := { fullV with ues := [0x1000000000020] }
    let ea := eaOf s (fvm 2 1).gidx 0
    AtIssue q .v ∧ Room q 1 0 0 ∧ VReady q [] (maskOfWord (fvm 2 1).m (fvm 2 1).me) [] ∧ 4 ≤ (vget [] q.me.vec.q (fvm 2 1).v.toNat).length
      ∧ AtIssue s .v ∧ Room s 1 0 0 ∧ VReady s [] (maskOfWord (fvm 2 1).m (fvm 2 1).me) [] ∧ (vget [] s.me.vec.q (fvm 2 1).v.toNat).length < 4
      ∧ (∀ j, j < 256 → inLease s (ea + j)) ∧ (∀ j, j < 256 → s.emptyAt (tileLoc s (ea + j)) = false)
      ∧ (lanesOf s.me.vec (fvm 2 1)).find? (fun j => ueAt s (tileLoc s (ea + j))) = some 16
      ∧ (List.range 32).find? (fun j => ueAt s (tileLoc s (ea + j))) = some 16 := by
  unfold VReady Room; decide +kernel

/-- A byte that a later write of the beat has taken, where a store of the tile's streams does not stand, and one where it does. -/
theorem wit_Outranked :
    let s := fullV.updTile 0 fun x => { x with start := some ⟨fullV.mem, x.full, [], [0x1000000000011]⟩ }
    s.inv ∧ AtIssue s .v ∧ Room s 0 1 0 ∧ standing s [(0x1000000000010, 1), (0x1000000000011, 2)] = [(0x1000000000010, 1)]
      ∧ standing fullV [(0x1000000000010, 1), (0x1000000000011, 2)] = [(0x1000000000010, 1), (0x1000000000011, 2)] := by
  unfold State.inv Room; decide +kernel

theorem wit_RoomForVectorStores : Room fullV 0 1 0 := by unfold Room; decide +kernel

/-- The lease of that tile lies in full granules. -/
theorem lease_full (a : Nat) (h : a < 8192) : fullX.emptyAt (tileLoc fullX a) = false ∧ inLease fullX a := by
  have h1 : tileLoc fullX a = 0x1000000000000 + a := by
    have : fullX.here.lbase.toNat = 0 ∧ fullX.cur.at_ = 0 := by decide +kernel
    rw [tileLoc, this.1, this.2]; omega
  have h2 : (fullX.tile 0).full = rangeFrom 0 512 := by decide +kernel
  have h5 : (fullX.tile 0).start = none := by decide +kernel
  have h3 : (fullX.here.lsize.toNat - fullX.here.lsave.toNat) * 4096 = 65536 := by decide +kernel
  have h4 : placeOf (0x1000000000000 + a) = .window 0 a := by
    unfold placeOf
    rw [if_neg (by omega), if_pos (by simp; omega)]
    congr 1 <;> omega
  refine ⟨?_, by unfold inLease; rw [h3]; omega⟩
  rw [h1, State.emptyAt, h4]
  simp only [State.startFull, h2, h5, Option.map_none, Option.getD_none, Bool.not_eq_eq_eq_not, Bool.not_false, List.contains_iff_mem]
  rw [mem_rangeFrom_iff]; omega

theorem wit_MatrixMemory : fullX.inv ∧ AtIssue fullX .x ∧ Room fullX 0 0 1 ∧ fillOp (.xfill (fxs 8)) = some (fxs 8, 1) ∧ (slotOf fullX.me.mat 0).busy = false
    ∧ ¬ ((slotOf fullX.me.mat 0).role ≠ 0 ∧ ((slotOf fullX.me.mat 0).role ≠ 1 ∨ (slotOf fullX.me.mat 0).tag ≠ (fxs 8).fmt))
    ∧ ((slotOf fullX.me.mat 0).role ≠ 0 ∧ (slotOf fullX.me.mat 0).tag ≠ (fxs 9).fmt)
    ∧ fullX.ces = [] ∧ fullX.ues = [] ∧ eaOf fullX (fxs 8).gidx (fxs 8).step = 0
    ∧ (∃ tags need g, drainOp fullX (.xdrain (fxs 10)) = some (fxs 10, tags, need, g)) ∧ (accOf fullX.me.mat 3).busy = false
    ∧ 512 * 32 ≤ (fullX.here.lsize.toNat - fullX.here.lsave.toNat) * 4096
    ∧ (List.range 8192).find? (fun j => atX.emptyAt (tileLoc atX j)) = some 0
    ∧ (List.range 8192).find? (fun j => decide ¬ inLease fullX (0xFFF0 + j)) = some 16
    ∧ (let s := { fullX with ues := [0x1000000000040] }; (List.range 8192).find? (fun j => ueAt s (tileLoc s j)) = some 0x40) :=
  ⟨by unfold State.inv; decide +kernel, by decide +kernel, by unfold Room; decide +kernel, by decide +kernel, by decide +kernel, by decide +kernel,
    by decide +kernel, by decide +kernel, by decide +kernel, by decide +kernel, ⟨_, _, _, rfl⟩, by decide +kernel, by decide +kernel, by decide +kernel,
    by decide +kernel, by decide +kernel⟩

theorem wit_MatrixRooms : Room atX 0 0 1 := by unfold Room; decide +kernel

/-- A running nest over slots of zeros with the fields `f`, and with byte 0 of slot 0 at `b`. -/
def runningF (f : FXC) (b : Byte) : State := atX.updCtx 0 fun c => { c with mat := { c.mat with
  slot := vput c.mat.slot 0 ⟨true, 1, f.fa, 15, true, [(0, b)]⟩
  shadow := { nestOne with run := true, scl := f.scl, spa := f.spa, sclA := 2, sclB := 3, spaM := 4, xgow := ((encode 0 (.xgo f)).getD 0) } } }

/-- Operands and scales of coarse and fine scaling, a sparse row, a row marked zero and a NaN among the operands. -/
theorem wit_MatrixFloatElements :
    (∀ f, f ∈ [(⟨4, 4, 0, 0, 1, 0, 0, 1⟩ : FXC), ⟨6, 6, 0, 0, 2, 0, 0, 1⟩, ⟨4, 4, 0, 1, 0, 0, 0, 1⟩] →
      let m := (runningF f 0).me.mat
      m.running = some f ∧ fmtI f.fa = false ∧ fmtI f.fb = false
        ∧ (∀ t, t < 64 → numVal (decodeFloat f.fa (rowElem m f.fa 0 t)) = some 0)
        ∧ (f.scl = 2 → ∀ t, t < 64 → numVal (decodeFloat 7 (ofBytes (m.slotBytes (32768 * 2 + t / 16) 1))) = some 0)
        ∧ (∀ e, e < 64 → numVal (decodeFloat f.fb (nbits (ofBytes (m.slotBytes 0 (8 * elemBits f.fb))) (elemBits f.fb * e) (elemBits f.fb))) = some 0)
        ∧ numVal (decodeFloat 1 (ofBytes (m.slotBytes (32768 * 2) 4))) = some 0 ∧ numVal (decodeFloat 1 0) = some 0)
    ∧ (let f : FXC := ⟨4, 4, 0, 2, 0, 0, 0, 1⟩
       let m := (runningF f 0x7F).me.mat
       m.running = some f ∧ ofBytes (m.slotBytes (32768 * 4) 8) ≠ 2 ^ 64 - 1 ∧ decodeFloat f.fa (rowElem m f.fa 0 0) = .nan) := by decide +kernel

theorem wit_SumProductMemory :
    let f : FSM := ⟨0, 255, 0, 0, 0⟩
    let ea := eaOf atS f.gidx f.step
    atS.inv ∧ AtIssue atS .s ∧ Room atS 0 0 1 ∧ inBank255 ⟨0, 255, 1⟩ ∧ ¬ inBank255 ⟨0, 255, 2⟩ ∧ SumReady atS [⟨0, 255, 1⟩] ∧ Reachable atS ea 192
      ∧ (List.range 128).find? (fun j => decide ¬ inLease atS (eaOf atS 0xFFF 0 + j)) = some 16 := by
  unfold State.inv inBank255 SumReady Room Reachable Clean; decide +kernel

/-! ## Events of tiles, boxes and launches -/

/-- The C section lies in the absent page. -/
def unfetched : State := atC.updTile 0 fun x => { x with sect := vput x.sect 0 ⟨0x10000, 64⟩ }

/-- A stall of stream C that began at beat 1, met at beat `b` of the tile. -/
def stalledAt (b : Nat) : State := atC.updTile 0 fun x => { x with beat := b, since := vput x.since 0 (some ⟨1, b, 4, 0⟩) }

theorem wit_StallsOfATile : unfetched.inv ∧ (unfetched.tile 0).box = some 0 ∧ (unfetched.ctx 0).active .c = true ∧ unfetched.due 0 .c = true
    ∧ unfetched.fetch 0 .c 5 = .absent 0x10000
    ∧ (∃ y, vget none ((stalledAt 2002).tile 0).since 0 = some y ∧ y.reason ≠ 0 ∧ y.seen = ((stalledAt 2002).tile 0).beat
        ∧ ((stalledAt 2002).effWthr 0 ((stalledAt 2002).box 0).rcb).toNat < ((stalledAt 2002).tile 0).beat - y.start)
    ∧ (stalledAt 2002).tileOf 0 ((stalledAt 2002).tile 0).rank = some 0 ∧ ((stalledAt 2002).box 0).tiles.Nodup
    ∧ ¬ ((stalledAt 2001).effWthr 0 0x40).toNat < ((stalledAt 2001).tile 0).beat - 1 :=
  ⟨by unfold State.inv; decide +kernel, by decide +kernel, by decide +kernel, by decide +kernel, by decide +kernel,
    ⟨⟨1, 2002, 4, 0⟩, by decide +kernel⟩, by decide +kernel, by decide +kernel, by decide +kernel⟩

/-- A word that is not the next one of a running stream, whose fetch fails. -/
theorem wit_FetchesDiscarded : (atC.ctx 0).active .c = true ∧ (atC.ctx 0).pcOf .c ≠ 0x10000
    ∧ atC.fetchAny 0 .c 0x10000 = .failed 0x81000 ∧ (atC.ctx 0).active .v = false := by decide +kernel

/-- The box running, PARKED for reason `r` with a due deadline, and about to be saved. -/
def parkedFor (r : BitVec 8) : State := { atC with timeb := 100, boxes := [(0, { runBox with
  state := .parked, reason := r, evpend := 1, evmask := 1, dl := true, deadline := 100, watch := 2, pairs := vput runBox.pairs 2 ⟨true, 1, 1, 0, 3, 1, 2, [⟨5, 6, 1⟩], []⟩ })] }

theorem wit_PreemptionAndWakes : atC.inv ∧ (atC.box 0).state = .running ∧ (parkedFor 10).inv ∧ ((parkedFor 10).box 0).state ≠ .running
    ∧ (let s := atC.updBox 0 fun x => { x with preempt := true }
       TeamOn s 0 ∧ (s.box 0).preempt = true ∧ (s.box 0).oneStep = false ∧ (∀ u, u ∈ (s.box 0).tiles → (s.tile u).issued = 0 ∧ s.delivers u = false))
    ∧ ((parkedFor 10).box 0).stopping = false ∧ (parkedFor 10).wakeHolds 0 = true ∧ (parkedFor 13).wakeHolds 0 = false
    ∧ ((parkedFor 10).box 0).dl = true ∧ ((parkedFor 10).box 0).deadline.toNat ≤ (parkedFor 10).timeb ∧ (atC.box 0).dl = false := by
  unfold State.inv TeamOn; decide +kernel

/-- A request made before, and a deadline that PS3 keeps armed. -/
theorem wit_RequestsStand :
    let s := atC.updBox 0 fun x => { x with asked := some 3 }
    let z := { parkedFor 10 with ps3 := true }
    s.inv ∧ (s.box 0).state = .running ∧ (s.box 0).asked.getD s.timeb = 3 ∧ z.ps3 = true ∧ (z.box 0).dl = true ∧ (z.box 0).deadline.toNat ≤ z.timeb := by
  unfold State.inv; decide +kernel

theorem wit_SelectionStartsTheFirst :
    let s := { twoBoxes with boxes := [(0, { runBox with state := .parked, reason := 11, live := false })] ++ twoBoxes.boxes.drop 1 }
    s.inv ∧ s.cur.at_ < 4 ∧ s.runList 0 = [1] ∧ (s.die 0).ps2 = false ∧ s.ps3 = false ∧ s.ageBlocked [1] 1 = false ∧ (s.box 1).live = false
      ∧ (s.box 1).img = false ∧ s.teamOf 1 ≤ (s.freeTiles 0).length ∧ State.reset.runList 0 = [] := by
  unfold State.inv; decide +kernel

theorem wit_SelectionLeases : ∀ o, o ≠ 1 →
    leasesMeet (({ twoBoxes with seq := 9 } : State).box 1) (({ twoBoxes with seq := 9 } : State).box o) = false :=
  leases_apart _ 1 rfl rfl

theorem wit_BudgetsPeriodsAndGrants :
    let r := rootAt 0x40
    let s := { atC with regions := [{ r with used := 40000 }], timeb := 1000 }
    s.inv ∧ (∃ r, s.region 0 0x40 = some r ∧ s.budgetOf r ≤ r.used ∧ r.root = true ∧ r.periodNo < 2 * s.timeb / r.period) ∧ Charges s 0 0x40 0
      ∧ (let t := atC.updDie 0 fun d => { d with grants := [(0, 0x1111)] }
         ((t.die 0).grants.map Prod.fst).Nodup ∧ (0, 0x1111) ∈ (t.die 0).grants ∧ (t.box 0).grant ≠ 0x1111 ∧ TeamOn t 0) :=
  ⟨by unfold State.inv; decide +kernel, ⟨_, rfl, by decide +kernel⟩, by unfold Charges; decide +kernel, by unfold TeamOn; decide +kernel⟩

/-- The last launch ended: its tile is done; its queue's records hold TAG 0x11. -/
def endedTeam : State := (atC.updCtx 0 fun c => { c with done := true }).updBox 0 fun x => { x with current := some aLaunch }

/-- A launch that waits for TAG 7 of queue 2 of die 0, which completed with status `st`. -/
def edged (st : BitVec 8) : State := ((atC.updBox 0 fun x => { x with queue := [{ aLaunch with held := true, waits := [(0, 2, 7, 1)] }] }).updMq 0 2 fun m =>
  { m with doneTags := [(7, st)] })

theorem wit_LaunchesEnd : endedTeam.inv ∧ TeamOn endedTeam 0 ∧ endedTeam.teamEnded 0 = true ∧ (endedTeam.box 0).queue = []
    ∧ (let s := atC.updBox 0 fun x => { x with ending := [(aLaunch, 1)] }
       (s.box 0).ending = (aLaunch, 1) :: [] ∧ aLaunch.source = none ∧ aLaunch.queue = some 0 ∧ aLaunch.die < 4
         ∧ (∀ k, k < 1 → (s.rankCtx 0 k).oc.ocl = 0 ∧ (s.rankCtx 0 k).oc.ocs = 0 ∧ (s.rankCtx 0 k).oc.occ = 0) ∧ aLaunch.compl = 0
         ∧ aLaunch.flags.getLsbD 0 = false)
    ∧ ((edged 0).box 0).everRan = true
    ∧ (((edged 0).box 0).queue.find? fun l => l.held && ((edged 0).producers l).isSome) = some { aLaunch with held := true, waits := [(0, 2, 7, 1)] }
    ∧ (edged 0).producers { aLaunch with held := true, waits := [(0, 2, 7, 1)] } = some true
    ∧ (edged 5).producers { aLaunch with held := true, waits := [(0, 2, 7, 1)] } = some false := by
  unfold State.inv TeamOn; decide +kernel

/-- A launch block of one tile with the least sizes, and boxes that can hold it. -/
def aBlock : BlockReg := ⟨1, 1, false, 0, 1, 0xDDDD, 45056, 40960, [], 0x2000, 8, none, 0, none, 0, none, 0⟩

/-- An ANY launch queued on die 1 that die 0 may take. -/
def anyLaunch : Launch := { aLaunch with any := [0, 16384, 32768, 49152] }
def offering : State := { space with
  timeb := 20000, blocks := [aBlock], regions := [rootAt 0x40, { rootAt 0x40 with die := 1 }]
  dies := vput State.reset.dies 0 { Die.reset with idleSince := some 0 }
  boxes := [(0, { runBox with state := .parked, reason := 11, imgsize := 4000, lsave := 10, lqhead := 0x20000, tiles := [], live := false, resume := false }),
            (16384, { runBox with state := .parked, reason := 11, imgsize := 4000, lsave := 10, lqhead := 0x20000, tiles := [], live := false, resume := false, queue := [anyLaunch] })] }

theorem wit_StealOffer : offering.inv ∧ (offering.box 16384).everRan = true
    ∧ ((offering.die 0).idleSince.any fun t => decide (t + 20000 ≤ offering.timeb)) = true ∧ offering.runList 0 = [] ∧ offering.freeTiles 0 ≠ []
    ∧ boxDie 16384 = 1 ∧ anyLaunch ∈ (offering.box 16384).unstarted ∧ anyLaunch.any[0]? = some 0 ∧ anyLaunch.image = 0
    ∧ offering.block anyLaunch.lbh = some aBlock ∧ aBlock.team ≤ (offering.freeTiles 0).length ∧ (offering.box 0).state ≠ .free
    ∧ offering.admits 0 aBlock = true ∧ (offering.steal 0 1).isSome = true ∧ (offering.steal 0 2).isSome = false := by
  unfold State.inv; decide +kernel

/-- READY boxes 1 to 3 of one region: box 2 of a higher priority, box 3 later than box 1; box 4 held by an edge, box 5 by its
start, box 6 about to be stopped; and, with box 2 at AGE 8 and of two tiles, none may follow the caller of a CXSW.s0. -/
def lined (age : Nat) : State := { twoBoxes with
  timeb := 5, blocks := [{ aBlock with handle := 9, team := 2 }]
  boxes := [(0, runBox), (1, { twoBoxes.box 1 with prio := 3, readySeq := 4 }),
    (2, { twoBoxes.box 1 with prio := 5, readySeq := 6, age := age, queue := [{ aLaunch with lbh := 9 }] }),
    (3, { twoBoxes.box 1 with prio := 3, readySeq := 5 }), (4, { twoBoxes.box 1 with queue := [{ aLaunch with held := true }] }),
    (5, { twoBoxes.box 1 with queue := [{ aLaunch with start := 6 }] }), (6, { twoBoxes.box 1 with stopping := true })] }

theorem wit_RunListOrder : (lined 0).inv ∧ (lined 0).runList 0 = [2, 1, 3] ∧ (lined 0).runList 1 = []
    ∧ MayStart (lined 0) aLaunch ∧ ¬ MayStart (lined 0) { aLaunch with start := 6 } := by
  unfold State.inv MayStart; decide +kernel

theorem wit_CxswTargets : (lined 0).inv ∧ TeamAtIssue (lined 0) 0 ∧ (lined 8).inv ∧ TeamAtIssue (lined 8) 0
    ∧ ((List.range 8).map (lined 0).cxTarget) = [false, true, false, true, true, true, true, false]
    ∧ (lined 0).cxChoice = some 1 ∧ (lined 8).cxChoice = none ∧ (lined 0).teamOf 2 = 2 := by
  unfold State.inv TeamAtIssue; decide +kernel

/-- An asynchronous cause where a wait has passed the threshold, and where its word is still to be tried at the beat. -/
theorem wit_AsyncCauseAndWaits :
    let s := fun (seen : Nat) => ((stalledAt 2002).updTile 0 fun x => { x with since := vput x.since 0 (some ⟨1, seen, 4, 0⟩) }).updCtx 0 fun c =>
      { c with trap := { c.trap with tpend := 0x80 } }
    (∀ n, n = 2002 ∨ n = 2001 → (s n).here.box.isSome = true ∧ (s n).me.done = false ∧ (s n).me.trap.tpend ≠ 0 ∧ (s n).me.trap.act = false
      ∧ (s n).me.c.live = false ∧ (s n).here.issued = 0 ∧ (s n).here.holdAll ≤ (s n).here.beat)
    ∧ vget none (s 2002).here.since 0 = some ⟨1, 2002, 4, 0⟩
    ∧ ((s 2002).effWthr (boxDie (s 2002).myBox) ((s 2002).box (s 2002).myBox).rcb).toNat < (s 2002).here.beat - 1
    ∧ (∀ n, n < 4 → n ≠ 0 → vget none (s 2002).here.since n = none) ∧ (s 2001).canIssue 0 .c = true := by
  intro s
  refine ⟨fun n h => ?_, by decide +kernel, by decide +kernel, by decide +kernel, by decide +kernel⟩
  rcases h with rfl | rfl <;> decide +kernel

/-- A save that goes on, one that a wait past the threshold comes before, and one that a delivery comes before. -/
theorem wit_SavesAtBoundaries :
    let ask := fun (s : State) => s.updBox 0 fun x => { x with preempt := true }
    (let s := ask atC
     TeamOn s 0 ∧ (s.box 0).halting = false ∧ (s.box 0).oneStep = false ∧ (s.ctx 0).done = false ∧ (s.box 0).tiles = [0] ∧ (s.tile 0).issued = 0
       ∧ s.entered 0 = false ∧ s.parkOverdue 0 = none ∧ s.waitOpen 0 = false ∧ s.delivers 0 = false)
    ∧ (let s := ask (stalledAt 2002)
       TeamOn s 0 ∧ (s.box 0).tiles = [0] ∧ (s.parkOverdue 0).isSome = true ∧ (s.tile 0).issued = 0 ∧ s.entered 0 = false)
    ∧ (let s := ask (pendingCause 0x80)
       TeamOn s 0 ∧ (s.box 0).tiles.find? s.delivers = some 0 ∧ s.parkOverdue 0 = none ∧ s.waitOpen 0 = false ∧ s.entered 0 = false) := by
  unfold TeamOn; decide +kernel

/-- A request of the team itself, of the region above its own, and of neither. -/
theorem wit_RequestsOfTeams :
    let s := fun (rq own up : BitVec 16) => { atC' (fun c => { c with clkrq := rq }) with
      regions := [{ rootAt 0x80 with clock := up }, { rootAt 0x40 with root := false, parent := 0x80, clock := own }] }
    TeamOn (s 0x000C 0x000B 0x000A) 0 ∧ ((s 0 0 0).box 0).tiles.head? = some 0
      ∧ ((s 0 0 0).chainOf (boxDie 0) ((s 0 0 0).box 0).rcb).map (·.va) = [0x40, 0x80]
      ∧ (s 0x000C 0x000B 0x000A).request 0 0 = 4 ∧ (s 0x0004 0x000B 0x000A).request 0 0 = 3 ∧ (s 0x00C0 0x0003 0x000A).request 0 0 = 2
      ∧ (s 0x00C0 0x0003 0x000A).request 0 1 = 4 ∧ (s 0x7777 0x7777 0x7777).request 0 3 = 5 := by
  unfold TeamOn; decide +kernel

theorem wit_ArbiterGrants : atC.inv ∧ (∃ w, atC.arbitrate 0 = [] ++ (0, w) :: []) ∧ (((atC.arbitrate 0).map Prod.fst).map fun b => (atC.box b).tiles.length).sum ≤ 40 :=
  ⟨by unfold State.inv; decide +kernel, ⟨((atC.arbitrate 0).getD 0 (0, 0)).2, by decide +kernel⟩, by decide +kernel⟩

theorem wit_EdgesWait : (∀ u p, u < 160 → p ∈ ((edged 0).tile u).stores → (edged 0).srHeld p.locs = false) ∧ aLaunch.source = none := by
  refine ⟨fun u p h hp => ?_, rfl⟩
  have h0 : ∀ u, u < 160 → ((edged 0).tile u).stores = [] := by decide +kernel
  rw [h0 u h] at hp
  cases hp

/-! ## The front end -/

/-- Queue 0 of die 0, enabled, of root 0x40, at issue; box 0 PARKED, with an armed event. -/
def atQ : State := { space with
  regions := [rootAt 0x40], boxes := [(0, { runBox with state := .parked, reason := 11, tiles := [], live := false, resume := false, imgsize := 4000, lsave := 10 })]
  cur := ⟨0, .c, 0, 0, 0, 0, 0⟩
  dies := vput State.reset.dies 0 { Die.reset with queues := vput Die.reset.queues 0 ⟨0x1000, 4, 1, 0x40, 3, 1, 0, none, [], []⟩ } }

/-- A packet without a completion word. -/
def quiet (box : Nat) (ops : List (Nat × Nat)) : Packet := { packet box ops with flags := 0, compl := 0 }

/-- What the front end reads. -/
def readBytes (r : FrontRead) : List Byte := match r with | .ok b _ => b | _ => []
def readState (r : FrontRead) (s : State) : State := match r with | .ok _ z => z | _ => s
def okAccess (r : Access) : Bool := match r with | .ok _ _ => true | _ => false
def readOk (r : FrontRead) : Bool := match r with | .ok _ _ => true | _ => false

/-- A read by the front end that succeeds. -/
theorem front_read {r : FrontRead} (s : State) (h : readOk r = true) : r = .ok (readBytes r) (readState r s) := by
  cases r <;> first | rfl | cases h

theorem wit_FrontEndCompletes : atQ.inv ∧ AtQueue atQ ∧ (quiet 0 []).flags.getLsbD 0 = false ∧ (packet 0 []).compl ≠ 0 ∧ (packet 0 []).compl.toNat % 8 = 0
    ∧ (atQ.reach 1 0x10008 8 true).1 = .absent [0x10000] ∧ (atQ.reach 1 0x30008 8 true).1 = .cause 0x42 0x30008 ∧ (atQ.die 0).nring.log.toNat < 4 ∧ (atQ.die 0).notifs = [] := by
  unfold State.inv AtQueue; decide +kernel

/-- A cached translation makes the access leave the state as it is: of a page that is there, under move, or in a stack asleep. -/
theorem wit_ComplCached :
    let s := fun (page : Nat) (l : Word) => { atQ with tcache := [(1, page, l)] }
    let z := (s 0 0xC818000000000100).updStack 0 2 fun x => { x with sr := true }
    (s 0 0xC818000000000100).reach 1 0x1008 8 true = (.ok (rangeFrom 0x1001008 8) [0xC818000000000100], s 0 0xC818000000000100)
      ∧ (s 0 0xC818000000000100).held (rangeFrom 0x1001008 8) = false ∧ (s 0 0xC818000000000100).reply 0x1008 (rangeFrom 0x1001008 8) false = none
      ∧ (∀ u, u < 160 → ((s 0 0xC818000000000100).tile u).stores = [])
      ∧ (s 4 0xC81C000000000104).reach 1 0x40008 8 true = (.ok (rangeFrom 0x1040008 8) [0xC81C000000000104], s 4 0xC81C000000000104)
      ∧ lfMv 0xC81C000000000104 = true
      ∧ z.reach 1 0x1008 8 true = (.ok (rangeFrom 0x1001008 8) [0xC818000000000100], z) ∧ z.held (rangeFrom 0x1001008 8) = true := by
  intro s z
  exact ⟨Prod.ext (by decide +kernel) (by decide +kernel), by decide +kernel, by decide +kernel, by decide +kernel,
    Prod.ext (by decide +kernel) (by decide +kernel), by decide +kernel, Prod.ext (by decide +kernel) (by decide +kernel), by decide +kernel⟩

/-- The packet's notification, with a ring in the tile window that it goes to, with one in the page under move, and with one in the
absent page. -/
theorem wit_NotificationRing :
    let s := fun (va : Word) => (atQ.updDie 0 fun d => { d with nring := ⟨va, 4, 15, 0, 0⟩ }).updMq 0 0 fun m => tagsAfter m false 0 0
    let note := notifBytes ⟨1, 0, 0, true, 0, 0, wordOf 0 0⟩ atQ.timeWord
    (packet 0 []).flags.getLsbD 1 = true ∧ (s 0x20000).inv ∧ ((s 0x20000).die 0).notifs = [] ∧ (0x20000 : Word).toNat % 4096 = 0
      ∧ (15 : BitVec 32).toNat ≠ 2 ^ (4 : BitVec 5).toNat ∧ (s 0x20000).writeWaits 0 (0x20000 + 32 * 15) 32 = false
      ∧ ((s 0x20000).writeFrom 0 0 (0x20000 + 32 * 15) note).isSome = true ∧ (s 0x40000).writeWaits 0 0x40000 32 = true
      ∧ (s 0x10000).writeFrom 0 0 0x10000 note = none := by
  unfold State.inv; decide +kernel

/-- A waiting completion word, and a waiting notification with room in the ring. -/
theorem wit_CompletionsWait :
    let n : Notif := ⟨1, 0, 0, true, 0, 0, 0⟩
    let s := atQ.updDie 0 fun d => { d with deferred := [⟨0, true, false, 0x1008, 0, false, none⟩], notifs := [n], nring := ⟨0x20000, 4, 0, 0, 0⟩ }
    (s.die 0).deferred ≠ [] ∧ (s.die 0).notifs = n :: [] ∧ (s.putNotif 0 n).isSome = true
      ∧ (atQ.putNotif 0 n) = none ∧ (s.writeFrom 0 0 0x20000 (List.replicate 32 1)).isSome = true := by decide +kernel

theorem wit_PacketsAreChecked : AtQueue atQ ∧ Instr.signal (quiet 0 []) ∈ [Instr.signal (quiet 0 []), .wakehint (quiet 0 []), .swap (quiet 0 []), .halt (quiet 0 []),
      .destroy (quiet 0 []), .chbind (quiet 0 []), .prbind (quiet 0 [])] ∧ ({ packet 0 [] with compl := 0x1004 }).compl.toNat % 8 ≠ 0
    ∧ (atQ.box 3).state = .free ∧ boxDie 16384 ≠ atQ.cur.at_ ∧ boxDie 16383 = atQ.cur.at_
    ∧ ({ atQ with regions := [] }.under 0 (atQ.box 0).rcb atQ.myQueue.own) = false := by
  unfold AtQueue; decide +kernel

theorem wit_BoxCommands : atQ.inv ∧ AtQueue atQ ∧ Commands atQ (packet 0 []) ∧ atQ.security ≠ .w ∧ atQ.settled 0 = true ∧ (atQ.box 0).state = .parked
    ∧ (atQ.box 0).reason ≠ 0x0D ∧ (∀ l, l ∈ (atQ.box 0).queue ∨ (atQ.box 0).current = some l ∨ l ∈ (atQ.box 0).ending.map Prod.fst → False)
    ∧ (∀ c, c < 8 → (atQ.pair 0 c).v = false) ∧ ¬ (atQ.security = .w ∧ atQ.debug = .d2) ∧ (atQ.region 0 0x40).isSome = true
    ∧ (atQ.box 1).state = .free ∧ atQ.under 0 0x40 atQ.myQueue.own = true
    ∧ ({ atQ with boxes := [(0, { runBox with chains := vput runBox.chains 0 { Chain.reset with cmds := [⟨0, 0, 0, [], [], false, false, false, [], [], []⟩] } })] }.settled 0) = false := by
  refine ⟨by unfold State.inv; decide +kernel, by unfold AtQueue; decide +kernel, by unfold Commands; decide +kernel, by decide +kernel, by decide +kernel,
    by decide +kernel, by decide +kernel, ?_, by decide +kernel, by decide +kernel, by decide +kernel, by decide +kernel, by decide +kernel, by decide +kernel⟩
  intro l h
  have h1 : (atQ.box 0).queue = [] ∧ (atQ.box 0).current = none ∧ (atQ.box 0).ending = [] := by decide +kernel
  rw [h1.1, h1.2.1, h1.2.2] at h
  simp at h

/-- SWAP, HALT and DESTROY of a box that runs, waits, or is swapped out; one whose image the firmware has mended. -/
theorem wit_BoxStates : (∀ st, st = .running ∨ st = .ready ∨ st = .swapped → Commands (atQ.updBox 0 fun x => { x with state := st }) (packet 0 []))
    ∧ (let s := atQ.updBox 0 fun x => { x with reason := 14, stopping := true }; (s.box 0).reason = 14 ∧ s.settled 0 = true)
    ∧ ({ atQ with boxes := [] }.region 0 0x41).isSome = false := by
  refine ⟨?_, by decide +kernel, by decide +kernel⟩
  rintro st (rfl | rfl | rfl) <;> · unfold Commands; decide +kernel

/-- A CREATE whose fields R283 admits. -/
theorem wit_Create :
    let p := quiet 0 [(0x10, 0x40), (0x18, 0x1000), (0x28, 1), (0x2A, 16), (0x2C, 16 * 2 ^ 10 + 1008)]
    let lease : BitVec 32 := BitVec.ofNat 32 (opnd p 0x2C 4)
    (lease.extractLsb' 0 10).toNat + (lease.extractLsb' 10 11).toNat ≤ 1024 ∧ (lease.extractLsb' 10 11) ≠ 0
      ∧ (lease.extractLsb' 21 11).toNat ≤ (lease.extractLsb' 10 11).toNat ∧ opnd p 0x18 8 % 4096 = 0 ∧ opnd p 0x2A 2 ≠ 0 ∧ opnd p 0x28 2 ≠ 0
      ∧ (atQ.region 0 (BitVec.ofNat 64 (opnd p 0x10 8))).isSome = true := by decide +kernel

/-- A LAUNCH of the block at 1, and the same with a image, STEP or ANY. -/
def launching : State := { atQ with blocks := [aBlock] }

theorem wit_LaunchesAreQueued :
    let p := quiet 0 [(0x10, 1)]
    launching.inv ∧ AtQueue launching ∧ p.compl.toNat % 8 = 0 ∧ p.flags.getLsbD 2 = false ∧ p.flags.getLsbD 3 = false ∧ (launching.box 0).state ≠ .free
      ∧ boxDie 0 = launching.cur.at_ ∧ launching.under 0 (launching.box 0).rcb launching.myQueue.own = true ∧ launching.block 1 = some aBlock
      ∧ launching.block 2 = none ∧ aBlock.asid = (launching.box 0).asid ∧ launching.admits 0 aBlock = true ∧ opnd p 0x28 8 = 0 ∧ opnd p 0x20 8 = 0
      ∧ launching.security ≠ .w ∧ (launching.box 0).queue = [] ∧ (launching.box 0).everRan = true := by
  unfold State.inv AtQueue; decide +kernel

/-- An ANY launch with a FREE box in its set; a launch from an image on a box that has run. -/
theorem wit_LaunchesRefused :
    let p : Packet := { quiet 0 [(0x10, 1), (0x32, 16384), (0x34, 32768), (0x36, 49152)] with flags := 4 }
    p.flags.getLsbD 2 = true ∧ launching.myQueue.ctl.getLsbD 1 = true ∧ ((List.range 4).map fun i => opnd p (0x30 + 2 * i) 2) = [0, 16384, 32768, 49152]
      ∧ (launching.box 16384).state = .free ∧ offering.setOk [0, 16384, 32768, 49152] = false ∧ boxDie 0 = launching.cur.at_
      ∧ opnd (quiet 0 [(0x10, 1), (0x20, 0x1000)]) 0x20 8 ≠ 0 ∧ ({ launching with security := .w } : State).security = .w := by decide +kernel

/-- Without an edge record there are no producers. -/
theorem wit_NoEdges : ∀ kk, launching.edges launching.myQueue.asid.toNat 8 (BitVec.ofNat 64 (opnd (quiet 0 [(0x10, 1)]) 0x28 8)) kk = kk launching [] := by
  have h : BitVec.ofNat 64 (opnd (quiet 0 [(0x10, 1)]) 0x28 8) = 0 := by decide +kernel
  intro kk
  rw [h]
  rfl

theorem wit_WaitAndCancel : atQ.inv ∧ AtQueue atQ ∧ (quiet 0 [(0x10, 8), (0x28, 2)]).compl.toNat % 8 = 0 ∧ opnd (quiet 0 [(0x10, 8), (0x28, 2)]) 0x28 1 < 3
    ∧ opnd (quiet 0 [(0x10, 8), (0x28, 2)]) 0x10 8 % 8 = 0 ∧ readOk (atQ.frontRead 1 8 8) = true
    ∧ (let m := (atQ.updMq 0 0 fun m => { m with doneTags := [(7, 0)] }).myQueue
       m.openTags = [] ∧ (7, 0) ∈ m.doneTags) ∧ opnd (quiet 0 [(0x18, 7), (0x28, 4)]) 0x18 8 ≤ { atQ with timeb := 7 }.timeb
    ∧ (let s := atQ.updBox 0 fun x => { x with queue := [aLaunch] }
       let mine := fun (l : Launch) => l.die == s.cur.at_ && l.queue == some s.cur.sub && l.tag.toNat == opnd (quiet 0 [(0x10, 0x11)]) 0x10 4
       (s.boxes.findSome? fun q => (q.2.unstarted.find? mine).map fun l => (q.1, l)) = some (0, aLaunch) ∧ (s.box 0).everRan = true)
    ∧ (let w := Instr.wait (quiet 0 [(0x28, 4), (0x18, 9)])
       ((atQ.updMq 0 0 fun m => { m with busy := some ⟨w, 0, false⟩ }).mq 0 0).busy = some ⟨w, 0, false⟩) := by
  unfold State.inv AtQueue; decide +kernel

/-- A launch whose start has no key, and the cancelling of one that is queued or loaded from an image. -/
theorem wit_LaunchesCancelled :
    let k := atC.updBox 0 fun x => { x with queue := [aLaunch], keyless := true, resume := false }
    let q := atQ.updBox 0 fun x => { x with queue := [aLaunch] }
    let i := atQ.updBox 0 fun x => { x with current := some aLaunch, everRan := false }
    let mine := fun (s : State) (l : Launch) => l.die == s.cur.at_ && l.queue == some s.cur.sub && l.tag.toNat == opnd (quiet 0 [(0x10, 0x11)]) 0x10 4
    k.inv ∧ (k.box 0).queue = aLaunch :: [] ∧ (k.box 0).keyless = true ∧ (k.box 0).resume = false ∧ (k.box 0).everRan = true
      ∧ q.inv ∧ AtQueue q ∧ aLaunch ∈ (q.box 0).unstarted ∧ (q.box 0).everRan = true
      ∧ (q.boxes.findSome? fun r => (r.2.unstarted.find? (mine q)).map fun l => (r.1, l)) = some (0, aLaunch)
      ∧ i.inv ∧ aLaunch ∈ (i.box 0).unstarted ∧ (i.box 0).everRan = false ∧ (i.box 0).current = some aLaunch
      ∧ (i.boxes.findSome? fun r => (r.2.unstarted.find? (mine i)).map fun l => (r.1, l)) = some (0, aLaunch) := by
  unfold State.inv AtQueue; decide +kernel

/-- The box with the key of its isolation domain, with no accessible units in its lease, and with the rank of an image that it has none
of yet; what that rank holds. -/
def keyed : State := { atQ with
  keys := [(1, List.replicate 32 7)], boxes := [(0, { runBox with state := .parked, reason := 11, tiles := [], live := false, resume := false, lsave := 16 })] }
def imaged : State := (keyed.updBox 0 fun x => { x with stopping := true }).someRank 0
def newRank : ImgRank := ⟨Ctx.reset.unlaunched, []⟩

theorem leaves_first_page {s : State} {l : Word} (h : s.tcache = []) (hw : (s.walk 0 0).map (·.1) = some l) (ho : leafOk l = true) :
    (s.leaves 0 [0]).1.toOption = some [l] := by
  simp [State.leaves, State.leaf, h, hw, ho, Except.toOption]

theorem reach_first_page {s : State} {n : Nat} {l : Word} (h : (s.leaves 0 [0]).1.toOption = some [l]) (hw : lfW l = true) (hr : resident l = true)
    (hl : lfPfn l * 65536 + 65536 ≤ 0x9000000000) (h1 : 1 ≤ n) (h2 : n ≤ 65536) :
    ∃ locs, (s.reach 0 0 n true).1 = .ok locs [l] ∧ ∀ x, x ∈ locs → x < 0x9000000000 := by
  have hp : pagesOf 0 n = [0] := by
    have : (n - 1) / 65536 = 0 := by omega
    simp [pagesOf, this, rangeFrom]
  obtain ⟨e, t, ht⟩ : ∃ e t, s.leaves 0 [0] = (e, t) := ⟨_, _, rfl⟩
  rw [ht] at h
  cases e with
  | error e => cases h
  | ok ls =>
  cases h
  unfold State.reach State.translate
  rw [if_neg (by omega), if_neg (by omega), hp, ht]
  simp only [Bool.false_and, Bool.false_eq_true, if_false, List.any_cons, List.any_nil, hw, Bool.not_true, Bool.or_false, Bool.and_false,
    List.zip_cons_cons, List.zip_nil_left, List.filter_cons, hr, List.filter_nil, List.isEmpty_nil, Access.ok.injEq, exists_eq_left', and_true]
  intro x hx
  obtain ⟨a, ha, rfl⟩ := List.mem_map.mp hx
  have ha := (mem_rangeFrom_iff _ _ _).mp ha
  have h0 : a / 65536 - 0 / 65536 = 0 := by omega
  have h3 : lfPfn l * 65536 + a % 65536 < 0x9000000000 := by omega
  have h4 : placeOf (lfPfn l * 65536 + a % 65536) = .hbm ((lfPfn l * 65536 + a % 65536) / 0x2400000000) := by
    unfold placeOf
    rw [if_pos h3]
  rw [h0, List.getD_cons_zero, State.byteLoc, State.loc, h4]
  exact h3

theorem sr_none {s : State} (h : ∀ d k, (vget ⟨false, [], [], []⟩ (s.die d).hbms k).sr = false) (locs : List Nat) : s.srHeld locs = false := by
  rw [State.srHeld, List.any_eq_false]
  intro l _
  split
  · rw [h]; simp
  · simp

/-- The sections of a box that is bound to nothing and has no record. -/
def Plain (x : Box) : Prop := x.image = 0 ∧ (boxSects x).length = 4 ∧ ((boxSects x).map fun y => y.data.length + 8).sum = 800

theorem image_length {x : Box} (hx : Plain x) (kind iso nonce k : Nat) (key : Option (List Byte)) :
    1 ≤ (imageBytes x [newRank] kind iso nonce k key).1.length ∧ (imageBytes x [newRank] kind iso nonce k key).1.length ≤ 65536 := by
  have hr : ∃ k2 m, (rankSects k 0 [newRank]).1 = [(sectOf k 1 0 (cSection newRank.ctx)).1, (sectOf k2 2 0 (vSection newRank.ctx.vec)).1, m]
      ∧ m.data.length = 128 := by
    have h1 : xPresent newRank.ctx.mat = false := by decide +kernel
    have h2 : newRank.ctx.spe.used = false := by decide +kernel
    have h3 : (padMul 64 (toBytes 128 newRank.ctx.written.toNat ++ [])).length = 128 := by
      simp only [padMul, List.length_append, length_toBytes, List.length_replicate, List.length_nil]
    refine ⟨(sectOf k 1 0 (cSection newRank.ctx)).2,
      ⟨5, 0, 0, (padMul 64 (toBytes 128 newRank.ctx.written.toNat ++ [])).length, padMul 64 (toBytes 128 newRank.ctx.written.toNat ++ [])⟩, ?_, h3⟩
    simp only [rankSects, h1, h2, Bool.false_eq_true, if_false]
    rfl
  obtain ⟨k2, m, hr, hm⟩ := hr
  have h1 := length_sectOf_le k 1 0 (cSection newRank.ctx)
  have h2 := length_sectOf_le k2 2 0 (vSection newRank.ctx.vec)
  have h3 : (cSection newRank.ctx).length = 2560 := length_cSection _ fun e => by cases e <;> decide +kernel
  have h4 : (vSection newRank.ctx.vec).length = 35520 := length_vSection _ (by decide +kernel)
  rw [h3] at h1
  rw [h4] at h2
  have h := length_imageBytes_le x [newRank] kind iso nonce k key 53248
    (by rw [hr, List.length_append, hx.2.1]; simp only [List.length_cons, List.length_nil]; decide)
    (by rw [hr, List.map_append, List.sum_append, hx.2.2]; simp only [List.map_cons, List.map_nil, List.sum_cons, List.sum_nil, hm]; omega)
  omega

/-- What a walk reads does not rest on the count of the free values. -/
theorem walk_drawn (s : State) (f a va : Nat) : ({ s.draw.2 with fresh := f } : State).walk a va = s.walk a va := by
  have h : ∀ pa, ({ s.draw.2 with fresh := f } : State).loc pa = s.loc pa := fun _ => rfl
  have hp : ∀ pa, ({ s.draw.2 with fresh := f } : State).paWord pa = s.paWord pa := fun pa => by
    rw [State.paWord, State.paWord, h]
    rfl
  simp only [State.walk, hp, h]
  rfl

theorem place_hbm {x : Nat} (h : x < 0x9000000000) : placeOf x = .hbm (x / 0x2400000000) := by
  unfold placeOf
  rw [if_pos h]

/-- Package memory always answers, where no request aborts; and it is no tile's SRAM. -/
theorem reply_hbm {s : State} {locs : List Nat} {va : Nat} (ha : s.aborts = []) (h : ∀ x, x ∈ locs → x < 0x9000000000) :
    s.reply va locs false = none ∧ locs.any s.midBeat = false := by
  have hn : locs.any s.noAnswer = false := by
    refine List.any_eq_false.mpr fun x hx => ?_
    have hx := h x hx
    have h0 : x / 2 ^ 64 = 0 := by omega
    have h1 : ¬ 2 ^ 99 ≤ x := by omega
    simp only [State.noAnswer, State.linkUp, h0, ha, h1, decide_false, Bool.false_and, Bool.not_true, List.contains_nil, Bool.or_false,
      Bool.false_eq_true, not_false_eq_true]
  refine ⟨by rw [State.reply]; simp only [hn, Bool.false_and, Bool.false_eq_true, if_false], List.any_eq_false.mpr fun x hx => ?_⟩
  simp only [State.midBeat, place_hbm (h x hx), Bool.false_eq_true, not_false_eq_true]

/-- Without a store in flight, what comes before a write that crosses dies changes the clocks of the dies alone. -/
theorem crossLines_quiet {s : State} (hq : ∀ u, u < 160 → (s.tile u).stores = []) (a : Nat) (ls : List Word) (locs : List Nat) :
    ∃ ds, s.crossLines a ls locs = { s with dies := ds } := by
  unfold State.crossLines
  generalize (locs.map (homeFrom a ls)).eraseDups = hs
  suffices h : ∀ ds, ∃ ds', hs.foldl (fun s h => s.crossWrite a h) { s with dies := ds } = { s with dies := ds' } from h s.dies
  induction hs with
  | nil => exact fun ds => ⟨ds, rfl⟩
  | cons h r ih =>
    intro ds
    have hz : ∀ l : List Nat, (∀ u, u ∈ l → u < 160) → ∀ f : Nat → PendStore → Bool,
        l.foldl (fun (z : State) t => if (z.tile t).stores.any (f t) then z.performThrough t (f t) else z) { s with dies := ds }
          = { s with dies := ds } := by
      intro l hl f
      induction l with
      | nil => rfl
      | cons u l ih2 =>
        rw [List.foldl_cons, show (({ s with dies := ds } : State).tile u).stores = [] from hq u (hl u List.mem_cons_self)]
        exact ih2 fun u hu => hl u (List.mem_cons_of_mem _ hu)
    rw [List.foldl_cons]
    unfold State.crossWrite
    rw [hz _ (fun u hu => by have := (mem_rangeFrom_iff _ _ _).mp hu; omega)]
    exact ih _

/-- A write of at most a page at address 0, where that page is writable memory of a stack awake and no store is in flight, waits
for nothing and is made. -/
theorem first_page_written {s : State} {bs : List Byte} {va l : Word} (h0 : va.toNat = 0) (ht : s.tcache = [])
    (hw : (s.walk 0 0).map (·.1) = some l) (ho : leafOk l = true) (hp : lfW l = true) (hr : resident l = true) (hm : lfMv l = false)
    (hl : lfPfn l * 65536 + 65536 ≤ 0x9000000000) (ha : s.aborts = []) (hq : ∀ u, u < 160 → (s.tile u).stores = [])
    (hd : ∀ d k, (vget ⟨false, [], [], []⟩ (s.die d).hbms k).sr = false) (h1 : 1 ≤ bs.length) (h2 : bs.length ≤ 65536) (a : Nat) :
    s.writeWaits 0 va.toNat bs.length = false ∧ ∃ y, s.writeFrom a 0 va bs = some y := by
  have made : ∀ z : State, z.tcache = [] → (z.walk 0 0).map (·.1) = some l → z.aborts = [] → ∃ y, z.writeVa 0 va bs = some y := by
    intro z ht hw ha
    obtain ⟨locs, hr, hx⟩ := reach_first_page (leaves_first_page ht hw ho) hp hr hl h1 h2
    obtain ⟨e, t, he⟩ : ∃ e t, z.reach 0 0 bs.length true = (e, t) := ⟨_, _, rfl⟩
    have hn : z.badReply 0 0 bs.length true = none := by
      simp only [State.badReply, hr, Bool.not_true, (reply_hbm (va := 0) ha hx).1, Bool.false_and, Bool.false_eq_true, if_false]
    refine Option.isSome_iff_exists.mp ?_
    rw [he] at hr
    rw [State.writeVa, h0, he, show e = .ok locs [l] from hr]
    simp only [hn, Option.isSome_none, Bool.false_eq_true, if_false, Option.isSome_some]
  obtain ⟨locs, hr, hx⟩ := reach_first_page (leaves_first_page ht hw ho) hp hr hl h1 h2
  refine ⟨?_, ?_⟩
  · rw [State.writeWaits, h0, hr]
    simp only [State.held, sr_none hd, (reply_hbm (va := 0) ha hx).2, List.any_cons, List.any_nil, hm, Bool.or_false]
  · rw [State.writeFrom, h0, hr]
    obtain ⟨ds, h⟩ := crossLines_quiet hq a [l] locs
    dsimp only
    rw [h]
    exact made _ ht hw ha

theorem stacks_awake {s : State} (hd : ∀ d, d < 4 → ∀ k, k < 3 → (vget ⟨false, [], [], []⟩ (s.die d).hbms k).sr = false) (d k : Nat) :
    (vget ⟨false, [], [], []⟩ (s.die d).hbms k).sr = false := by
  by_cases h3 : k < 3
  · by_cases h4 : d < 4
    · exact hd d h4 k h3
    · have : s.die d = Die.reset := by rw [State.die, vget, dif_neg h4]
      rw [this]
      have : ∀ k, k < 3 → (vget ⟨false, [], [], []⟩ Die.reset.hbms k).sr = false := by decide +kernel
      exact this k h3
  · rw [vget, dif_neg h3]

theorem image_written {s : State} {x : Box} {kind : Nat} {clear : Bool} (hb : s.box 0 = x) (hx : Plain x) (ht : s.tcache = [])
    (hw : (s.walk 0 0).map (·.1) = some 0xC818000000000100)
    (hd : ∀ d, d < 4 → ∀ k, k < 3 → (vget ⟨false, [], [], []⟩ (s.die d).hbms k).sr = false)
    (ha : s.aborts = []) (hq : ∀ u, u < 160 → (s.tile u).stores = []) (hk : (s.keyOf (s.effIso (boxDie 0) x.rcb)).isNone = false) :
    ∃ n z, s.writeImage 0 [newRank] kind clear = some (n, z) ∧ n < 2 ^ 32 := by
  rw [State.writeImage, hb, if_neg (by rw [hk, Bool.and_false]; decide)]
  dsimp only
  rw [hx.1]
  have hi := image_length hx kind (if clear = true then 0xFFFF else (s.effIso (boxDie 0) x.rcb).toNat) (s.draw.1 % 2 ^ 64)
    s.draw.2.fresh (if clear = true then none else s.keyOf (s.effIso (boxDie 0) x.rcb))
  generalize imageBytes x [newRank] kind _ _ _ _ = r at hi ⊢
  have hv : (({ s.draw.2 with fresh := r.2 } : State).walk 0 0).map (·.1) = some 0xC818000000000100 := by rw [walk_drawn]; exact hw
  obtain ⟨h, y, hy⟩ := first_page_written (s := { s.draw.2 with fresh := r.2 }) (va := 0) rfl ht hv (by decide +kernel)
    (by decide) (by decide) (by decide) (by decide) ha hq (stacks_awake hd) hi.1 hi.2 (boxDie 0)
  rw [if_neg (by rw [h]; decide), hy]
  exact ⟨_, _, rfl, Nat.lt_of_le_of_lt hi.2 (by decide)⟩

theorem imaged_plain : Plain (imaged.box 0) := by unfold Plain; decide +kernel

theorem wit_ImageContents : (List.replicate 128 (0 : Byte)).length % 64 = 0 ∧ [newRank] ≠ [] ∧ [newRank].length ≤ 16 ∧ (1 : Nat) < 256
    ∧ (cSection newRank.ctx).length % 64 = 0 ∧ (imaged.box 0).srSince = none
    ∧ ∀ clear, ∃ n z, imaged.writeImage 0 [newRank] 1 clear = some (n, z) ∧ n < 2 ^ 32 :=
  ⟨by decide +kernel, by decide, by decide, by decide, by rw [length_cSection _ fun e => by cases e <;> decide +kernel], by decide +kernel,
    fun _ => image_written rfl imaged_plain (by decide +kernel) (by decide +kernel) (by decide +kernel) rfl (by decide +kernel) (by decide +kernel)⟩

/-- A save kept by stack 2 of die 0 from time 5 on, whose own latency so far takes it past 20 µs. -/
def keptSave : State := { imaged.updBox 0 fun x => { x with srSince := some (5, 2), spent := 5001 } with timeb := 15005 }

theorem wit_SavesReported : (keptSave.box 0).srSince = some (5, 2) ∧ 5 + 20000 < keptSave.timeb + (keptSave.box 0).spent
    ∧ ∃ n z, keptSave.writeImage 0 [newRank] 1 false = some (n, z) ∧ n < 2 ^ 32 :=
  ⟨by decide +kernel, by decide +kernel, image_written rfl (by unfold Plain; decide +kernel) (by decide +kernel) (by decide +kernel) (by decide +kernel)
    rfl (by decide +kernel) (by decide +kernel)⟩

/-- SWAP and HALT of that box find its work done, its key, and room for its image; without a key they do not, and a move holds HALT. -/
theorem wit_SwapAndHalt : keyed.inv ∧ AtQueue keyed ∧ Commands keyed (packet 0 []) ∧ imaged.settled 0 = true ∧ imaged.pageMoves 1 = false
    ∧ ({ imaged with dies := vput imaged.dies 0 { imaged.die 0 with move := some ⟨1, 0x40000, 1, 0x200⟩ } } : State).pageMoves 1 = true
    ∧ keyed.keyOf (keyed.effIso (boxDie 0) (keyed.box 0).rcb) ≠ none ∧ atQ.keyOf (atQ.effIso (boxDie 0) (atQ.box 0).rcb) = none ∧ atQ.stepOk 0 = false
    ∧ imaged.offRanks 0 1 = .ok [newRank] ∧ (∃ n z, imaged.writeImage 0 [newRank] 1 false = some (n, z))
    ∧ ∃ n z, (keyed.updBox 0 fun x => { x with stopping := true }).haltImage 0 = .ok (n, z) := by
  obtain ⟨n, z, h, _⟩ := image_written (s := imaged) (kind := 1) (clear := false) rfl imaged_plain (by decide +kernel) (by decide +kernel) (by decide +kernel) rfl
    (by decide +kernel) (by decide +kernel)
  obtain ⟨m, y, h2, _⟩ := image_written (s := imaged.draw.2) (kind := 2) (clear := imaged.draw.2.stepOk 0 && imaged.draw.1 % 2 == 1) rfl imaged_plain
    (by decide +kernel) (by decide +kernel) (by decide +kernel) rfl (by decide +kernel) (by decide +kernel)
  have h3 : ∀ s : State, (s.box 0).live = false → (s.box 0).img = false → s.tileRanks 0 1 = [newRank] → s.offRanks 0 1 = .ok [newRank] := by
    intro s h1 h2 h3
    rw [State.offRanks, h1, h2, h3]
    rfl
  have h4 : ∀ s : State, (s.box 0).live = false → (s.box 0).img = false → s.tileRanks 0 2 = [newRank] → s.offRanks 0 2 = .ok [newRank] := by
    intro s h1 h2 h3
    rw [State.offRanks, h1, h2, h3]
    rfl
  refine ⟨by unfold State.inv; decide +kernel, by unfold AtQueue; decide +kernel, by unfold Commands; decide +kernel, by decide +kernel, by decide +kernel,
    by decide +kernel, by decide +kernel, by decide +kernel, by decide +kernel, h3 _ (by decide +kernel) (by decide +kernel) (by decide +kernel),
    ⟨n, z, h⟩, m, y, ?_⟩
  rw [State.haltImage]
  dsimp only
  rw [show (keyed.updBox 0 fun x => { x with stopping := true }).someRank 0 = imaged from rfl,
    h4 imaged.draw.2 (by decide +kernel) (by decide +kernel) (by decide +kernel)]
  have : [newRank].map (fun r => { r with ext := wholeLease ((imaged.box 0).lsize.toNat - (imaged.box 0).lsave.toNat) r.ext }) = [newRank] := by decide +kernel
  dsimp only
  rw [this, h2]

/-! ## Stacks, residency, faults, copies -/

/-- A state with numbers of `n` bytes at addresses of page 0 of address space 1. -/
def withMem (s : State) (l : List (Nat × Nat × Nat)) : State := { s with
  mem := (l.flatMap fun p => (rangeFrom (0x1000000 + p.1) p.2.1).zip (toBytes p.2.1 p.2.2)).foldl (fun m p => m.write p.1 p.2) s.mem }

/-- A read of 64 bytes at PA 0x1000000 and an atomic on the same bytes, of one requester. -/
def stacked : State := atC.updStack 0 (0x1000000 / 4096 % 3) fun x => { x with
  packets := [⟨BitVec.ofNat 128 (1 * 2 ^ 120 + 0x1000000), [], 0, 0⟩, ⟨BitVec.ofNat 128 (3 * 2 ^ 120 + 2 * 2 ^ 84 + 0x1000000), [1, 0, 0, 0], 0, 0⟩,
              ⟨BitVec.ofNat 128 (2 * 2 ^ 120 + 0x1000040), List.replicate 64 1, 0, 0⟩] }

theorem wit_HbmRequests :
    let ps := (stacked.stack 0 1).packets
    stacked.inv ∧ MayApply ps (fun n => n != 2 && n != 3) 0 ∧ MayApply ps (fun n => n == 2) 2 ∧ ¬ MayApply ps (fun n => n == 3) 1
      ∧ (∀ i, ¬ MayApply (atC.stack 0 1).packets (fun _ => true) i) ∧ ps.length = 3 := by
  refine ⟨by unfold State.inv; decide +kernel, ⟨_, rfl, by decide +kernel, by decide +kernel⟩, ⟨_, rfl, by decide +kernel, by decide +kernel⟩, ?_, ?_,
    by decide +kernel⟩
  · rintro ⟨p, h1, _, h3⟩
    have h0 : (stacked.stack 0 1).packets.take 1 = [⟨BitVec.ofNat 128 (1 * 2 ^ 120 + 0x1000000), [], 0, 0⟩] := by decide +kernel
    have h2 : (stacked.stack 0 1).packets[1]? = some ⟨BitVec.ofNat 128 (3 * 2 ^ 120 + 2 * 2 ^ 84 + 0x1000000), [1, 0, 0, 0], 0, 0⟩ := by decide +kernel
    rw [h2] at h1
    cases h1
    have := h3 ⟨BitVec.ofNat 128 (1 * 2 ^ 120 + 0x1000000), [], 0, 0⟩ (by rw [h0]; exact List.mem_singleton.mpr rfl) rfl rfl
    revert this
    decide +kernel
  · rintro i ⟨p, h1, _⟩
    have h0 : (atC.stack 0 1).packets = [] := by decide +kernel
    rw [h0] at h1
    simp at h1

/-- Replies on their way: data, and a negative one of reason 5. -/
def replying : State := atC.updStack 0 1 fun x => { x with
  sr := true, waiting := [⟨0, [], 0, 0⟩]
  replies := [⟨BitVec.ofNat 128 (0x81 * 2 ^ 120), [], 0, 0, 0⟩, ⟨BitVec.ofNat 128 (0xFF * 2 ^ 120 + 5 * 2 ^ 112), [], 0, 0, 0⟩] }

theorem wit_HbmReplies : (replying.stack 0 1).replies ≠ [] ∧ (replying.stack 0 1).sr = true ∧ (atC.stack 0 1).sr = false ∧ (atC.stack 0 1).packets = []
    ∧ replying.tileOf 0 0 = some 0 := by decide +kernel

/-- The loft behind a window, page 5 wanted, and a free frame. -/
def promoting : State := { atC with
  attwin := vput atC.attwin 0 (BitVec.ofNat 128 (2 ^ 63 + 2 ^ 47 + 1))
  want := [(0, 1, 0x50000)]
  dies := vput atC.dies 0 { Die.reset with pool := [0x200] } }

theorem wit_PagesMoveBegins : promoting.inv ∧ (promoting.die 0).move = none ∧ promoting.want.find? (fun p => p.2 == (1, 0x50000)) = some (0, 1, 0x50000)
    ∧ promoting.walk 1 0x50000 = some (0x9018000800000000, 0x20028) ∧ promoting.loc 0x20028 = some 0x20028 ∧ lfTier 0x9018000800000000 = 2
    ∧ movable 0x9018000800000000 = true ∧ (promoting.die 0).pool = 0x200 :: []
    ∧ (∀ u q, u < 160 → q ∈ (promoting.tile u).stores → q.goesTo (promoting.frameLocs 1 0x50000 2 0x800000000) = false) := by
  refine ⟨by unfold State.inv; decide +kernel, by decide +kernel, by decide +kernel, by decide +kernel, by decide +kernel, by decide +kernel,
    by decide +kernel, by decide +kernel, fun u q h hq => ?_⟩
  have h0 : ∀ u, u < 160 → (promoting.tile u).stores = [] := by decide +kernel
  rw [h0 u h] at hq
  cases hq

/-- The move of that page under way. -/
def moving5 : State := promoting.updDie 0 fun d => { d with move := some ⟨1, 0x50000, 1, 0x200⟩ }

theorem nodup_rangeFrom (a n : Nat) : (rangeFrom a n).Nodup := by
  induction n generalizing a with
  | zero => exact List.nodup_nil
  | succ n ih => exact List.nodup_cons.mpr ⟨fun h => by have := (mem_rangeFrom_iff _ _ _).mp h; omega, ih _⟩

theorem frame200 : moving5.frameLocs 1 0x50000 1 0x200 = rangeFrom 0x2000000 65536 := by
  unfold State.frameLocs
  rw [if_neg (by decide)]
  show (rangeFrom 0x2000000 65536).map _ = _
  rw [List.map_congr_left (g := id), List.map_id]
  intro a h
  have h := (mem_rangeFrom_iff _ _ _).mp h
  have : moving5.loc a = some a := by
    unfold State.loc placeOf
    rw [if_pos (by omega)]
  rw [this]
  rfl

theorem mem_frameLocs {s : State} {a f x : Nat} {t : BitVec 2} {p : Word} (ht : t ≠ 3) (hx : x ∈ s.frameLocs a p t f) :
    ∃ y z, f * 65536 ≤ y ∧ y < f * 65536 + 65536 ∧ x = (s.loc y).getD z := by
  unfold State.frameLocs at hx
  rw [if_neg ht] at hx
  obtain ⟨y, hy, rfl⟩ := List.mem_map.mp hx
  have hy := (mem_rangeFrom_iff _ _ _).mp hy
  exact ⟨y, _, hy.1, hy.2, rfl⟩

theorem frameLocs_ne {s : State} {a f : Nat} {t : BitVec 2} {p : Word} (ht : t ≠ 3) : s.frameLocs a p t f ≠ [] := by
  unfold State.frameLocs
  rw [if_neg ht]
  exact List.ne_nil_of_mem <| List.mem_map.mpr ⟨f * 65536, (mem_rangeFrom_iff _ _ _).mpr ⟨by omega, by omega⟩, rfl⟩

/-- A page of the loft lies in memory behind port 0, which answers. -/
theorem frameLoft : ∀ x, x ∈ moving5.frameLocs 1 0x50000 2 0x800000000 → 2 ^ 64 ≤ x ∧ x < 2 ^ 65 := by
  intro x hx
  obtain ⟨a, z, h1, h2, rfl⟩ := mem_frameLocs (by decide) hx
  clear hx
  have hw : moving5.attwin.toList.head? = some (BitVec.ofNat 128 (2 ^ 63 + 2 ^ 47 + 1)) := by decide +kernel
  obtain ⟨r, hr⟩ : ∃ r, moving5.attwin.toList = BitVec.ofNat 128 (2 ^ 63 + 2 ^ 47 + 1) :: r := by
    cases h : moving5.attwin.toList with
    | nil => rw [h] at hw; cases hw
    | cons w r => rw [h] at hw; cases hw; exact ⟨r, rfl⟩
  have hv : winHas (BitVec.ofNat 128 (2 ^ 63 + 2 ^ 47 + 1)) a = true := by
    have h1 : winValid (BitVec.ofNat 128 (2 ^ 63 + 2 ^ 47 + 1)) = true := by decide +kernel
    have h2 : (bits (BitVec.ofNat 128 (2 ^ 63 + 2 ^ 47 + 1)) 24 24).toNat = 0x800000 := by decide +kernel
    have h3 : (bits (BitVec.ofNat 128 (2 ^ 63 + 2 ^ 47 + 1)) 0 24).toNat = 1 := by decide +kernel
    simp only [winHas, h1, h2, h3, Bool.true_and, Bool.and_eq_true, decide_eq_true_eq]
    omega
  have hl : moving5.loc a = some (extLoc (BitVec.ofNat 128 (2 ^ 63 + 2 ^ 47 + 1)) a) := by
    have hp : placeOf a = .loft := by
      unfold placeOf
      rw [if_neg (by omega), if_neg (by simp; omega), if_neg (by simp; omega), if_pos (by simp; omega)]
    simp only [State.loc, hp, State.winOf, hr, List.find?_cons, hv, Option.map_some]
  rw [hl]
  have h4 : (bits (BitVec.ofNat 128 (2 ^ 63 + 2 ^ 47 + 1)) 60 3).toNat = 0 := by decide +kernel
  have h5 : (bits (BitVec.ofNat 128 (2 ^ 63 + 2 ^ 47 + 1)) 92 36).toNat = 0 := by decide +kernel
  have h6 : (bits (BitVec.ofNat 128 (2 ^ 63 + 2 ^ 47 + 1)) 24 24).toNat = 0x800000 := by decide +kernel
  rw [Option.getD_some]
  unfold extLoc winTarget
  rw [h4, h5, h6]
  dsimp only
  rw [if_neg (by decide), if_neg (by decide)]
  generalize hb : a - 0x800000 * 2 ^ 28 = c
  have hc : c < 65536 := by omega
  clear hb h1 h2 hl hv hr hw
  omega

/-- The bytes of that page answer, with nothing aborted and no error. -/
theorem reply_loft {s : State} {locs : List Nat} {va : Nat} {r : Bool} (ha : s.aborts = []) (hu : s.ues = []) (hl : s.links.getLsbD 0 = true)
    (h : ∀ x, x ∈ locs → 2 ^ 64 ≤ x ∧ x < 2 ^ 65) : s.reply va locs r = none ∧ locs.any s.midBeat = false := by
  have hn : locs.any s.noAnswer = false := by
    refine List.any_eq_false.mpr fun x hx => ?_
    have hx := h x hx
    have h0 : x / 2 ^ 64 = 1 := by omega
    have h1 : ¬ 2 ^ 99 ≤ x := by omega
    simp only [State.noAnswer, State.linkUp, h0, ha, h1, hl, decide_false, Bool.false_and, Bool.not_true, List.contains_nil, Bool.or_false,
      Bool.false_eq_true, not_false_eq_true]
  have hb : ∀ (p : Nat → Bool), locs.any (fun l => s.ues.contains l && p l) = false := fun p => by
    rw [List.any_eq_false]
    intro x _
    simp [hu]
  refine ⟨?_, List.any_eq_false.mpr fun x hx => ?_⟩
  · rw [State.reply]
    simp only [hn, hb, Bool.and_false, Bool.false_eq_true, if_false]
  · have hx := h x hx
    have : placeOf x = .unmapped := by
      unfold placeOf
      rw [if_neg (by omega), if_neg (by simp; omega), if_neg (by simp; omega), if_neg (by simp; omega)]
    simp only [State.midBeat, this, Bool.false_eq_true, not_false_eq_true]

theorem frame200_low : ∀ x, x ∈ moving5.frameLocs 1 0x50000 1 0x200 → x < 0x9000000000 := by
  rw [frame200]
  intro x hx
  have hx := (mem_rangeFrom_iff _ _ _).mp hx
  omega

/-- Nothing of that move is awaited. -/
theorem moveFree (s : State) (h : s.dies = moving5.dies) :
    ¬ Awaited s (moving5.frameLocs 1 0x50000 2 0x800000000 ++ moving5.frameLocs 1 0x50000 1 0x200) := by
  rintro (hs | ⟨l, u, off, hl, hp, _⟩)
  · have hd : ∀ d, s.die d = moving5.die d := fun d => by rw [State.die, State.die, h]
    have ha : ∀ d, d < 4 → ∀ k, k < 3 → (vget ⟨false, [], [], []⟩ (moving5.die d).hbms k).sr = false := by decide +kernel
    rw [sr_none (stacks_awake fun d h1 k h2 => by rw [hd]; exact ha d h1 k h2)] at hs
    cases hs
  · rcases List.mem_append.mp hl with hl | hl
    · have hx := frameLoft l hl
      unfold placeOf at hp
      rw [if_neg (by omega), if_neg (by simp; omega), if_neg (by simp; omega), if_neg (by simp; omega)] at hp
      cases hp
    · rw [place_hbm (frame200_low l hl)] at hp
      cases hp

theorem wit_PagesMoveEnds : (moving5.die 0).move = some ⟨1, 0x50000, 1, 0x200⟩ ∧ moving5.walk 1 0x50000 = some (0x9018000800000000, 0x20028)
    ∧ moving5.dirty = [] ∧ TableApart moving5 1 0x50000 0x20028 (moving5.frameLocs 1 0x50000 1 0x200) ∧ (moving5.frameLocs 1 0x50000 1 0x200).Nodup
    ∧ ¬ Awaited moving5 (moving5.frameLocs 1 0x50000 2 0x800000000 ++ moving5.frameLocs 1 0x50000 1 0x200)
    ∧ moving5.reply 0 (moving5.frameLocs 1 0x50000 2 0x800000000) true = none ∧ moving5.reply 0 (moving5.frameLocs 1 0x50000 1 0x200) false = none := by
  refine ⟨by decide +kernel, by decide +kernel, by decide +kernel, ?_, by rw [frame200]; exact nodup_rangeFrom _ _, moveFree _ rfl,
    (reply_loft rfl rfl (by decide +kernel) frameLoft).1, (reply_hbm rfl frame200_low).1⟩
  rw [frame200]
  refine ⟨0, 0x10000, by decide +kernel, by decide +kernel, by decide +kernel, by decide +kernel, ?_⟩
  intro a h y hy
  have h := (mem_rangeFrom_iff _ _ _).mp h
  rcases hy with rfl | rfl | rfl <;> omega

/-- The same with port 0 down, whose page gets a negative reply, and with a stack of the frame asleep. -/
theorem wit_PagesMoveStays :
    let s := { moving5 with links := 0 }
    ¬ Awaited s (s.frameLocs 1 0x50000 2 0x800000000 ++ s.frameLocs 1 0x50000 1 0x200) ∧ s.reply 0 (s.frameLocs 1 0x50000 2 0x800000000) true ≠ none
      ∧ Awaited (moving5.updStack 0 2 fun x => { x with sr := true })
          ((moving5.updStack 0 2 fun x => { x with sr := true }).frameLocs 1 0x50000 2 0x800000000
            ++ (moving5.updStack 0 2 fun x => { x with sr := true }).frameLocs 1 0x50000 1 0x200) := by
  refine ⟨moveFree _ rfl, ?_, ?_⟩
  · show State.reply { moving5 with links := 0 } 0 (moving5.frameLocs 1 0x50000 2 0x800000000) true ≠ none
    have hm : (moving5.frameLocs 1 0x50000 2 0x800000000) ≠ [] := frameLocs_ne (by decide)
    obtain ⟨x, r, hx⟩ := List.exists_cons_of_ne_nil hm
    have hb := frameLoft x (by rw [hx]; exact List.mem_cons_self)
    have h0 : x / 2 ^ 64 = 1 := by omega
    have h1 : State.noAnswer { moving5 with links := 0 } x = true := by
      simp only [State.noAnswer, State.linkUp, h0]
      simp
    rw [State.reply, hx, List.any_cons, h1, Bool.true_or, if_pos rfl]
    exact Option.some_ne_none _
  · refine .inl (List.any_eq_true.mpr ⟨0x2000000, List.mem_append_right _ ?_, by decide +kernel⟩)
    show 0x2000000 ∈ moving5.frameLocs 1 0x50000 1 0x200
    rw [frame200]
    exact (mem_rangeFrom_iff _ _ _).mpr ⟨by omega, by omega⟩

/-- A die whose request came second does not begin the move. -/
theorem wit_FirstRequest :
    let s := { promoting with want := [(1, 1, 0x50000), (0, 1, 0x50000)] }
    (∃ pre post, promoting.want = pre ++ (0, 1, 0x50000) :: post ∧ ∀ e, (e, 1, 0x50000) ∉ pre)
      ∧ (0, 1, 0x50000) ∈ s.want ∧ ¬ ∃ pre post, s.want = pre ++ (0, 1, 0x50000) :: post ∧ ∀ e, (e, 1, 0x50000) ∉ pre := by
  refine ⟨⟨[], [], rfl, fun _ => List.not_mem_nil⟩, List.mem_cons_of_mem _ List.mem_cons_self, ?_⟩
  rintro ⟨pre, post, h, hp⟩
  cases pre with
  | nil => cases h
  | cons a pre =>
    obtain ⟨rfl, _⟩ := List.cons_eq_cons.mp h
    exact hp 1 List.mem_cons_self

theorem wit_WakeSets : (let x := (parkedFor 10).box 0; let y := { x with pwake := 50100 }
      (y.state = .parked ∨ y.state = .swapped) ∧ y.pwake ≠ 0 ∧ y.pwake.toNat ≤ (parkedFor 10).timeb + ((parkedFor 10).die 0).rselead.toNat)
    ∧ ¬ ((50101 : Word).toNat ≤ (parkedFor 10).timeb + ((parkedFor 10).die 0).rselead.toNat) := by decide +kernel

/-- The die below its low mark, its moves free, and a loft frame free. -/
theorem wit_Demotion :
    let s := atC.updDie 0 fun d => { d with rselow := 1, loftPool := [0x800000000] }
    s.cur.at_ < 4 ∧ (s.die 0).move = none ∧ (s.die 0).pool.length < (s.die 0).rselow.toNat ∧ (s.die 0).loftPool = 0x800000000 :: []
      ∧ (atC.die 0).rselow.toNat ≤ (atC.die 0).pool.length := by decide +kernel

/-- An entry of a table that is valid is among its entries. -/
theorem mem_tableEntries {s : State} {pa n i : Nat} {w : Word} (h : i < n) (hw : s.paWord (pa + 8 * i) = w) (hv : w.getLsbD 63 = true) :
    (i, w) ∈ s.tableEntries pa n := by
  subst hw
  rw [State.tableEntries, List.mem_filterMap]
  exact ⟨i, (mem_rangeFrom_iff _ _ _).mpr ⟨by omega, by omega⟩, by simp only [hv, if_true]⟩

/-- Page 6 of a parked context, in HBM and not pinned, which the die may move out. -/
def crowded : State := { atQ with
  mem := ((rangeFrom 0x20030 8).zip (toBytes 8 0x8818000000000105)).foldl (fun m p => m.write p.1 p.2) atQ.mem
  dies := vput atQ.dies 0 { atQ.die 0 with rselow := 1 } }

theorem wit_Victims : crowded.demotable 0 ≠ [] ∧ (crowded.die 0).move = none ∧ (crowded.die 0).pool.length < (crowded.die 0).rselow.toNat
    ∧ (∀ u, u < 160 → (crowded.tile u).stores = []) := by
  refine ⟨?_, by decide +kernel, by decide +kernel, by decide +kernel⟩
  have h1 : ((crowded.boxes.map fun p => p.2.asid.toNat).eraseDups) = [1] := by decide +kernel
  have h2 : (0x60000, 0x8818000000000105) ∈ crowded.mappedPages 1 := by
    have h3 : (sget ⟨false, 0⟩ crowded.asids 1) = ⟨true, 0⟩ := by decide +kernel
    rw [State.mappedPages, h3, if_neg (by decide)]
    exact List.mem_flatMap.mpr ⟨(0, 0x8000000000000001), mem_tableEntries (by decide) (by decide +kernel) (by decide),
      List.mem_flatMap.mpr ⟨(0, 0x8000000000000002), mem_tableEntries (by decide) (by decide +kernel) (by decide),
        List.mem_map.mpr ⟨(6, 0x8818000000000105), mem_tableEntries (by decide) (by decide +kernel) (by decide), rfl⟩⟩⟩
  refine List.ne_nil_of_mem (a := ⟨1, 0x60000, false, false, 0⟩) ?_
  rw [State.demotable, h1]
  refine List.mem_flatMap.mpr ⟨1, List.mem_singleton.mpr rfl, ?_⟩
  rw [if_neg (by decide +kernel)]
  exact List.mem_filterMap.mpr ⟨_, h2, by decide +kernel⟩

/-- A record of kind `k` of box 0, posted at index 7 of core 1. -/
def record (k : Nat) : FaultRec := ⟨0, 1, k, 0xFF, 0, 1, 0x10000, 0, 0, some (0, 1, 7)⟩
def faulted (k : Nat) : State := (atC.updBox 0 fun x => { x with faults := [record k] }).updDie 0 fun d =>
  { d with cores := vput d.cores 1 ⟨0x20000, 6, 0, 0, [record k]⟩ }

theorem wit_FaultRecords : (faulted 3).inv ∧ (faulted 3).findRecord 0 1 7 = some (record 3) ∧ (faulted 8).findRecord 0 1 7 = some (record 8)
    ∧ (faulted 1).findRecord 0 1 7 = some (record 1) ∧ (faulted 3).findRecord 0 1 8 = none
    ∧ (vget ⟨0, 0, 0, 0, []⟩ ((faulted 3).die 0).cores 1).waiting = record 3 :: [] ∧ (vget ⟨0, 0, 0, 0, []⟩ ((faulted 3).die 0).cores 0).waiting = []
    ∧ ((faulted 3).putRing 0 0x20000 6 0 0 6 16 4096 (faultBytes { record 3 with time := BitVec.ofNat 64 (faulted 3).timeb })).isSome = true
    ∧ record 3 ∈ ((faulted 3).box 0).faults := by
  unfold State.inv; decide +kernel

/-- A RAS record that waits for a log of 64 records at `va`, whose slots are the number `prod` and, from `cons` on, taken. -/
def logging (va : Word) (prod : BitVec 32) : State := { atC.updDie 0 (fun d => { d with
  ras := ⟨va, 6, prod, 0, 0⟩, records := [⟨0xD8, 0, 0x6000, 5, 7⟩] }) with agenda := [.record 0] }

/-- The record written, one whose log is full or cannot be written, and one that waits for its page. -/
theorem wit_RecordsReachTheirLog :
    (logging 0x20000 63).agenda = .record 0 :: [] ∧ ((logging 0x20000 63).die 0).records = ⟨0xD8, 0, 0x6000, 5, 7⟩ :: [] ∧ ((logging 0x20000 63).die 0).records ≠ []
      ∧ (State.reset.die 0).records = [] ∧ (logging 0x20000 63).writeWaits 0 (0x20000 + 32 * 63) 32 = false ∧ (63 : BitVec 32).toNat ≠ 2 ^ (6 : BitVec 5).toNat
      ∧ (((logging 0x20000 63).updDie 0 fun d => { d with records := [] }).writeFrom 0 0 (0x20000 + 32 * 63) (List.replicate 32 1)).isSome = true
      ∧ (64 : BitVec 32).toNat = 2 ^ (6 : BitVec 5).toNat ∧ (logging 0x20000 64).writeWaits 0 0x20000 32 = false
      ∧ (logging 0x40000 0).writeWaits 0 0x40000 32 = true ∧ (logging 0x10000 0).writeWaits 0 0x10000 32 = false
      ∧ ((logging 0x10000 0).writeFrom 0 0 0x10000 (List.replicate 32 1)) = none := by decide +kernel

/-- A COPY of two rows of 16 bytes from 0 to 0x1000. -/
def copyRaw : BitVec 512 := BitVec.ofNat 512 (1 * 2 ^ 56 + 1 * 2 ^ 52 + 0x1000 * 2 ^ 128 + 15 * 2 ^ 424 + 64 * 2 ^ 448 + 64 * 2 ^ 472 + 1 * 2 ^ 496)
def copyCmd : Cmd := ⟨0, copyRaw, 0, [], [], false, false, false, [], [], []⟩
def copying : State := bound 2 |>.updChain 0 1 fun x => { x with cmds := [copyCmd] }

theorem readVa_of {s : State} {asid : Nat} {va : Word} {n : Nat} (h : (s.readVa asid va n).isSome = true) : ∃ b, s.readVa asid va n = some b :=
  Option.isSome_iff_exists.mp h

theorem wit_CopyFetch :
    let s := withMem (bound 2) [(0x1000, 64, copyRaw.toNat)]
    s.inv ∧ (s.chain 0 1).reported = (s.chain 0 1).complete ∧ s.mayFetch 0 1 = true ∧ (bound 0).mayFetch 0 1 = false
      ∧ (s.readVa 1 0x1000 64).map (BitVec.ofNat 512 <| ofBytes ·) = some copyRaw ∧ copyCmd.sound = true ∧ copyCmd.nm1 < 2 ∧ copyCmd.lay = 0
      ∧ ({ copyCmd with raw := 0 } : Cmd).sound = false ∧ (s.chain 0 1).cmds = []
      ∧ s.mustWait 1 0x1000 64 false = false ∧ (s.updStack 0 2 fun x => { x with sr := true }).mustWait 1 0x1000 64 false = true
      ∧ (((bound 2).updChain 0 1 fun x => { x with base := 0x10000 }).readVa 1 0x10000 64) = none := by
  unfold State.inv; decide +kernel

/-- A MARK after a command, finished or not. -/
def markAfter (f : Bool) : State := (bound 0).updChain 0 1 fun x => { x with
  cmds := [{ copyCmd with finished := f }, ⟨1, BitVec.ofNat 512 (4 * 2 ^ 56), 0, [], [], false, false, false, [], [], []⟩] }

theorem wit_Mark :
    let m : Cmd := ⟨1, BitVec.ofNat 512 (4 * 2 ^ 56), 0, [], [], false, false, false, [], [], []⟩
    ((markAfter true).chain 0 1).cmds.find? (·.k == 1) = some m ∧ m.op = 4 ∧ m.finished = false
      ∧ (∀ e, e ∈ ((markAfter true).chain 0 1).cmds → e.k < 1 → e.finished = true) ∧ ¬ (∀ e, e ∈ ((markAfter false).chain 0 1).cmds → e.k < 1 → e.finished = true)
      ∧ (markAfter true).tileOf 0 m.rank = some 0
      ∧ ((bound 0).updPair 0 3 fun p => { p with flying := [⟨1, 2, 3⟩] }).pair 0 3 = ⟨true, 1, 1, 0, 2, 1, 2, [], [⟨1, 2, 3⟩]⟩ := by decide +kernel

theorem wit_CopyPieces :
    let s := copying
    let p : Piece := ⟨0, 0x1000, 16, none, 0, 0⟩
    let sl := rangeFrom 0x1000000 16
    let dl := rangeFrom 0x1001000 16
    s.inv ∧ (s.chain 0 1).cmds.find? (·.k == 0) = some copyCmd ∧ ¬ PieceRests s 0 1 copyCmd 0 ∧ copyCmd.begun = false
      ∧ (∀ u, u < 160 → (s.tile u).stores = []) ∧ copyCmd.piece 0 = some p ∧ p.gi = none ∧ copyCmd.lay = 0 ∧ copyCmd.op ≠ 3
      ∧ (s.reach 1 p.src.toNat p.n false).1 = .ok sl [0xC818000000000100] ∧ (s.reach 1 p.dst.toNat p.n true).1 = .ok dl [0xC818000000000100]
      ∧ lfMv 0xC818000000000100 = false ∧ s.held (sl ++ dl) = false ∧ copyCmd.fe = false ∧ s.sramUe sl = none ∧ s.reply 0 sl true = none
      ∧ s.reply 0x1000 dl false = none ∧ (∀ a, a ∈ sl → a ∉ dl) ∧ dl.Nodup ∧ copyCmd.bar = false
      ∧ copyCmd.done.length + 1 < copyCmd.pieces.length + copyCmd.extra.length := by
  unfold State.inv PieceRests; decide +kernel

/-- What a piece to or from the window of tile 0 waits for: the words of its beat, a requester that has written in it and comes after
engine 0, and an empty granule. -/
theorem wit_PiecesWait :
    let l := rangeFrom 0x1000000000000 16
    (copying.updTile 0 fun x => { x with issued := 1 }).held l = true ∧ copying.held l = false ∧ placeOf 0x1000000000000 = .window 0 0
      ∧ ((copying.chain 0 1).eng.toNat + 1 < ((copying.updTile 0 fun x => { x with order := 65 }).tile 0).order)
      ∧ ¬ ((copying.chain 0 1).eng.toNat + 1 < (copying.tile 0).order) ∧ copying.emptyAt 0x1000000000000 = true
      ∧ (let z := { copying with aborts := [0x1000000] }; z.reply 0 (rangeFrom 0x1000000 16) true ≠ none ∧ z.sramUe (rangeFrom 0x1000000 16) = none)
      ∧ (let z := { copying with ues := [0x1000000000004] }; z.sramUe l ≠ none)
      ∧ (let z := { copying with aborts := [0x1001000] }; z.reply 0 (rangeFrom 0x1000000 16) true = none ∧ z.reply 0x1000 (rangeFrom 0x1001000 16) false ≠ none) := by
  decide +kernel

/-! ## The units -/

/-- A read by a unit that succeeds, with a property of its bytes. -/
theorem unit_ok {x : Except UnitErr (List Byte) × State} (p : List Byte → Bool) (h : x.1.toOption.any p = true) : ∃ b, x = (.ok b, x.2) ∧ p b = true := by
  obtain ⟨e, t⟩ := x
  cases e with
  | error e => simp [Except.toOption] at h
  | ok b => exact ⟨b, rfl, by simpa [Except.toOption] using h⟩

/-- The oldest command of unit `u` of die 0, of rank 0 of box 0. -/
def atU (u : Nat) : State := { atC with cur := { atC.cur with sub := u } }

/-- A greedy SAMPLE of one row of two tokens with the descriptor at 0x100 and the result at 0x1000. -/
def sampleCmd : SluCmd := ⟨0, 1, 2, 0, 0, 0x1000, 0x100, 64, 0, 0x3F800000, 0x3F800000, 0, 0⟩

theorem wit_UnitFields : AtUnit (atU 5) ∧ SluFields sampleCmd true ∧ ToppFits sampleCmd ∧ ¬ SluFields { sampleCmd with topk := 65 } true
    ∧ SluFields { sampleCmd with topk := 64, base := 16777213 } true ∧ ¬ SluFields { sampleCmd with base := 16777214 } true
    ∧ ¬ ToppFits { sampleCmd with topp := 0 } := by
  unfold AtUnit SluFields ToppFits; decide +kernel

theorem wit_SampleChooses : AtUnit (atU 0) ∧ SluFields sampleCmd true ∧ ToppFits sampleCmd ∧ sampleCmd.nrow = 1 ∧ sampleCmd.aux = 0
    ∧ ∃ d s1, UnitReads (atU 0) s1 sampleCmd.desc 32 d ∧ BitVec.ofNat 64 (fieldOf d 16 8) = 0
      ∧ ∃ s2 ls ws, RowRead s1 s2 sampleCmd sampleCmd.src (BitVec.ofNat 64 (fieldOf d 16 8)) ls ws := by
  refine ⟨by unfold AtUnit; decide +kernel, by unfold SluFields; decide +kernel, by unfold ToppFits; decide +kernel, by decide +kernel, by decide +kernel, ?_⟩
  obtain ⟨d, h1, h2⟩ := unit_ok (x := ((unitRead 0x100 32).run).run (atU 0)) (fun d => fieldOf d 16 8 == 0) (by decide +kernel)
  obtain ⟨b, h3, _⟩ := unit_ok (x := ((unitRead 0 8).run).run (((unitRead 0x100 32).run).run (atU 0)).2) (fun _ => true) (by decide +kernel)
  have h4 : BitVec.ofNat 64 (fieldOf d 16 8) = 0 := by rw [beq_iff_eq.mp h2]; rfl
  exact ⟨d, _, h1, h4, _, _, _, b, _, h3, rfl, .inl ⟨h4, rfl, rfl⟩⟩

/-- A unit's read and write that are served, and a read that a stack asleep or an absent page keeps from its bytes. -/
theorem wit_UnitAccesses :
    let s := atU 0
    (s.reach 1 0x100 32 false).1 = .ok (rangeFrom 0x1000100 32) [0xC818000000000100] ∧ s.held (rangeFrom 0x1000100 32) = false
      ∧ (s.reach 1 0x100 32 false).2.badReply 1 0x100 32 false = none ∧ s.writeWaits 1 0x20100 8 = false ∧ s.badReply 1 0x20100 8 true = none
      ∧ (s.writeFrom 0 1 0x20100 (List.replicate 8 1) false).isSome = true
      ∧ (s.updStack 0 1 fun x => { x with sr := true }).held (rangeFrom 0x1000100 32) = true
      ∧ okAccess (s.reach 1 0x10000 32 false).1 = false
      ∧ (let z := { s with ues := [0x1000100] }; (z.reach 1 0x100 32 false).2.badReply 1 0x100 32 false ≠ none) := by decide +kernel

/-- Rows with a NaN, with no token left, and with a finite token. -/
theorem wit_Rows : ¬ (f32 (logitOf sampleCmd [0x3F800000, 0x7FC00000] [0, 0] 0) = .nan) ∧ f32 (logitOf sampleCmd [0x3F800000, 0x7FC00000] [0, 0] 1) = .nan
    ∧ f32 (logitOf sampleCmd [0xFF800000] [0] 0) = .inf true := by decide +kernel

/-- A shortlist command, a merge of one shortlist of zeros, and a verify of a tree of the root alone. -/
def shortCmd : SluCmd := { sampleCmd with topp := 0 }
def mergeCmd : SluCmd := { sampleCmd with vocab := 0, src := 0x800 }
def verifyCmd : SluCmd := { sampleCmd with nrow := 0, aux := 0x400 }
def verifying : State := withMem { atU 0 with regions := [{ rootAt 0x40 with templates := [(0, [(0xFF, 0)])] }] } [(0x400, 8, 1)]

theorem wit_ShardsAndVerdicts : SluFields shortCmd true ∧ shortCmd.nrow = 1 ∧ shortCmd.topk = 0 ∧ shortCmd.topp = 0 ∧ SluFields mergeCmd false ∧ ToppFits mergeCmd
    ∧ mergeCmd.base = 0 ∧ mergeCmd.mode.getLsbD 0 = false ∧ SluFields verifyCmd true ∧ ToppFits verifyCmd ∧ verifyCmd.aux.toNat % 64 = 0
    ∧ verifying.template (boxDie 0) (verifying.box 0).rcb 0 = some [(0xFF, 0)] ∧ verifying.template (boxDie 0) (verifying.box 0).rcb 1 = none := by
  unfold SluFields ToppFits; decide +kernel

theorem wit_ShardReads : ∃ d s1 b s2 w s3, UnitReads verifying s1 0x100 32 d ∧ UnitReads s1 s2 0x800 576 b ∧ fieldOf b 0x20C 4 ≠ 6 ∧ UnitReads s1 s3 0x400 272 w
    ∧ fieldOf w 0 8 % 2 = 1 := by
  obtain ⟨d, h1, _⟩ := unit_ok (x := ((unitRead 0x100 32).run).run verifying) (fun _ => true) (by decide +kernel)
  obtain ⟨b, h3, h4⟩ := unit_ok (x := ((unitRead 0x800 576).run).run (((unitRead 0x100 32).run).run verifying).2) (fun b => fieldOf b 0x20C 4 != 6) (by decide +kernel)
  obtain ⟨w, h5, h6⟩ := unit_ok (x := ((unitRead 0x400 272).run).run (((unitRead 0x100 32).run).run verifying).2) (fun w => fieldOf w 0 8 % 2 == 1) (by decide +kernel)
  exact ⟨d, _, b, _, w, _, h1, h3, by simpa using h4, h5, by simpa using h6⟩

/-- A COMPACT of one accepted token of one layer, its verdict at 0x200 and its table at 0x400. -/
def compactCmd : CmeCmd := ⟨0, 1, 16, 0, 0x1000, 0x200, 16, 0, 0x400, 16, 0, 0⟩
def compacting : State := withMem (atU 4) [(0x200, 8, 2 ^ 63), (0x210, 1, 1), (0x400, 8, 0x2000)]

theorem wit_CompactCopies : AtUnit compacting ∧ compactCmd.z1 = 0 ∧ compactCmd.z2 = 0 ∧ 1 ≤ compactCmd.nlay.toNat ∧ compactCmd.tb.toNat % 16 = 0 ∧ 16 ≤ compactCmd.tb.toNat
    ∧ 1 ≤ compactCmd.tpp.toNat ∧ compactCmd.res.toNat % 8 = 0
    ∧ ∃ v s1 pg s2, UnitReads compacting s1 0x200 128 v ∧ fieldOf v 0 8 / 2 ^ 63 = 1 ∧ fieldOf v 0 8 / 2 ^ 56 % 128 ≤ 1 ∧ fieldOf v 0x10 1 = 1
      ∧ (fieldOf v 0x14 4 + 1) / 16 = 0 ∧ UnitReads s1 s2 0x400 8 pg ∧ ofBytes pg = 0x2000 := by
  refine ⟨by unfold AtUnit; decide +kernel, by decide +kernel, by decide +kernel, by decide +kernel, by decide +kernel, by decide +kernel, by decide +kernel,
    by decide +kernel, ?_⟩
  obtain ⟨v, h1, h2⟩ := unit_ok (x := ((unitRead 0x200 128).run).run compacting) (fun v => decide (fieldOf v 0 8 / 2 ^ 63 = 1 ∧ fieldOf v 0 8 / 2 ^ 56 % 128 ≤ 1
    ∧ fieldOf v 0x10 1 = 1 ∧ (fieldOf v 0x14 4 + 1) / 16 = 0)) (by decide +kernel)
  obtain ⟨pg, h3, h4⟩ := unit_ok (x := ((unitRead 0x400 8).run).run (((unitRead 0x200 128).run).run compacting).2) (fun b => ofBytes b == 0x2000) (by decide +kernel)
  have h2 := of_decide_eq_true h2
  exact ⟨v, _, pg, _, h1, h2.1, h2.2.1, h2.2.2.1, h2.2.2.2, h3, by simpa using h4⟩

/-- A BACKFILL of one entry of 16 bytes in the tile window, its list at 0x600; the entry queued. -/
def backCmd : BfeCmd := ⟨0, 1, 0, 0x600, 0x1000, 0, 0, 1, 0⟩
def backing : State := withMem { atU 5 with blocks := [aBlock] } [(0x60C, 4, 16), (0x610, 8, 0x20000)]

theorem wit_BackfillQueues : AtUnit backing ∧ backCmd.nent = 1 ∧ backCmd.list.toNat % 8 = 0 ∧ (backing.box 0).state ≠ .free
    ∧ (∃ k, backing.block 1 = some k ∧ k.asid = (backing.box 0).asid)
    ∧ ∃ raw s1, UnitReads backing s1 0x600 32 raw ∧ fieldOf raw 8 2 = fieldOf raw 10 2 ∧ fieldOf raw 12 4 = 16 ∧ fieldOf raw 16 8 = 0x20000
      ∧ fieldOf raw 24 4 % 16 = 0 ∧ fieldOf raw 28 4 = 0 ∧ (s1.reach 1 0x20000 16 false).1 = .ok (rangeFrom 0x1000000000000 16) [0xA018000100000000]
      ∧ (s1.reach 1 0x20000 16 false).2.held (rangeFrom 0x1000000000000 16) = false ∧ ((s1.reach 1 0x20000 16 false).2.tile 0).start = none
      ∧ placeOf 0x1000000000000 = .window 0 0 ∧ ((backing.die 0).backfill.length + 1 ≤ 4096) := by
  refine ⟨by unfold AtUnit; decide +kernel, by decide +kernel, by decide +kernel, by decide +kernel, ⟨_, rfl, by decide +kernel⟩, ?_⟩
  obtain ⟨raw, h1, h2⟩ := unit_ok (x := ((unitRead 0x600 32).run).run backing) (fun raw => decide (fieldOf raw 8 2 = fieldOf raw 10 2 ∧ fieldOf raw 12 4 = 16
    ∧ fieldOf raw 16 8 = 0x20000 ∧ fieldOf raw 24 4 % 16 = 0 ∧ fieldOf raw 28 4 = 0)) (by decide +kernel)
  have h2 := of_decide_eq_true h2
  exact ⟨raw, _, h1, h2.1, h2.2.1, h2.2.2.1, h2.2.2.2.1, h2.2.2.2.2, by decide +kernel, by decide +kernel, by decide +kernel, by decide +kernel, by decide +kernel⟩

/-- An entry with LLAST below LFIRST, GLEN off 16 or a zero word that is not zero; and a window between the words of its tile's beat. -/
theorem wit_BackfillStops :
    (let bad := fun (l : List (Nat × Nat × Nat)) => ((rangeFrom 0x1000600 32).map (withMem backing l).mem.read)
     fieldOf (bad [(0x608, 2, 1)]) 10 2 < fieldOf (bad [(0x608, 2, 1)]) 8 2 ∧ fieldOf (bad [(0x60C, 4, 8)]) 12 4 % 16 ≠ 0
       ∧ fieldOf (bad [(0x61C, 4, 1)]) 28 4 ≠ 0)
    ∧ (let s := backing.updTile 0 fun x => { x with issued := 1 }
       AtUnit s ∧ ∃ raw s1, UnitReads s s1 0x600 32 raw ∧ fieldOf raw 12 4 = 16 ∧ fieldOf raw 16 8 = 0x20000
         ∧ (s1.reach 1 0x20000 16 false).1 = .ok (rangeFrom 0x1000000000000 16) [0xA018000100000000]
         ∧ (s1.reach 1 0x20000 16 false).2.held (rangeFrom 0x1000000000000 16) = true) := by
  refine ⟨by decide +kernel, by unfold AtUnit; decide +kernel, ?_⟩
  obtain ⟨raw, h1, h2⟩ := unit_ok (x := ((unitRead 0x600 32).run).run (backing.updTile 0 fun x => { x with issued := 1 }))
    (fun raw => decide (fieldOf raw 12 4 = 16 ∧ fieldOf raw 16 8 = 0x20000)) (by decide +kernel)
  have h2 := of_decide_eq_true h2
  exact ⟨raw, _, h1, h2.1, h2.2, by decide +kernel, by decide +kernel⟩

theorem wit_BackfillDispatches :
    let e : BackEntry := ⟨0, 0, 0, 1, 0, false⟩
    let s := { offering with dies := vput offering.dies 0 { Die.reset with backfill := [e] } }
    s.inv ∧ (s.die 0).backfill.find? (fun e => !e.running) = some e ∧ ((s.die 0).backfill.filter (·.running)).length < 16 ∧ (s.box 0).queue.length < 64
      ∧ (s.box 0).state ≠ .free ∧ s.block 1 = some aBlock ∧ aBlock.asid = (s.box 0).asid ∧ s.admits 0 aBlock = true := by
  unfold State.inv; decide +kernel

/-! ## Commands of the package -/

theorem wit_AddressSpaceCommands :
    let inv := quiet 0 [(0x10, 1), (0x18, 0x1FFFF), (0x20, 65536)]
    let root := fun v (a : Nat) => quiet 0 [(0x10, 2), (0x12, v), (0x18, a)]
    let trk := fun log (va : Nat) => quiet 0 [(0x10, 1), (0x12, log), (0x13, 1), (0x18, va)]
    atQ.inv ∧ AtQueue atQ ∧ inv.compl.toNat % 8 = 0 ∧ opnd inv 0x20 4 = 65536 ∧ opnd inv 0x18 8 / 65536 = 1 ∧ opnd (quiet 0 []) 0x20 4 = 0
      ∧ opnd (root 1 (2 ^ 52 - 2 ^ 18)) 0x18 8 < 2 ^ 52 ∧ opnd (root 1 (2 ^ 52 - 2 ^ 18)) 0x18 8 % 2 ^ 18 = 0 ∧ opnd (root 1 (2 ^ 17)) 0x18 8 % 2 ^ 18 ≠ 0
      ∧ opnd (root 2 0) 0x12 1 = 2 ∧ (∃ q, q ∈ atQ.boxes ∧ q.2.state ≠ .free ∧ q.2.asid.toNat = 1)
      ∧ ¬ (∃ q, q ∈ atQ.boxes ∧ q.2.state ≠ .free ∧ q.2.asid.toNat = opnd (root 0 0) 0x10 2)
      ∧ opnd (trk 20 0x1000) 0x13 1 = 1 ∧ opnd (trk 20 0x1000) 0x12 1 = 20 ∧ opnd (trk 21 0) 0x12 1 = 21 ∧ opnd (trk 6 0x1020) 0x18 8 % 64 ≠ 0
      ∧ okAccess (atQ.reach 0 0x10000 16 true).1 = false ∧ okAccess (atQ.reach 0 0x20000 16 true).1 = true
      ∧ (atQ.reach 0 0x20000 16 true).2.writeWaits 0 0x20000 16 = false
      ∧ ((atQ.reach 0 0x20000 16 true).2.writeFrom 0 0 0x20000 (List.replicate 16 0)).isSome = true := by
  unfold State.inv AtQueue; decide +kernel

theorem wit_RootCommand : RootCommand atQ (quiet 0 []) ∧ ¬ RootCommand atQ { packet 0 [] with compl := 4 }
    ∧ ¬ RootCommand { atQ with regions := [{ rootAt 0x40 with root := false }] } (quiet 0 []) := by
  refine ⟨⟨by decide +kernel, _, rfl, by decide +kernel⟩, fun h => absurd h.1 (by decide +kernel), ?_⟩
  rintro ⟨_, r, h, h2⟩
  cases h
  revert h2
  decide +kernel

/-- The bytes that the root block of 0x1000000 names: budget, period, priority, ISO, FDOM, WTHR. -/
def rcb (root : Nat) (l : List (Nat × Nat × Nat)) : State :=
  withMem { atQ with asids := [(0, ⟨true, 0⟩), (1, ⟨true, 0⟩)]
                     dies := vput atQ.dies 0 { atQ.die 0 with queues := vput (atQ.die 0).queues 0 { (atQ.die 0).queues[0] with own := 0x1000 } } }
    ([(0x1008, 8, 2 ^ 63 + 1000), (0x1010, 8, 2000), (0x1018, 1, 0x83), (0x1019, 1, 1 + 2 * root), (0x101C, 4, 2 ^ 31 + 1),
      (0x1020, 4, 2 ^ 31 + 2), (0x1024, 4, 2 ^ 31 + 1024)] ++ l)

theorem wit_RegionBlocks : (rcb 1 []).inv ∧ AtQueue (rcb 1 []) ∧ (rcb 1 []).region 0 0x1000 = none ∧ (rcb 1 []).myQueue.own = 0x1000
    ∧ (let s := rcb 1 []
       let b := (rangeFrom 0x1001000 64).map s.mem.read
       rcbSound b = true ∧ fieldOf b 0x19 1 / 2 % 2 = 1 ∧ fieldOf b 0x30 8 = 0
         ∧ (let r := blockOf 0x1000 0 b none none s.timeb
            (s.putRegion r).regionOk r = true ∧ r.isoOvr = true ∧ s.keys.length < 4096)
         ∧ (let r := { blockOf 0x1000 0 b none none s.timeb with wthr := 1023 }
            (s.putRegion r).regionOk r = false))
    ∧ (let s := rcb 0 [(0x1000, 8, 0x40)]
       let b := (rangeFrom 0x1001000 64).map s.mem.read
       rcbSound b = true ∧ fieldOf b 0x19 1 / 2 % 2 ≠ 1 ∧ s.region 0 (BitVec.ofNat 64 (fieldOf b 0 8)) ≠ none
         ∧ s.under 0 (BitVec.ofNat 64 (fieldOf b 0 8)) 0x41 = false ∧ s.under 0 (BitVec.ofNat 64 (fieldOf b 0 8)) 0x40 = true)
    ∧ (let s := rcb 0 [(0x1038, 8, 1)]
       rcbSound ((rangeFrom 0x1001000 64).map s.mem.read) = false) := by
  unfold State.inv AtQueue; decide +kernel

/-- The front end reads a block of 64 bytes in address space 0. -/
theorem wit_RegionRead : let s := rcb 1 []
    ∃ b z, s.frontRead 0 0x1000 64 = .ok b z := ⟨_, _, front_read atQ (by decide +kernel)⟩

/-- Templates: a root with a child and a grandchild; one whose child is before its parent; a record of the first in memory. -/
theorem wit_RegionTables : TemplateRules [(0xFF, 0), (0, 1), (1, 2)] ∧ ¬ TemplateRules [(0xFF, 0), (1, 1)] ∧ ¬ TemplateRules [(0, 0)]
    ∧ (let l : List (Byte × Byte) := [(0xFF, 0), (0, 1), (1, 2)]
       let s := withMem atQ [(0x800, 16, ofBytes (templateBytes 3 l))]
       s.under 0 0x40 s.myQueue.own = true ∧ s.region 0 0x41 = none ∧ okAccess (s.reach 1 0x800 16 false).1 = true
         ∧ (templateBytes 3 l).length = 16 ∧ readBytes (s.frontRead 1 0x800 16) = templateBytes 3 l) := by
  refine ⟨⟨rfl, ?_⟩, fun h => ?_, fun h => absurd h.1 (by decide), by decide +kernel⟩
  · intro k q hk hq
    match k, hq with
    | 1, hq => cases hq; exact ⟨by decide, _, rfl, by decide⟩
    | 2, hq => cases hq; exact ⟨by decide, _, rfl, by decide⟩
    | n + 3, hq => simp at hq
  · exact absurd (h.2 1 _ (by decide) rfl).1 (by decide)

/-- Binding a chain at its boundary values, and a pair of box 0 with itself. -/
theorem wit_BindingCommands :
    let ch := quiet 0 [(0x10, 7), (0x18, 0x100C), (0x20, 8), (0x28, 1), (0x2A, 8192)]
    let pr := quiet 0 [(0x10, 7), (0x12, 6), (0x16, 1), (0x18, 4096)]
    Commands atQ ch ∧ opnd ch 0x10 1 = 7 ∧ opnd ch 0x11 1 = 0 ∧ (atQ.chain 0 7).v = false ∧ opnd ch 0x18 8 % 16 ≤ 12 ∧ opnd ch 0x18 8 / 16 % 256 = 0
      ∧ opnd ch 0x2A 2 ≤ 8192 ∧ atQ.otherChains 0 7 = []
      ∧ Commands atQ pr ∧ opnd pr 0x12 1 = 6 ∧ (atQ.pair 0 7).v = false ∧ (atQ.pair 0 6).v = false
      ∧ atQ.pairPools 0 7 0 6 1 4096 = true ∧ atQ.pairFits 0 0 4096 = true ∧ atQ.pairPools 0 7 0 6 1 4097 = false
      ∧ (let s := atQ.updChain 0 1 fun x => { x with v := true, cmds := [copyCmd] }
         (s.chain 0 1).v = true ∧ (s.chain 0 1).cmds ≠ [])
      ∧ (atQ.box 1).state = .free ∧ atQ.under (boxDie 0) (atQ.box 0).rcb atQ.myQueue.own = true := by
  unfold Commands; decide +kernel

theorem wit_IdentityAndKeys : AtQueue atQ ∧ (quiet 0 []).compl.toNat % 8 = 0 ∧ RootCommand atQ (quiet 0 []) ∧ atQ.keyOf 1 = none ∧ atQ.security ≠ .t
    ∧ (({ atQ with keys := [(1, List.replicate 32 1)] } : State).keyOf 1).isSome = true ∧ readOk (atQ.frontRead 1 0x1000 64) = true
    ∧ readOk (atQ.frontRead 1 0x2000 40) = true ∧ okAccess (atQ.reach 1 0x3000 224 true).1 = true
    ∧ (pOrder = 0xffffffff00000000ffffffffffffffffbce6faada7179e84f3b9cac2fc632551) := by
  refine ⟨by unfold AtQueue; decide +kernel, by decide +kernel, ⟨by decide +kernel, _, rfl, by decide +kernel⟩, ?_⟩
  decide +kernel

theorem wit_SecurityAndDebug :
    let d1 := { atQ with debug := .d1 0x40 100, timeb := 99 }
    RootCommand atQ (quiet 0 []) ∧ RootCommand d1 (quiet 0 []) ∧ opnd (quiet 0 []) 0x18 8 = 0 ∧ opnd (quiet 0 [(0x18, 0x1000)]) 0x18 8 ≠ 0
      ∧ readOk (atQ.frontRead 1 0x1000 184) = true ∧ (∃ q, q ∈ atQ.boxes ∧ q.2.state ≠ .free)
      ∧ (∀ q, q ∈ ({ atQ with boxes := [] } : State).boxes → q.2.state = .free) ∧ d1.cur.at_ < 4 ∧ d1.timeb < (100 : Word).toNat
      ∧ (100 : Word).toNat ≤ ({ d1 with timeb := 100 } : State).timeb := by
  refine ⟨⟨by decide +kernel, _, rfl, by decide +kernel⟩, ⟨by decide +kernel, _, rfl, by decide +kernel⟩, by decide +kernel, by decide +kernel,
    by decide +kernel, ⟨_, List.mem_singleton.mpr rfl, by decide +kernel⟩, fun _ h => absurd h (by simp), by decide +kernel, by decide +kernel, by decide +kernel⟩

theorem wit_PowerStates :
    let gated := { atQ with timeb := 10000 }
    AtQueue atQ ∧ opnd (quiet 0 [(0x10, 3)]) 0x10 1 = 3 ∧ (∀ q, q ∈ atQ.boxes → q.2.state ≠ .running ∧ q.2.state ≠ .ready)
      ∧ (∃ q, q ∈ atC.boxes ∧ boxDie q.1 = 0 ∧ (q.2.state = .running ∨ q.2.state = .ready)) ∧ atQ.security = .n
      ∧ (∀ q, q ∈ atQ.boxes → q.2.state = .parked → q.2.live = false) ∧ gated.here.box = none ∧ gated.here.freeSince + 10000 ≤ gated.timeb
      ∧ ¬ (atQ.here.freeSince + 10000 ≤ ({ atQ with timeb := 9999 } : State).timeb)
      ∧ (atQ.mq 0 0).ctl.getLsbD 0 = true ∧ (atQ.mq 0 0).head ≠ (atQ.mq 0 0).tail ∧ ({ atQ with ps3 := true } : State).ps3 = true := by
  unfold AtQueue; decide +kernel

/-- POWER 3 with one PARKED context on its tile; a doorbell, a READY box and a deadline that wake. -/
theorem wit_PowerSaves :
    let s := keyed.updBox 0 fun x => { x with live := true, tiles := [0], saved := [Ctx.reset.unlaunched], stopping := true }
    s.settled 0 = true ∧ s.debug = .d0 ∧ (s.box 0).reason ≠ 0x0D ∧ s.tileRanks 0 1 = [newRank]
      ∧ (s.boxes.filter (fun q => q.2.state == .parked && q.2.live)).map Prod.fst = [0] ∧ (∃ n z, s.writeImage 0 [newRank] 1 false = some (n, z))
      ∧ (let t := atQ.updDie 0 fun d => { d with ps2 := true, rung := true }; (t.die 0).rung = true ∧ t.ps3 = false)
      ∧ (let t := { atQ with ps3 := true, boxes := [(0, { runBox with state := .parked, dl := true, deadline := 0 })] }
         t.ps3 = true ∧ (t.box 0).dl = true ∧ (t.box 0).deadline.toNat ≤ t.timeb) := by
  intro s
  obtain ⟨n, z, h, _⟩ := image_written (s := s) (kind := 1) (clear := false) rfl (by unfold Plain; decide +kernel) (by decide +kernel) (by decide +kernel)
    (by decide +kernel) rfl (by decide +kernel) (by decide +kernel)
  exact ⟨by decide +kernel, by decide +kernel, by decide +kernel, by decide +kernel, by decide +kernel, ⟨n, z, h⟩, by decide +kernel, by decide +kernel⟩

/-- POWER 3 of a box whose commands are not done waits, and changes no box. -/
theorem wit_PowerWaits :
    let s := (keyed.updBox 0 fun x => { x with live := true, tiles := [0], saved := [Ctx.reset.unlaunched] }).updChain 0 0 fun x => { x with cmds := [copyCmd] }
    AtQueue s ∧ s.settled 0 = false ∧ s.security = .n ∧ (s.boxes.filter (fun q => q.2.state == .parked && q.2.live)).map Prod.fst = [0]
      ∧ (∀ q, q ∈ s.boxes → q.2.state ≠ .running ∧ q.2.state ≠ .ready) := by
  unfold AtQueue; decide +kernel

/-- A trial whose time is over, with the other slot written meanwhile and not; and a reset in D1. -/
theorem wit_FirmwareReverts :
    let s := fun (n : Bool) => { atQ with fw := { atQ.fw with trial := true, since := 5, nextB := n }, timeb := 30000000005 }
    (∀ n, (s n).fw.trial = true ∧ (s n).fw.since + 30000000000 ≤ (s n).timeb) ∧ (s true).fw.nextB ≠ (s true).fw.runB
      ∧ ¬ (s false).fw.nextB ≠ (s false).fw.runB ∧ ({ atQ with debug := .d1 0x40 100 } : State).debug ≠ .d0 ∧ atQ.debug = .d0 := by decide +kernel

theorem wit_FirmwareSlots :
    let s := { atQ with fw := { atQ.fw with trial := true, since := 5 }, timeb := 30000000005 }
    RootCommand atQ (quiet 0 [(0x18, 0x1000), (0x20, 64)]) ∧ readOk (atQ.frontRead 1 0x1000 64) = true ∧ atQ.fw.trial = false
      ∧ s.fw.trial = true ∧ s.fw.since + 30000000000 ≤ s.timeb ∧ ({ s with timeb := 30000000004 } : State).timeb < s.fw.since + 30000000000 :=
  ⟨⟨by decide +kernel, _, rfl, by decide +kernel⟩, by decide +kernel, by decide +kernel, by decide +kernel, by decide +kernel, by decide +kernel⟩

/-! ## The host -/

theorem wit_LinksAndLoader :
    let up := { atQ with expbase := 0x1000000, expsize := 1 }
    let w : PeerReq := ⟨2, 5, 2 ^ 28 - 8, .write (List.replicate 8 1)⟩
    up.inv ∧ up.links.getLsbD 2 = true ∧ w.off + 8 ≤ up.expsize.toNat * 2 ^ 28 ∧ up.expbase.toNat + w.off + 8 ≤ 0x9000000000
      ∧ ¬ (w.off + 1 + 8 ≤ up.expsize.toNat * 2 ^ 28) ∧ (up.expbase.toNat + 0x10) % 8 = 0
      ∧ (let s := launching.updBox 0 fun x => { x with queue := [aLaunch] }
         ∃ q, q ∈ s.boxes ∧ ∃ l, l ∈ q.2.queue ∧ l.lbh = aBlock.handle)
      ∧ ¬ (∃ q, q ∈ launching.boxes ∧ ((∃ l, l ∈ q.2.queue ∧ l.lbh = aBlock.handle) ∨ ∃ l, q.2.current = some l ∧ l.lbh = aBlock.handle)) := by
  unfold State.inv
  refine ⟨by decide +kernel, by decide +kernel, by decide +kernel, by decide +kernel, by decide +kernel, by decide +kernel,
    ⟨_, List.mem_singleton.mpr rfl, _, List.mem_singleton.mpr rfl, by decide +kernel⟩, ?_⟩
  rintro ⟨q, h, h2⟩
  cases List.mem_singleton.mp h
  rcases h2 with ⟨l, h, _⟩ | ⟨l, h, _⟩ <;> cases h

/-- Sections at their limits and beyond, a peer's read and atomic, and one of nothing. -/
theorem wit_PeersAndBlocks : ((2 ^ 24 : Nat) ≤ 2 ^ 24 ∧ ¬ 2 ^ 24 + 1 ≤ 2 ^ 24) ∧ (aBlock.cwords ≤ 2 ^ 24 ∧ aBlock.vwords ≤ 8192 ∧ aBlock.xwords ≤ 8192 ∧ aBlock.swords ≤ 8192)
    ∧ (let up := { atQ with expbase := 0x1000000, expsize := 1 }
       up.links.getLsbD 2 = true ∧ 0x10 + 8 ≤ up.expsize.toNat * 2 ^ 28 ∧ (up.expbase.toNat + 0x10) % 8 = 0 ∧ (6 : BitVec 4).toNat ≤ 6
         ∧ ¬ (0 + 1 ≤ atQ.expsize.toNat * 2 ^ 28)) := by decide +kernel

/-- Loads of the control page and of BAR0 next in the agenda. -/
theorem wit_ControlPageReads : (3 : Nat) < 4 ∧ 0xB08 < 65536 ∧ ({ atQ with agenda := [.loadReg 3 0xB08 8] } : State).agenda = .loadReg 3 0xB08 8 :: []
    ∧ ({ atQ with agenda := [.barRead 0xC0208 4] } : State).agenda = .barRead 0xC0208 4 :: [] ∧ 0xC0208 + 4 ≤ 0x100000 ∧ 0xC0208 % 0x40000 = 0x208 := by
  decide +kernel

/-- A peer's read of a byte written in the package and not yet released at FABRIC, which it gets as it was, and of one beside it. -/
theorem wit_PeersMissWrites :
    let s := { atQ with expbase := 0x1000000, expsize := 1, unseen := [⟨0x1000010, 7, none⟩] }
    let at_ := fun (l : Nat) => ((s.unseen.find? (·.loc == l)).map (·.old)).getD (s.mem.read l)
    s.inv ∧ s.links.getLsbD 2 = true ∧ s.expbase.toNat + 0x10 + 2 ≤ 0x9000000000 ∧ at_ 0x1000010 = 7 ∧ at_ 0x1000011 = s.mem.read 0x1000011 := by
  unfold State.inv; decide +kernel

theorem wit_HostAddresses : (0 : Nat) < 4 ∧ (31 : Nat) < 32 ∧ 0x7F8 < 0x800 ∧ 0x7F8 % 64 = 56 ∧ 0x800 % 64 = 0 ∧ 0x8F8 % 8 = 0 := by decide

/-! ## Rounding -/

theorem wit_Rounding : (Mag.dyadic 3 (-1)).above = false ∧ (Mag.dyadic 3 (-1)).d ≠ 0 ∧ (Mag.dyadic 3 (-1)).n ≠ 0 ∧ (2 ^ 32 - 1 : Nat) < 2 ^ 32
    ∧ (formatOf 6).isSome = true ∧ (formatOf 1).isSome = true := by decide +kernel

/-- Arguments of the lane functions and patterns of the formats, of each case. -/
theorem wit_LaneArguments : decodeFloat 1 0x40000000 = .fin false 8388608 (-22) ∧ decodeFloat 1 0xC0000000 = .fin true 8388608 (-22)
    ∧ decodeFloat 1 0x80000000 = .zero true ∧ decodeFloat 2 0x7F80 = .inf false ∧ decodeFloat 3 0x7E00 = .nan
    ∧ (∀ f, f ∈ [(1 : BitVec 4), 2, 3, 4, 5, 6] → (formatOf f).isSome = true) ∧ (formatOf 7).isSome = false := by decide +kernel

/-- R72 to R80: halfway values of FP32 and BF16, the overflow of E4M3 and FP16, and the least subnormal of FP32. -/
theorem test_rounding : roundFloat 1 0 false 0 false (.dyadic (2 ^ 24 + 1) 0) = (0x4B800000, 0) ∧ roundFloat 1 0 false 0 false (.dyadic (2 ^ 24 + 3) 0) = (0x4B800002, 0)
    ∧ roundFloat 2 2 false 0 false (.dyadic 257 0) = (0x4381, 0) ∧ roundFloat 4 0 false 0 false (.dyadic 480 0) = (0x7F, 2)
    ∧ roundFloat 4 0 true 0 true (.dyadic 480 0) = (0xFE, 2) ∧ roundFloat 3 0 false 0 false (.dyadic 65520 0) = (0x7C00, 2)
    ∧ roundFloat 1 0 false 0 false (.dyadic 1 (-149)) = (1, 0) ∧ roundFloat 1 0 false 0 false (.dyadic 1 (-150)) = (0, 4) := by decide +kernel

/-! ## Steps -/

/-- The word ADDI r3, r1, 7 at index 5 of the code section; the tile is at its next beat with nothing pending. -/
def stepping : State := withMem { atC with agenda := [.issue 0 .c] } [(0x1028, 8, 0x000A061000000007)]

theorem wit_StepRunsTheWord : stepping.inv ∧ stepping.canIssue 0 .c = true ∧ (∀ e, e ≠ Strm.c → stepping.canIssue 0 e = false) ∧ stepping.delivers 0 = false
    ∧ stepping.myTurn 0 = true ∧ stepping.farReady 0 = true ∧ (stepping.ctx 0).isRefused .c = false ∧ (stepping.tile 0).issued = 0 ∧ stepping.parkOverdue 0 = none
    ∧ stepping.fetch 0 .c ((stepping.ctx 0).pcOf .c) = .word 0x000A061000000007
    ∧ (decode .c 0x000A061000000007).toOption = some (.addi ⟨3, 1, 0, 7⟩) := by
  refine ⟨by unfold State.inv; decide +kernel, by decide +kernel, fun e h => ?_, by decide +kernel, by decide +kernel, by decide +kernel,
    by decide +kernel, by decide +kernel, by decide +kernel, by decide +kernel, by decide +kernel⟩
  cases e
  · exact absurd rfl h
  all_goals decide +kernel

/-- A SIGNAL packet at QHEAD of queue 0, which its step runs; a unit command; an event. -/
def queued : State := { withMem { atQ with agenda := [.queue 0 0], tcache := [] } [(0x1000, 64, (rawPacket 0x08 0 []).toNat)] with
  asids := [(0, ⟨true, 0⟩), (1, ⟨true, 0⟩)] }

theorem wit_StepRunsPackets : (queued.mq 0 0).ctl.getLsbD 0 = true ∧ (queued.die 0).ps2 = false ∧ queued.ps3 = false ∧ (queued.mq 0 0).busy = none
    ∧ (queued.mq 0 0).head ≠ (queued.mq 0 0).tail ∧ 4 ≤ (queued.mq 0 0).log.toNat ∧ (queued.mq 0 0).log.toNat ≤ 12 ∧ (queued.mq 0 0).base.toNat % 4096 = 0
    ∧ decodePacket (BitVec.ofNat 512 (ofBytes (readBytes (queued.frontRead 0 0x1000 64)))) = some (.signal (packet 0 []))
    ∧ decodeUnit 5 (BitVec.ofNat 512 (6 + 1 * 2 ^ 16)) = some (.backfill ⟨0, 1, 0, 0, 0, 0, 0, 0, 0⟩)
    ∧ streamsOf .tileGate = [] ∧ encodePacket .tileGate = none ∧ encodeUnit .tileGate = none := by decide +kernel

theorem wit_StepKeepsInvariant : stepping.inv ∧ ∃ t, step stepping = .next t := by
  refine ⟨by unfold State.inv; decide +kernel, ?_⟩
  have h : (match step stepping with | .next _ => true | _ => false) = true := by decide +kernel
  cases h1 : step stepping with
  | next t => exact ⟨t, rfl⟩
  | fault f => rw [h1] at h; cases h
  | refused r => rw [h1] at h; cases h

theorem wit_EncodingsRoundTrip : wf .c (.add fcr) = true ∧ (decode .c 0x0004061100000000).toOption = some (.add fcr) ∧ wfPacket (.signal (packet 3 [])) = true
    ∧ decodePacket (rawPacket 8 3 []) = some (.signal (packet 3 [])) ∧ wfUnit 5 (.backfill ⟨0, 1, 0, 0, 0, 0, 0, 0, 0⟩) = true := by decide +kernel

/-! ## Single steps, on one field or two each -/

/-- Whether a step from a state answers a next state with `p`. -/
def after (i : Instr) (s : State) (p : State → Bool) : Bool := match exec i s with | .next t => p t | _ => false

theorem test_placeWord : (match step (State.reset.withFetchWord 64 0x0004061100000000) with | .next t => t.last == .issued | _ => false) = true := by
  decide +kernel

/-- The value that stream C's latest write of register `r` of tile 0 holds. -/
def wrote (r v : Nat) (t : State) : Bool := match (t.ctx 0).c.pend.getLast? with | some w => w.reg == r && w.value.toNat == v | none => false

/-- R111, R112, by hand with s1 = 8, s2 = 0x20010, s3 = 3, s4 = 2^57: wraps, signs and division corners. -/
theorem test_scalar_results :
    after (.sub fcr) atC (wrote 3 (2 ^ 64 + 8 - 0x20010)) && after (.addi ⟨3, 1, 0, 0xFFFFFFF7⟩) atC (wrote 3 (2 ^ 64 - 1))
      && after (.lui ⟨1, 1, 0, 0x80000000⟩) atC (wrote 1 (2 ^ 63 + 8)) && after (.mul ⟨4, 4, 4, 0, 0⟩) atC (wrote 4 0)
      && after (.mulh ⟨4, 4, 4, 0, 1⟩) atC (wrote 4 (2 ^ 50)) && after (.div ⟨3, 2, 0, 0, 0⟩) atC (wrote 3 (2 ^ 64 - 1))
      && after (.rem ⟨3, 2, 0, 0, 0⟩) atC (wrote 3 0x20010) && after (.rem ⟨3, 4, 3, 0, 0⟩) atC (wrote 3 2)
      && after (.cmplti ⟨3, 1, 0, 0xFFFFFFFF⟩) atC (wrote 3 0) && after (.cmplti ⟨3, 1, 1, 0xFFFFFFFF⟩) atC (wrote 3 1)
      && after (.sel ⟨3, 1, 2, 0, 0⟩) atC (wrote 3 0x20010) && after (.add ⟨0, 1, 2, 0, 0⟩) atC (fun t => (t.ctx 0).c.pend.isEmpty) = true := by
  decide +kernel

/-- By hand: the byte 0x80 at 8 read signed and unsigned; a word stored is in the tile's queue. -/
theorem test_loads_stores :
    let s := withMem atC [(8, 8, 0x1122334455667780)]
    let got := fun (v : Nat) (t : State) => (t.ctx 0).loads.any fun l => l.writes.any fun w => w.1 == 3 && w.2.toNat == v
    after (.ld ⟨3, 1, 0, 0, 0⟩) s (got 0x80) && after (.ld ⟨3, 1, 3, 0, 0⟩) s (got 0x1122334455667780)
      && after (.st ⟨3, 2, 1, 0, 2⟩) s (fun t => (t.tile 0).stores.any fun w => decide (w.bytes = [(0x1000000000012, 3), (0x1000000000013, 0)])) = true := by
  decide +kernel

/-- R113, R115, R347, by hand: a taken branch, a link, and a precise trap that enters the handler at word 20. -/
theorem test_control :
    after (.bne (fcb 3)) atC (fun t => (t.ctx 0).mpc == 8) && after (.beq (fcb 3)) atC (fun t => (t.ctx 0).mpc == 6)
      && after (.jal (fcb 0xFFFFFFFF)) atC (fun t => (t.ctx 0).mpc == 4 && wrote 1 6 t)
      && after (.tret ⟨0, 0, 0, 0⟩) handled (fun t => (t.ctx 0).mpc == 20 && (t.ctx 0).trap.act && (t.ctx 0).trap.faultpc == 5) = true := by
  decide +kernel

end Sys2Proof.Tests
end

section
/-!
The step of an action of the agenda: a word that one stream alone can issue, the packet of a queue's thread, the oldest command of
a unit, an event.
-/
namespace Sys2Proof.Machine

/-! ### Reads that count and mark -/

theorem State.likeMem.withCes {s t : State} (h : s.likeMem t) (z : List Nat) : ({ s with ces := z } : State).likeMem { t with ces := z } :=
  ⟨by rw [h.state], h.tile, h.die, h.wf⟩

/-- Corrected errors are taken from their list, and a record of them waits for the log of the die. -/
theorem State.correctBy_frame (s : State) (d b u : Nat) (l : List Nat) :
    ∃ z, ({ s with ces := z } : State).likeMem (s.correctBy d b u l) := by
  unfold State.correctBy State.correctIn
  split
  · exact ⟨_, .refl s⟩
  · exact ⟨_, State.likeMem_ras _ _ _ _ _ _⟩

theorem State.didRead_frame (s : State) (d b u a va n : Nat) : ∃ z, ({ s with ces := z } : State).likeMem (s.didRead d b u a va n) := by
  unfold State.didRead
  split
  · next locs _ _ =>
    obtain ⟨z, hz⟩ := s.correctBy_frame d b u locs
    exact ⟨z, hz.trans (State.likeMem_touch _ _ _ _)⟩
  · exact ⟨_, .refl s⟩

/-- A read of the front end that gets its bytes changes what an access may change, and the list of corrected errors. -/
theorem State.frontRead_frame {s t : State} {a n : Nat} {va : Word} {b : List Byte} (h : s.frontRead a va n = .ok b t) :
    ∃ z, ({ s with ces := z } : State).likeMem t := by
  unfold State.frontRead at h
  have k := s.likeMem_reach a va.toNat n false
  split at h
  case h_3 locs ls y hy =>
    rw [hy] at k
    split at h
    · cases h
    · split at h
      · cases h
      · cases h
        obtain ⟨z, hz⟩ := y.didRead_frame y.cur.at_ 0xFFFF unitFront a va.toNat n
        exact ⟨z, (k.withCes z).trans hz⟩
  all_goals cases h

theorem State.likeMem.rank {s t : State} (h : s.likeMem t) (u : Nat) : (t.tile u).rank = (s.tile u).rank := by
  rw [h.tile u]

theorem State.likeMem.cur {s t : State} (h : s.likeMem t) : t.cur = s.cur := by rw [h.state]

theorem State.likeMem.mq {s t : State} (h : s.likeMem t) (d q : Nat) : t.mq d q = s.mq d q := by
  unfold State.mq
  rw [h.die d]

/-! ### A word at issue -/

/-- At its issue a word is named by `cur`, with the rank that its tile had before the page of the word was accessed. -/
theorem State.atIssue_cur (s : State) (t : Nat) (e : Strm) (w : Word) :
    (s.atIssue t e w).cur = ⟨t, e, w, (s.ctx t).pcOf e, 0, ((s.tile t).box).getD 0, (s.tile t).rank⟩ := by
  unfold State.atIssue
  simp only [Cur.mk.injEq, true_and]
  rw [State.ceasePages_frame]
  obtain ⟨z, hz⟩ := s.correctBy_frame (tileDie t) (((s.tile t).box).getD 0xFFFF) (unitTile t) (s.fetchLocs t e ((s.ctx t).pcOf e))
  exact (hz.trans (State.likeMem_touch _ _ _ _)).rank t

theorem State.attempt_word {s : State} {t : Nat} {e : Strm} {w : Word} {i : Instr} (hr : (s.ctx t).isRefused e = false)
    (hf : s.fetch t e ((s.ctx t).pcOf e) = .word w) (hd : decode e w = .ok i) : s.attempt t e = exec i (s.atIssue t e w) := by
  simp only [State.attempt, hr, hf, hd, Bool.false_eq_true, ↓reduceIte]

section OneStream

variable {s : State} {t : Nat} {e : Strm}

/-- Stream `e` alone can issue on tile `t`. -/
def State.Alone (s : State) (t : Nat) (e : Strm) : Prop := s.canIssue t e = true ∧ ∀ e', e' ≠ e → s.canIssue t e' = false

theorem State.Alone.canIssue_eq (h : s.Alone t e) (e' : Strm) : s.canIssue t e' = decide (e' = e) := by
  by_cases he : e' = e
  · subst he; simpa using h.1
  · simpa [he] using h.2 e' he

theorem State.Alone.tries (h : s.Alone t e) : s.tries t = ((nextOf (s.attempt t e)).map fun z => (e, z)).toList := by
  have hone : ∀ e', (if s.canIssue t e' then (nextOf (s.attempt t e')).map fun z => (e', z) else none) =
      if e' = e then (nextOf (s.attempt t e)).map fun z => (e, z) else none := by
    intro e'
    by_cases he : e' = e
    · subst he; simp [h.1]
    · simp [he, h.2 e' he]
  unfold State.tries
  simp only [hone]
  generalize (nextOf (s.attempt t e)).map (fun z => (e, z)) = o
  cases e <;> cases o <;> rfl

/-- The stream whose turn it is, where only one can issue: neither a write of kw before an LPROT nor a context instruction changes
that. -/
theorem State.Alone.nextStrm (h : s.Alone t e) : s.nextStrm t = some e := by
  have hk : s.kwFirst t = true → e = .v := by
    simp only [State.kwFirst, h.canIssue_eq, Bool.and_eq_true, decide_eq_true_eq]
    exact fun hk => hk.1.2.symm
  have hcan : ([Strm.c, .v, .x, .s].filter (s.canIssue t ·)) = [e] := by
    simp only [h.canIssue_eq]
    cases e <;> rfl
  unfold State.nextStrm
  rw [hcan]
  split
  · next hkw => rw [hk hkw]
  · split
    · cases e <;> rfl
    · rfl

/-- No park of a wait past its threshold takes the boundary, before the word of stream `e` or after it. -/
def State.NoPark (s : State) (t : Nat) (e : Strm) : Prop :=
  (s.tile t).issued ≠ 0 ∨ s.parkOverdue t = none ∧ ∀ z, s.attempt t e = .next z → z.parkOverdue t = none

/-- What takes the boundary is the outcome of the word itself. -/
theorem State.Alone.atBoundary (h : s.Alone t e) (hd : s.delivers t = false) (hp : s.NoPark t e) :
    ∀ z, s.atBoundary t = some z → s.attempt t e = .next z := by
  have hnow : (if (s.tile t).issued = 0 then s.parkOverdue t else none) = none := by
    rcases hp with hi | ⟨hi, -⟩
    · exact if_neg hi
    · rw [hi, ite_self]
  unfold State.atBoundary
  rw [h.tries, hnow, hd]
  cases ha : s.attempt t e with
  | next y =>
    have hlater : (if (s.tile t).issued = 0 then y.parkOverdue t else none) = none := by
      rcases hp with hi | ⟨-, hi⟩
      · exact if_neg hi
      · rw [hi y ha, ite_self]
    intro z hz
    simp only [nextOf, Option.map_some, Option.toList_some, List.findSome?_cons, List.findSome?_nil, hlater] at hz
    cases hk : parks ((s.tile t).box.getD 0) y
    · cases ht : traps y <;> simp_all
    · simp_all
  | fault f => intro z hz; simp [nextOf] at hz
  | refused f => intro z hz; simp [nextOf] at hz

/-- Where one stream alone can issue and nothing else takes the boundary, the step is the attempt of its word. -/
theorem State.Alone.issueAt (h : s.Alone t e) (hd : s.delivers t = false) (hp : s.NoPark t e)
    (hc : e = .c → s.myTurn t = true ∧ s.farReady t = true) : s.issueAt t = s.attempt t e := by
  have hfar : (s.canIssue t .c && !s.farReady t) = false := by
    by_cases he : e = .c
    · simp [(hc he).2]
    · simp [h.canIssue_eq, Ne.symm he]
  have hturn : (e == .c && !s.myTurn t) = false := by
    by_cases he : e = .c
    · simp [(hc he).1]
    · simp [he]
  unfold State.issueAt
  rw [hfar, if_neg Bool.false_ne_true]
  cases hb : s.atBoundary t with
  | some z => exact (h.atBoundary hd hp z hb).symm
  | none =>
    have hstall : ∀ p, (s.tries t).find? (fun p => (s.ctx t).member p.1 && p.2.last == .stalled) = some p →
        s.attempt t e = .next p.2 := by
      intro p hf
      have hm := List.mem_of_find?_eq_some hf
      rw [h.tries] at hm
      cases ha : s.attempt t e <;> simp [ha, nextOf] at hm
      rw [hm]
    simp only
    split
    · next p hf => exact (hstall p hf).symm
    · rw [h.nextStrm]
      simp only [hturn, Bool.false_eq_true, ↓reduceIte]

end OneStream

/-! ### The agenda -/

theorem step_of_agenda {s : State} {a : Action} {r : List Action} (h : s.agenda = a :: r) : step s = act a { s with agenda := r } := by
  unfold step
  rw [h]

theorem act_issue {s : State} {t : Nat} {e : Strm} (ht : t < 160) (hc : s.canIssue t e = true) : act (.issue t e) s = s.issueAt t := by
  simp only [act, ht, hc, ↓reduceIte]

theorem act_queue {s : State} {d q : Nat} (hd : d < 4) (hq : q < 32) :
    act (.queue d q) s = ({ s with last := .event } : State).takePacket d q := by
  simp only [act, hd, hq, decide_true, Bool.and_self, ↓reduceIte]

theorem act_unit {s : State} {d u : Nat} (hd : d < 4) (hu : u < 6) :
    act (.unit d u) s = ({ s with last := .event } : State).runQueued d u := by
  simp only [act, hd, hu, decide_true, Bool.and_self, ↓reduceIte]

/-- An event of the table runs as it is named; a save only where nothing takes its boundary first (R360). -/
theorem act_event {s : State} {i : Instr} {u : Nat} (hi : isEvent i = true)
    (hs : ∀ b, i = .preemptSaveComplete b → ({ s with cur := { s.cur with at_ := u } } : State).beforeSave b = none) :
    act (.event i u) s = exec i { s with cur := { s.cur with at_ := u } } := by
  simp only [act]
  split
  · next b => rw [hs b rfl]
  · exact if_pos hi

/-! ### The thread of a queue -/

/-- The state at which the thread of a queue acts. -/
def State.atThread (s : State) (d q : Nat) : State := { s with cur := { s.cur with at_ := d, sub := q } }

/-- The slot of the packet at QHEAD (R364). -/
def MQueue.headSlot (m : MQueue) : Word := m.base + BitVec.ofNat 64 (64 * (m.head.toNat % 2 ^ m.log.toNat))

section Thread

variable {s : State} {d q : Nat} {i : Instr} (hc : (s.mq d q).ctl.getLsbD 0 = true) (hp : (s.die d).ps2 = false)
  (h3 : s.ps3 = false)
include hc hp h3

/-- A queue that is enabled, on a die and in a package that do not sleep, goes on with the packet that its thread holds. -/
theorem State.takePacket_busy {t0 : Nat} (hb : (s.mq d q).busy = some ⟨i, t0, false⟩) :
    s.takePacket d q = exec i (s.atThread d q) := by
  unfold State.takePacket
  extract_lets _ y m
  have hm : m = s.mq d q := rfl
  have hd : y.die d = s.die d := rfl
  have h3' : y.ps3 = s.ps3 := rfl
  simp only [hm, hd, h3', hc, hp, h3, hb, Bool.not_true, Bool.or_self, Bool.false_eq_true, ↓reduceIte]
  rfl

/-- Else it takes the packet at QHEAD, which its thread then holds, and QHEAD advances. -/
theorem State.takePacket_head (hb : (s.mq d q).busy = none) (hne : (s.mq d q).head ≠ (s.mq d q).tail)
    (hlo : 4 ≤ (s.mq d q).log.toNat) (hhi : (s.mq d q).log.toNat ≤ 12) (hba : (s.mq d q).base.toNat % 4096 = 0)
    {b : List Byte} {z : State} (hr : (s.atThread d q).frontRead 0 (s.mq d q).headSlot 64 = .ok b z)
    (hi : decodePacket (BitVec.ofNat 512 (ofBytes b)) = some i) :
    ∃ f : MQueue → MQueue, s.takePacket d q = exec i (z.updMq d q f)
      ∧ ∀ m, (f m).head = m.head + 1 ∧ (f m).busy = some ⟨i, z.timeb, false⟩ ∧ (f m).tail = m.tail := by
  have hready : (decide ((s.mq d q).head = (s.mq d q).tail) || decide ((s.mq d q).log.toNat < 4)
      || decide (12 < (s.mq d q).log.toNat) || (s.mq d q).base.toNat % 4096 != 0) = false := by
    simp [hne, hba, Nat.not_lt.mpr hlo, Nat.not_lt.mpr hhi]
  unfold State.takePacket
  extract_lets _ y m slot
  have hm : m = s.mq d q := rfl
  have hd : y.die d = s.die d := rfl
  have h3' : y.ps3 = s.ps3 := rfl
  have hr' : y.frontRead 0 slot 64 = .ok b z := hr
  clear_value slot y m
  subst hm
  simp only [hd, h3', hc, hp, h3, hb, hready, hr', hi, Bool.not_true, Bool.or_self, Bool.false_eq_true, ↓reduceIte]
  exact ⟨_, rfl, fun m => ⟨rfl, rfl, rfl⟩⟩

end Thread

theorem State.mq_updMq {s : State} {d q : Nat} (hd : d < 4) (hq : q < 32) (f : MQueue → MQueue) :
    (s.updMq d q f).mq d q = f (s.mq d q) := by
  simp only [State.mq, State.updMq, State.die_updDie, hd, and_self, ↓reduceIte, vget_vupd_same _ _ _ hq]

/-- The oldest command of a unit runs, for the context that issued it (R326). -/
theorem State.runQueued_cons {s : State} {d u : Nat} {c : UnitCmd} {l : List UnitCmd} {i : Instr} (hq : s.unitQueue d u = c :: l)
    (hi : decodeUnit u c.raw = some i) :
    s.runQueued d u = exec i { s with cur := { s.cur with at_ := d, sub := u, box := c.box, rank := c.rank } } := by
  simp only [State.runQueued, hq, hi]

/-- An instruction that is no word, no packet and no unit command is an event. -/
theorem isEvent_of_none {i : Instr} (hs : streamsOf i = []) (hp : encodePacket i = none) (hu : encodeUnit i = none) :
    isEvent i = true := by
  simp [isEvent, hs, hp, hu]

end Sys2Proof.Machine

namespace Sys2Proof.Proofs

open Sys2Proof.Machine Sys2Proof.Spec

/-- Settles O56: on a tile the attempt of the one stream that can issue, and else the packet, the command or the event that the
action names. -/
theorem stepRunsTheInstruction : Obligations.StepRunsTheInstruction := by
  unfold Obligations.StepRunsTheInstruction
  intro s i r
  refine ⟨?_, ?_, ?_, ?_⟩
  · intro u e w ha hu z hcan halone hdel hc href hf hi
    have hw : z.attempt u e = exec i (z.atIssue u e w) := State.attempt_word href hf hi
    refine ⟨z.atIssue u e w, ⟨rfl, z.atIssue_cur u e w⟩, fun hp => ?_⟩
    have hone : z.Alone u e := ⟨hcan, halone⟩
    have hnp : z.NoPark u e := hp.imp_right fun h => ⟨h.1, fun t ht => h.2 t (hw ▸ ht)⟩
    rw [step_of_agenda ha, act_issue hu hcan, hone.issueAt hdel hnp hc, hw]
  · intro d q ha hd hq z m hon hp h3
    have hstep : step s = ({ s with agenda := r, last := .event } : State).takePacket d q := by
      rw [step_of_agenda ha, act_queue hd hq]
    refine ⟨fun t0 hb => hstep.trans (State.takePacket_busy hon hp h3 hb), ?_⟩
    intro hb hne hlo hhi hba b z1 hr hi
    obtain ⟨f, hf, hfm⟩ := State.takePacket_head (s := { s with agenda := r, last := .event }) hon hp h3 hb hne hlo hhi hba hr hi
    obtain ⟨ces, hz⟩ := State.frontRead_frame hr
    have hcur : z1.cur = z.cur := hz.cur
    have hq' : (z1.updMq d q f).myQueue = f m := by
      change (z1.updMq d q f).mq z1.cur.at_ z1.cur.sub = _
      rw [hcur, State.mq_updMq hd hq, hz.mq]
      rfl
    refine ⟨z1.updMq d q f, hstep.trans hf, hcur, rfl, ?_⟩
    rw [hq']
    exact hfm m
  · intro d u c l ha hd hu hq hi
    rw [step_of_agenda ha, act_unit hd hu]
    exact State.runQueued_cons hq hi
  · intro u ha hs hp hu z hsave
    rw [step_of_agenda ha]
    exact act_event (isEvent_of_none hs hp hu) hsave

end Sys2Proof.Proofs
end

section
/-!
What reaches the package from outside: doorbells (R385), stores to the die control page and loads from it (R363), BAR0, the loader
(R70), links (R383) and peers (R387).
-/
namespace Sys2Proof.Machine

/-! ### A record, a queue, a die -/

theorem oneRasRecord_ras (s : State) {d : Nat} (hd : d < 4) (c : BitVec 8) (b u x : Nat) :
    Sys2Proof.Spec.OneRasRecord s (s.ras d c b u x) d := by
  refine ⟨⟨c, b, u, s.timeWord, x⟩, ?_, rfl⟩
  rw [State.ras, State.die_updDie, if_pos ⟨rfl, hd⟩]

theorem State.die_updDie_same (s : State) {d : Nat} (hd : d < 4) (f : Die → Die) : (s.updDie d f).die d = f (s.die d) := by
  rw [State.die_updDie, if_pos ⟨rfl, hd⟩]

theorem State.die_updDie_ne (s : State) {d e : Nat} (h : e ≠ d) (f : Die → Die) : (s.updDie d f).die e = s.die e := by
  rw [State.die_updDie, if_neg fun k => h k.1.symm]

theorem State.mq_updMq_ne (s : State) {d q r : Nat} (h : r ≠ q) (f : MQueue → MQueue) : (s.updMq d q f).mq d r = s.mq d r := by
  simp only [State.mq, State.updMq, State.die_updDie]
  split
  · exact vget_vupd_ne _ _ _ h.symm
  · rfl

/-- A change of a die that leaves its queues. -/
theorem State.mq_updDie (s : State) (d e q : Nat) {f : Die → Die} (hf : ∀ x, (f x).queues = x.queues) :
    (s.updDie d f).mq e q = s.mq e q := by
  simp only [State.mq, State.die_updDie]
  split
  · rw [hf]
  · rfl

/-- An instruction that changes one die: that die, and nothing else. -/
theorem exec_updDie {i : Instr} {s : State} {d : Nat} {f : Die → Die} (hd : d < 4) (he : exec i s = event (s.updDie d f)) :
    ∃ t, exec i s = .next t ∧ t.die d = f (s.die d) ∧ t = { s with dies := t.dies, last := .event }
      ∧ ∀ e, e ≠ d → t.die e = s.die e :=
  ⟨_, he, s.die_updDie_same hd f, rfl, fun _ h => s.die_updDie_ne h f⟩

/-! ### Doorbells (R364, R377, R385) -/

theorem State.ring_awake {s : State} {d : Nat} (hp : (s.die d).ps2 = false) (q : Nat) (v : BitVec 32) :
    s.ring d q v = s.updMq d q fun m => { m with tail := v } := by
  have h : ((s.updMq d q fun m => { m with tail := v }).die d).ps2 = false := by
    rw [State.updMq, State.die_updDie]
    split <;> exact hp
  simp only [State.ring, h, Bool.not_false, ↓reduceIte]

/-- What wakes a sleeping die, or a package that sleeps as a whole. -/
def State.wakeAction (s : State) (d : Nat) : Action := if s.ps3 then .event .packageWake 0 else .event .dieWake d

theorem State.ring_asleep {s : State} {d : Nat} (hp : (s.die d).ps2 = true) (q : Nat) (v : BitVec 32) :
    s.ring d q v = { (s.updMq d q fun m => { m with tail := v }).updDie d fun x => { x with rung := true } with
      agenda := s.agenda ++ [s.wakeAction d] } := by
  have h : ((s.updMq d q fun m => { m with tail := v }).die d).ps2 = true := by
    rw [State.updMq, State.die_updDie]
    split <;> exact hp
  simp only [State.ring, h, Bool.not_true, Bool.false_eq_true, ↓reduceIte]
  rfl

theorem exec_doorbell {d q : Nat} (hd : d < 4) (hq : q < 32) (v : Word) (s : State) :
    exec (.doorbell d q 4 v) s = event (s.ring d q (v.setWidth 32)) := by
  rw [BitVec.setWidth_eq_extractLsb' (by decide)]
  simp only [exec, execDoorbell, Nat.not_le.mpr hd, Nat.not_le.mpr hq, decide_false, Bool.or_self, Bool.false_eq_true, ↓reduceIte]

theorem exec_doorbell_narrow {d q w : Nat} (hd : d < 4) (hq : q < 32) (hw : w ≠ 4) (v : Word) (s : State) :
    exec (.doorbell d q w v) s = event (s.ras d 0xD8 0xFFFF unitFront (0x40000 * d + 8 * q)) := by
  simp only [exec, execDoorbell, Nat.not_le.mpr hd, Nat.not_le.mpr hq, hw, decide_false, Bool.or_self, Bool.false_eq_true, ↓reduceIte]

theorem doorbells_hold : Sys2Proof.Spec.Doorbells := by
  intro s d q w v hd hq
  refine ⟨?_, fun hw => ⟨_, exec_doorbell_narrow hd hq hw v s, oneRasRecord_ras s hd _ _ _ _, s.mq_updDie d d q fun _ => rfl⟩⟩
  rintro rfl
  refine ⟨_, exec_doorbell hd hq v s, ?_⟩
  cases hp : (s.die d).ps2 with
  | false =>
    rw [State.ring_awake hp]
    refine ⟨State.mq_updMq hd hq _, rfl, fun e he => s.die_updDie_ne he _, fun r hr => s.mq_updMq_ne hr _, ?_, by simp; rfl⟩
    change ((s.updMq d q _).die d).rung = _
    rw [State.updMq, s.die_updDie_same hd, Bool.or_false]
  | true =>
    rw [State.ring_asleep hp]
    let y := s.updMq d q fun m => { m with tail := v.setWidth 32 }
    have hm : ∀ r, (y.updDie d fun x => { x with rung := true }).mq d r = y.mq d r := fun r => y.mq_updDie d d r fun _ => rfl
    refine ⟨(hm q).trans (State.mq_updMq hd hq _), rfl, fun e he => (y.die_updDie_ne he _).trans (s.die_updDie_ne he _),
      fun r hr => (hm r).trans (s.mq_updMq_ne hr _), ?_, ?_⟩
    · rw [Bool.or_true]
      exact congrArg Die.rung (y.die_updDie_same hd _)
    · change s.agenda ++ [s.wakeAction d] = _
      unfold State.wakeAction
      cases s.ps3 <;> rfl

/-! ### Stores to the die control page (R363) -/

section Stores

variable {s : State} {d off : Nat} {v : Word} (hd : d < 4)
include hd

theorem exec_registerWrite_odd {w : Nat} (ho : off < 65536) (hw : w ≠ 8 ∨ off % 8 ≠ 0) :
    exec (.registerWrite d off w v) s = event (s.ras d 0xD8 0xFFFF unitFront (0x2000000000000 + 0x10000 * d + off)) := by
  have hodd : (w != 8 || off % 8 != 0) = true := by simpa using hw
  simp only [exec, execRegisterWrite, Nat.not_le.mpr hd, Nat.not_le.mpr ho, hodd, decide_false, Bool.or_self, Bool.false_eq_true,
    ↓reduceIte]

theorem exec_registerWrite_queue (h8 : off % 8 = 0) (ho : off < 0x800) :
    exec (.registerWrite d off 8 v) s = event (s.writeQueueReg d (off / 64) (off % 64) v) := by
  have hin : ¬ 65536 ≤ off := by omega
  simp [exec, execRegisterWrite, Nat.not_le.mpr hd, hin, h8, ho]

theorem exec_registerWrite_core (h8 : off % 8 = 0) (hlo : 0x800 ≤ off) (hhi : off < 0x900) :
    exec (.registerWrite d off 8 v) s = s.writeCoreReg d (off / 64 - 32) (off % 64) v := by
  have hin : ¬ 65536 ≤ off := by omega
  have hc : (off - 2048) / 64 = off / 64 - 32 := by omega
  simp [exec, execRegisterWrite, Nat.not_le.mpr hd, hin, h8, Nat.not_lt.mpr hlo, hhi, hc]

theorem exec_registerWrite_page (h8 : off % 8 = 0) (hlo : 0x900 ≤ off) (hhi : off < 65536) :
    exec (.registerWrite d off 8 v) s = s.writePageReg d off v := by
  have h1 : ¬ off < 0x800 := by omega
  simp [exec, execRegisterWrite, Nat.not_le.mpr hd, Nat.not_le.mpr hhi, h8, h1, Nat.not_lt.mpr hlo]

end Stores

/-- The registers of the page that every die has beside its queues and cores. -/
def dieRegs : List Nat := [0x900, 0x908, 0x918, 0x940, 0x948, 0x958, 0x990, 0x998]

/-- Any other register of the page is one of the package, which die 0 has alone. -/
theorem State.writePageReg_package {off : Nat} (h : off ∉ dieRegs) (s : State) (d : Nat) (v : Word) :
    s.writePageReg d off v =
      if d ≠ 0 then event s
      else if off = 0x988 then execFwcommit (v &&& 0xFFFFFFFF) s
      else if 0xA00 ≤ off ∧ off < 0xB00 then event (s.writeWindow ((off - 0xA00) / 16) (off / 8 % 2) v)
      else if off = 0xB00 then event { s with expbase := v }
      else if off = 0xB08 then event { s with expsize := v.setWidth 32 }
      else event s := by
  rw [BitVec.setWidth_eq_extractLsb' (by decide)]
  unfold State.writePageReg
  split
  case h_9 => simp [bne_iff_ne]
  all_goals exact absurd (by decide) h

theorem State.vget_writeWindow (s : State) (w i : Nat) (v : Word) {k : Nat} (hk : k < 16) :
    vget 0 (s.writeWindow w i v).attwin k = if k ≠ w then vget 0 s.attwin k
      else if i = 0 then (vget 0 s.attwin k).extractLsb' 64 64 ++ v else v ++ (vget 0 s.attwin k).extractLsb' 0 64 := by
  rw [State.writeWindow, vget_vupd]
  by_cases h : k = w
  · subst h; simp [hk]
  · simp [h, Ne.symm h]

theorem controlPageWrites_hold : Sys2Proof.Spec.ControlPageWrites := by
  intro s d off w v hd ho x becomes ignored n c
  have hbits : ∀ k, k ≤ 64 → v.setWidth k = bits v 0 k := fun k hk => BitVec.setWidth_eq_extractLsb' hk
  refine ⟨fun hw => ⟨_, exec_registerWrite_odd hd ho hw, oneRasRecord_ras s hd _ _ _ _, rfl⟩, ?_, ?_, ?_⟩
  · intro hq put
    have hn : n < 32 := by omega
    have hw : ∀ k, k % 8 = 0 → off % 64 = k →
        exec (.registerWrite d off 8 v) s = event (s.writeQueueReg d n k v) := fun k hk h => by
      rw [exec_registerWrite_queue hd (by omega) hq, h]
    refine ⟨fun h => exec_updDie hd (hw 0 rfl h), fun h => ?_, fun h => ?_, fun h => exec_updDie hd (hw 24 rfl h), fun h => ?_,
      fun h => ?_, fun h => ?_⟩
    · rw [hbits 4 (by decide)]; exact exec_updDie hd (hw 8 rfl h)
    · rw [hbits 16 (by decide)]; exact exec_updDie hd (hw 16 rfl h)
    · rw [hbits 8 (by decide)]; exact exec_updDie hd (hw 32 rfl h)
    · rw [hw 40 rfl h, exec_doorbell hd hn, hbits 32 (by decide)]; rfl
    · rcases h with h | h
      · exact hw 48 rfl h
      · exact hw 56 rfl h
  · intro hlo hhi put
    have hw : ∀ k, k % 8 = 0 → off % 64 = k → exec (.registerWrite d off 8 v) s = s.writeCoreReg d c k v := fun k hk h => by
      rw [exec_registerWrite_core hd (by omega) hlo hhi, h]
    refine ⟨fun h => exec_updDie hd (hw 0 rfl h), fun h => ?_, fun h => ?_, fun h => ?_, fun h8 h => ?_⟩
    · rw [hbits 5 (by decide)]; exact exec_updDie hd (hw 8 rfl h)
    · rw [hbits 32 (by decide)]; exact exec_updDie hd (hw 24 rfl h)
    · rw [hw 32 rfl h, hbits 32 (by decide)]
      cases hv : v.getLsbD 32 <;> simp only [State.writeCoreReg, hv] <;> rfl
    · have hk : off % 64 = 16 ∨ off % 64 = 40 ∨ off % 64 = 48 ∨ off % 64 = 56 := by omega
      rcases hk with hk | hk | hk | hk
      all_goals exact hw _ (by decide) hk
  · have hw : ∀ k, off = k → 0x900 ≤ k → k % 8 = 0 → exec (.registerWrite d off 8 v) s = s.writePageReg d k v := by
      rintro k rfl hlo h8
      exact exec_registerWrite_page hd h8 hlo ho
    refine ⟨fun h => exec_updDie hd (hw 0x900 h (by decide) rfl), fun h => ?_, fun h => ?_,
      fun h => exec_updDie hd (hw 0x940 h (by decide) rfl), fun h => ?_, fun h => ?_, fun h => ?_,
      fun h => exec_updDie hd (hw 0x998 h (by decide) rfl), ?_, ?_, ?_, ?_, ?_⟩
    · rw [hbits 5 (by decide)]; exact exec_updDie hd (hw 0x908 h (by decide) rfl)
    · rw [hbits 32 (by decide)]; exact exec_updDie hd (hw 0x918 h (by decide) rfl)
    · rw [hbits 4 (by decide)]; exact exec_updDie hd (hw 0x948 h (by decide) rfl)
    · rw [hbits 32 (by decide)]; exact exec_updDie hd (hw 0x958 h (by decide) rfl)
    · rw [hbits 32 (by decide)]; exact exec_updDie hd (hw 0x990 h (by decide) rfl)
    · rintro rfl rfl
      rw [hw 0x988 rfl (by decide) rfl, State.writePageReg_package (by decide)]
      rfl
    · rintro rfl hlo hhi h8
      have hno : off ∉ dieRegs := fun h => by simp only [dieRegs, List.mem_cons, List.not_mem_nil, or_false] at h; omega
      have hi : off / 8 % 2 = 0 ↔ off % 16 = 0 := by omega
      refine ⟨{ s.writeWindow ((off - 0xA00) / 16) (off / 8 % 2) v with last := .event }, ?_, rfl, fun k hk => ?_⟩
      · rw [hw off rfl (by omega) h8, State.writePageReg_package hno, if_neg (by decide), if_neg (by omega), if_pos ⟨hlo, hhi⟩]
      · simp only [← hi]
        exact State.vget_writeWindow s _ _ v hk
    · rintro rfl rfl
      rw [hw 0xB00 rfl (by decide) rfl, State.writePageReg_package (by decide)]
      rfl
    · rintro rfl rfl
      rw [hw 0xB08 rfl (by decide) rfl, State.writePageReg_package (by decide)]
      rfl
    · intro h8 hlo hno hpkg
      refine (hw off rfl hlo h8).trans ?_
      rw [State.writePageReg_package hno]
      by_cases h0 : d = 0
      · obtain ⟨h1, h2⟩ := hpkg h0
        rw [if_neg fun h => h h0, if_neg h1, if_neg (by omega), if_neg (by omega), if_neg (by omega)]
      · rw [if_pos h0]

/-! ### Loads from the die control page (R363) -/

theorem MQueue.readReg_toNat (m : MQueue) (r : Nat) :
    (m.readReg r).toNat = if r = 0 then m.base.toNat else if r = 8 then m.log.toNat else if r = 16 then m.asid.toNat
      else if r = 24 then m.own.toNat else if r = 32 then m.ctl.toNat else if r = 40 then m.tail.toNat
      else if r = 48 then m.head.toNat else 0 := by
  unfold MQueue.readReg
  split
  case h_8 h0 h8 h16 h24 h32 h40 h48 => rw [if_neg h0, if_neg h8, if_neg h16, if_neg h24, if_neg h32, if_neg h40, if_neg h48]; rfl
  case h_1 | h_4 => rfl
  all_goals exact BitVec.toNat_setWidth_of_le (by decide)

theorem FaultCore.readReg_toNat (x : FaultCore) (r : Nat) :
    (x.readReg r).toNat = if r = 0 then x.base.toNat else if r = 8 then x.log.toNat else if r = 16 then x.prod.toNat
      else if r = 24 then x.cons.toNat else 0 := by
  unfold FaultCore.readReg
  split
  case h_5 h0 h8 h16 h24 => rw [if_neg h0, if_neg h8, if_neg h16, if_neg h24]; rfl
  case h_1 => rfl
  all_goals exact BitVec.toNat_setWidth_of_le (by decide)

theorem Ring.readReg_toNat (x : Ring) (r : Nat) :
    (x.readReg r).toNat = if r = 0 then x.base.toNat else if r = 8 then x.log.toNat else if r = 16 then x.prod.toNat
      else if r = 24 then x.cons.toNat else if r = 32 then x.ovf.toNat else 0 := by
  unfold Ring.readReg
  split
  case h_6 h0 h8 h16 h24 h32 => rw [if_neg h0, if_neg h8, if_neg h16, if_neg h24, if_neg h32]; rfl
  case h_1 => rfl
  all_goals exact BitVec.toNat_setWidth_of_le (by decide)

theorem toNat_append_add {m n : Nat} (x : BitVec m) (y : BitVec n) : (x ++ y).toNat = x.toNat * 2 ^ n + y.toNat := by
  rw [BitVec.toNat_append, ← Nat.shiftLeft_add_eq_or_of_lt y.isLt, Nat.shiftLeft_eq]

/-- FWSTAT as a number: VER from bit 16 on, TRIAL at bit 3 and RUN at bit 2 (R371). -/
theorem Firmware.stat_toNat (f : Firmware) :
    f.stat.toNat = f.running.ver.toNat * 2 ^ 16 + (if f.trial then 8 else 0) + (if f.runB then 4 else 0) := by
  simp only [Firmware.stat, toNat_append_add]
  cases f.trial <;> cases f.runB <;> simp <;> omega

section Loads

variable {s : State} {d off w : Nat} {rest : List Action}

theorem step_loadReg (ha : s.agenda = .loadReg d off w :: rest) (hd : d < 4) (ho : off < 65536) :
    step s = .next (({ s with agenda := rest, last := .event } : State).loadReg d off w) := by
  simp only [step_of_agenda ha, act, hd, ho, decide_true, Bool.and_self, ↓reduceIte]

theorem step_loadReg_aligned (ha : s.agenda = .loadReg d off 8 :: rest) (hd : d < 4) (ho : off < 65536) (h8 : off % 8 = 0)
    {n : Nat} (hn : (s.readReg d off).toNat = n) :
    step s = .next { s with agenda := rest, last := .event, answer := some (toBytes 8 n) } := by
  rw [step_loadReg ha hd ho, State.loadReg, if_neg (by simp [h8]), ← hn]
  rfl

theorem step_loadReg_odd (ha : s.agenda = .loadReg d off w :: rest) (hd : d < 4) (ho : off < 65536) (hw : w ≠ 8 ∨ off % 8 ≠ 0) :
    ∃ t, step s = .next t ∧ Sys2Proof.Spec.OneRasRecord s t d ∧ t.answer = some (List.replicate w 0) := by
  refine ⟨_, step_loadReg ha hd ho, ?_⟩
  rw [State.loadReg, if_pos (by simpa using hw)]
  exact ⟨oneRasRecord_ras _ hd _ _ _ _, rfl⟩

theorem State.readReg_queue (ho : off < 0x800) : s.readReg d off = (s.mq d (off / 64)).readReg (off % 64) := if_pos ho

theorem State.readReg_core (hlo : 0x800 ≤ off) (hhi : off < 0x900) :
    s.readReg d off = (vget ⟨0, 0, 0, 0, []⟩ (s.die d).cores (off / 64 - 32)).readReg (off % 64) := by
  have hc : (off - 2048) / 64 = off / 64 - 32 := by omega
  simp only [State.readReg, Nat.not_lt.mpr hlo, hhi, hc, ↓reduceIte]

theorem State.readReg_ras (hlo : 0x900 ≤ off) (hhi : off < 0x940) : s.readReg d off = (s.die d).ras.readReg (off - 0x900) := by
  have h1 : ¬ off < 0x800 := by omega
  simp only [State.readReg, h1, Nat.not_lt.mpr hlo, hhi, ↓reduceIte]

theorem State.readReg_nring (hlo : 0x940 ≤ off) (hhi : off < 0x960) : s.readReg d off = (s.die d).nring.readReg (off - 0x940) := by
  have h1 : ¬ off < 0x800 := by omega
  have h2 : ¬ off < 0x900 := by omega
  simp only [State.readReg, h1, h2, Nat.not_lt.mpr hlo, hhi, ↓reduceIte]

/-- Beyond the rings the page holds RSELEAD and RSELOW, and the registers of the package on die 0. -/
theorem State.readReg_rest (hlo : 0x960 ≤ off) : s.readReg d off =
    if off = 0x990 then (s.die d).rselead.setWidth 64 else if off = 0x998 then (s.die d).rselow
      else if d = 0 then s.readPackageReg off else 0 := by
  have h1 : ¬ off < 0x800 := by omega
  have h2 : ¬ off < 0x900 := by omega
  have h3 : ¬ off < 0x940 := by omega
  simp only [State.readReg, h1, h2, h3, Nat.not_lt.mpr hlo, ↓reduceIte]

theorem State.readPackageReg_window (hlo : 0xA00 ≤ off) (hhi : off < 0xB00) :
    s.readPackageReg off = s.readWindow ((off - 0xA00) / 16) (off / 8 % 2) := by
  rw [State.readPackageReg, if_neg (by omega), if_pos (by simp [hlo, hhi])]

/-- FWCOMMIT, which is WO, and what no register lies at read as zero. -/
theorem State.readPackageReg_none (h1 : off ≠ 0x980) (h2 : off < 0xA00 ∨ 0xB10 ≤ off) : s.readPackageReg off = 0 := by
  rw [State.readPackageReg, if_neg h1, if_neg (by simp; omega), if_neg (by omega), if_neg (by omega)]

end Loads

/-! ### Reads of BAR0 (R385) -/

theorem rangeFrom_eq_range' (a n : Nat) : rangeFrom a n = List.range' a n := by
  induction n generalizing a with
  | zero => rfl
  | succ n ih => rw [rangeFrom, ih, List.range'_succ]

theorem mem_rangeFrom {a n x : Nat} : x ∈ rangeFrom a n ↔ a ≤ x ∧ x < a + n := by
  rw [rangeFrom_eq_range', List.mem_range'_1]

theorem toBytes_four (v : BitVec 32) : toBytes 4 v.toNat = [bits v 0 8, bits v 8 8, bits v 16 8, bits v 24 8] := by
  have h : ∀ k, bits v k 8 = BitVec.ofNat 8 (v.toNat / 2 ^ k) := fun k => by
    rw [← Nat.shiftRight_eq_div_pow]
    rfl
  simp only [toBytes, h, Nat.div_div_eq_div_mul]
  simp

section Bar

variable {s : State} {off : Nat}

/-- The bytes of NRCONS and NRPROD of a die, from bytes `0x200` and `0x208` of its part of BAR0 on. -/
theorem State.barByte_cons (ho : off % 0x40000 = 0x200) {k : Nat} (hk : k < 4) :
    s.barByte (off + k) = bits (s.die (off / 0x40000)).nring.cons (8 * k) 8 := by
  have h1 : (off + k) / 0x40000 = off / 0x40000 := by omega
  have h2 : (off + k) % 0x40000 = 0x200 + k := by omega
  have h3 : 0x200 ≤ 0x200 + k ∧ 0x200 + k < 0x204 := by omega
  simp only [State.barByte, h1, h2, ← Bool.decide_and, decide_eq_true_eq, if_pos h3, Nat.add_sub_cancel_left]

theorem State.barByte_prod (ho : off % 0x40000 = 0x208) {k : Nat} (hk : k < 4) :
    s.barByte (off + k) = bits (s.die (off / 0x40000)).nring.prod (8 * k) 8 := by
  have h1 : (off + k) / 0x40000 = off / 0x40000 := by omega
  have h2 : (off + k) % 0x40000 = 0x208 + k := by omega
  have h3 : ¬ (0x200 ≤ 0x208 + k ∧ 0x208 + k < 0x204) := by omega
  have h4 : 0x208 ≤ 0x208 + k ∧ 0x208 + k < 0x20C := by omega
  simp only [State.barByte, h1, h2, ← Bool.decide_and, decide_eq_true_eq, if_neg h3, if_pos h4, Nat.add_sub_cancel_left]

theorem State.barByte_zero (ho : off % 0x40000 < 0x200 ∨ 0x20C ≤ off % 0x40000) : s.barByte off = 0 := by
  have h1 : ¬ (0x200 ≤ off % 0x40000 ∧ off % 0x40000 < 0x204) := by omega
  have h2 : ¬ (0x208 ≤ off % 0x40000 ∧ off % 0x40000 < 0x20C) := by omega
  simp only [State.barByte, ← Bool.decide_and, decide_eq_true_eq, if_neg h1, if_neg h2]

theorem map_barByte {v : BitVec 32} (h : ∀ k, k < 4 → s.barByte (off + k) = bits v (8 * k) 8) :
    (rangeFrom off 4).map s.barByte = toBytes 4 v.toNat := by
  rw [toBytes_four]
  change [s.barByte (off + 0), s.barByte (off + 1), s.barByte (off + 2), s.barByte (off + 3)] = _
  rw [h 0 (by decide), h 1 (by decide), h 2 (by decide), h 3 (by decide)]

theorem step_barRead {w : Nat} {rest : List Action} (ha : s.agenda = .barRead off w :: rest) (ho : off + w ≤ 0x100000)
    {b : List Byte} (hb : (rangeFrom off w).map s.barByte = b) :
    step s = .next { s with agenda := rest, last := .event, answer := some b } := by
  rw [step_of_agenda ha, act, if_pos ho, ← hb]
  rfl

end Bar

theorem controlPageReads_hold : Sys2Proof.Spec.ControlPageReads := by
  intro s rest off w z
  refine ⟨?_, ?_⟩
  · intro d hd ho ha x m f slot gives ring
    refine ⟨step_loadReg_odd ha hd ho, ?_⟩
    rintro rfl h8
    have hg : ∀ n, (s.readReg d off).toNat = n → gives n := fun n => step_loadReg_aligned ha hd ho h8
    have hring : ∀ (r : Ring) o, o < 32 → o % 8 = 0 → (r.readReg o).toNat = ring r o := by
      intro r o h1 h2
      have h : o = 0 ∨ o = 8 ∨ o = 16 ∨ o = 24 := by omega
      rw [Ring.readReg_toNat]
      rcases h with rfl | rfl | rfl | rfl <;> rfl
    refine ⟨fun h => hg _ ?_, fun h1 h2 => hg _ ?_, fun h1 h2 => hg _ ?_, fun h => hg _ ?_, fun h1 h2 => hg _ ?_, fun h => hg _ ?_,
      fun h => hg _ ?_, fun h0 h => hg _ ?_, fun h0 h1 h2 => hg _ ?_, fun h0 h => hg _ ?_, fun h0 h => hg _ ?_, fun h => hg _ ?_⟩
    · rw [State.readReg_queue h, MQueue.readReg_toNat]
    · rw [State.readReg_core h1 h2, FaultCore.readReg_toNat]
    · rw [State.readReg_ras h1 (by omega), hring _ _ (by omega) (by omega)]
    · rw [State.readReg_ras (by omega) (by omega), Ring.readReg_toNat, h]
      rfl
    · rw [State.readReg_nring h1 h2, hring _ _ (by omega) (by omega)]
    · rw [State.readReg_rest (by omega), if_pos h, BitVec.toNat_setWidth_of_le (by decide)]
    · rw [State.readReg_rest (by omega), h]
      rfl
    · rw [State.readReg_rest (by omega), h, h0]
      change (s.fw.stat.setWidth 64).toNat = _
      rw [BitVec.toNat_setWidth_of_le (by decide)]
      exact s.fw.stat_toNat
    · rw [State.readReg_rest (by omega), if_neg (by omega), if_neg (by omega), if_pos h0, State.readPackageReg_window h1 h2]
      rfl
    · rw [State.readReg_rest (by omega), h, h0]
      rfl
    · rw [State.readReg_rest (by omega), h, h0]
      change (s.expsize.setWidth 64).toNat = _
      rw [BitVec.toNat_setWidth_of_le (by decide)]
    · have hcase : (0x920 < off ∧ off < 0x940) ∨ 0x960 ≤ off := by omega
      rcases hcase with hr | hr
      · rw [State.readReg_ras (by omega) hr.2, Ring.readReg_toNat]
        iterate 5 rw [if_neg (by omega)]
      · rw [State.readReg_rest hr, if_neg (by omega), if_neg (by omega)]
        split
        · rw [State.readPackageReg_none (by omega) (by omega)]
          rfl
        · rfl
  · intro ha ho r gives
    refine ⟨?_, ?_, fun h => step_barRead ha ho (List.eq_replicate_iff.mpr ⟨?_, fun b hb => ?_⟩)⟩
    · rintro rfl hoff
      exact step_barRead ha ho (map_barByte fun _ => State.barByte_cons hoff)
    · rintro rfl hoff
      exact step_barRead ha ho (map_barByte fun _ => State.barByte_prod hoff)
    · rw [List.length_map, length_rangeFrom]
    · obtain ⟨l, hl, rfl⟩ := List.mem_map.mp hb
      have hin := mem_rangeFrom.mp hl
      exact State.barByte_zero (by omega)

/-! ### The loader (R35, R70) -/

theorem State.blockUsed_iff (s : State) (h : BitVec 32) : s.blockUsed h = true ↔
    ∃ q, q ∈ s.boxes ∧ ((∃ l, l ∈ q.2.queue ∧ l.lbh = h) ∨ ∃ l, q.2.current = some l ∧ l.lbh = h) := by
  simp only [State.blockUsed, List.any_eq_true, Bool.or_eq_true, Option.any_eq_true, beq_iff_eq]

theorem wordsOk_iff (b : BlockReg) :
    wordsOk b = true ↔ b.cwords ≤ 2 ^ 24 ∧ b.vwords ≤ 8192 ∧ b.xwords ≤ 8192 ∧ b.swords ≤ 8192 := by
  simp only [wordsOk, Bool.and_eq_true, decide_eq_true_eq, and_assoc]

/-- The blocks of other handles than `h`. -/
def State.otherBlocks (s : State) (h : BitVec 32) : List BlockReg := s.blocks.filter (·.handle != h)

theorem exec_register {b : BlockReg} (hw : b.withdraw = false) (s : State) :
    exec (.launchBlockRegistration b) s = event (if wordsOk b then { s with blocks := s.otherBlocks b.handle ++ [b] } else s) := by
  simp only [exec, execLaunchBlockRegistration, hw, Bool.false_eq_true, ↓reduceIte]
  rfl

theorem exec_withdraw {b : BlockReg} (hw : b.withdraw = true) (s : State) :
    exec (.launchBlockRegistration b) s = event (if s.blockUsed b.handle then s else { s with blocks := s.otherBlocks b.handle }) := by
  simp only [exec, execLaunchBlockRegistration, hw, ↓reduceIte]
  rfl

/-! ### Links (R383, R387) -/

theorem getLsbD_setBit {n : Nat} (x : BitVec n) (i : Nat) (b : Bool) {j : Nat} (hj : j < n) :
    (setBit x i b).getLsbD j = if j = i then b else x.getLsbD j := by
  have h1 : (BitVec.ofNat n (1 <<< i)).getLsbD j = decide (j = i) := by
    rw [BitVec.getLsbD_ofNat, Nat.one_shiftLeft, Nat.testBit_two_pow, decide_eq_true hj, Bool.true_and]
    exact decide_eq_decide.mpr eq_comm
  have hb : setBit x i b = if b then x ||| BitVec.ofNat n (1 <<< i) else x &&& ~~~ BitVec.ofNat n (1 <<< i) := rfl
  rw [hb]
  cases b
  · simp only [Bool.false_eq_true, ↓reduceIte, BitVec.getLsbD_and, BitVec.getLsbD_not, h1, hj, decide_true, Bool.true_and]
    by_cases h : j = i <;> simp [h]
  · simp only [↓reduceIte, BitVec.getLsbD_or, h1]
    by_cases h : j = i <;> simp [h]

theorem exec_linkDown {k : Nat} (hk : k < 10) (s : State) :
    exec (.linkDown k) s = event { s with links := setBit s.links k false } := by
  simp only [exec, execLinkDown, hk, ↓reduceIte]

theorem exec_linkTraining {k : Nat} (hlo : 2 ≤ k) (hhi : k < 10) (a : BitVec 10) (s : State) :
    exec (.linkTraining k a) s = event { s with links := setBit s.links k true, accid := a } := by
  simp only [exec, execLinkTraining, hlo, hhi, decide_true, Bool.and_self, ↓reduceIte]

theorem exec_linkTraining_cxl {k : Nat} (hk : k < 2) (a : BitVec 10) (s : State) : exec (.linkTraining k a) s = event s := by
  simp only [exec, execLinkTraining, Nat.not_le.mpr hk, decide_false, Bool.false_and, Bool.false_eq_true, ↓reduceIte]

/-! ### Bytes in package HBM (R204) -/

theorem placeOf_of_lt {pa : Nat} (h : pa < 0x9000000000) : placeOf pa = .hbm (pa / 0x2400000000) := if_pos h

theorem placeOf_eq_hbm {pa d : Nat} (h : placeOf pa = .hbm d) : pa < 0x9000000000 := by
  refine Decidable.byContradiction fun hn => ?_
  rw [placeOf, if_neg hn] at h
  split at h
  · cases h
  · split at h
    · cases h
    · split at h <;> cases h

theorem State.seen_hbm (s : State) {l : Nat} (h : l < 0x9000000000) : s.seen l = s.mem.read l := by
  rw [State.seen, placeOf_of_lt h]

theorem State.getBytes_hbm (s : State) {pa n : Nat} (h : pa + n ≤ 0x9000000000) :
    s.getBytes (rangeFrom pa n) = (rangeFrom pa n).map (s.mem.read ·) :=
  List.map_congr_left fun l hl => s.seen_hbm (by have := mem_rangeFrom.mp hl; omega)

theorem State.hideWrite_frame (s : State) (l : Nat) :
    ∃ un, s.hideWrite l = { s with unseen := s.unseen ++ un } ∧ ∀ u, u ∈ un → u.loc = l := by
  unfold State.hideWrite
  split
  · exact ⟨_, rfl, by simp⟩
  · exact ⟨[], by simp, by simp⟩

/-- Bytes put in package HBM: memory, and what peers do not see yet of it. -/
theorem State.putBytes_hbm {by_ : Nat} (l : List (Nat × Byte)) (h : ∀ p, p ∈ l → p.1 < 0x9000000000) : ∀ s : State,
    ∃ un, s.putBytes l by_ = { s with mem := s.mem.writes l, unseen := s.unseen ++ un } ∧ ∀ u, u ∈ un → u.loc ∈ l.map Prod.fst := by
  induction l with
  | nil => exact fun s => ⟨[], by simp [State.putBytes, Mem.writes], by simp⟩
  | cons p r ih =>
    intro s
    obtain ⟨a, b⟩ := p
    have hr := ih fun q hq => h q (List.mem_cons_of_mem _ hq)
    obtain ⟨un, hu, hl⟩ := s.hideWrite_frame a
    have hp : s.putByte a b by_ = { s with mem := s.mem.write a b, unseen := s.unseen ++ un } := by
      rw [State.putByte, placeOf_of_lt (h (a, b) List.mem_cons_self), hu]
    obtain ⟨un2, hu2, hl2⟩ := hr (s.putByte a b by_)
    refine ⟨un ++ un2, ?_, fun u hm => ?_⟩
    · rw [State.putBytes, hu2, hp, ← List.append_assoc]
      rfl
    · rcases List.mem_append.mp hm with hm | hm
      · exact List.mem_cons.mpr (.inl (hl u hm))
      · exact List.mem_cons_of_mem _ (hl2 u hm)

theorem Mem.read_writes_run (ds : List Byte) : ∀ (m : Mem) (pa a : Nat), m.wf = true →
    (m.writes ((rangeFrom pa ds.length).zip ds)).read a = if pa ≤ a ∧ a < pa + ds.length then (ds[a - pa]?).getD 0 else m.read a := by
  induction ds with
  | nil => 
    intro m pa a _
    rw [if_neg (by simp)]
    rfl
  | cons d r ih =>
    intro m pa a hm
    rw [List.length_cons, rangeFrom, List.zip_cons_cons, Mem.writes, ih _ _ _ (Mem.wf_write m pa d hm)]
    by_cases ha : a = pa
    · subst ha
      rw [if_neg (by omega), if_pos (by omega), Nat.sub_self, Mem.read_write_same m a d hm]
      rfl
    · rw [Mem.read_write_ne m d (Ne.symm ha)]
      by_cases hin : pa ≤ a ∧ a < pa + (r.length + 1)
      · have hs : a - pa = a - (pa + 1) + 1 := by omega
        rw [if_pos (by omega), if_pos hin, hs, List.getElem?_cons_succ]
      · rw [if_neg (by omega), if_neg hin]

/-! ### Peers (R387) -/

/-- The bytes that lie at `n` addresses from `pa` on. -/
def within (pa n l : Nat) : Bool := decide (pa ≤ l) && decide (l < pa + n)

theorem contains_rangeFrom (pa n l : Nat) : (rangeFrom pa n).contains l = within pa n l := by
  rw [within, ← Bool.decide_and, List.contains_eq_mem]
  exact decide_eq_decide.mpr mem_rangeFrom

/-- What a peer writes in package HBM is seen at once. -/
theorem State.putBytes_shown (s : State) {pa : Nat} (ds : List Byte) (h : pa + ds.length ≤ 0x9000000000) :
    (s.putBytes ((rangeFrom pa ds.length).zip ds)).shown (rangeFrom pa ds.length) =
      { s with
        mem := s.mem.writes ((rangeFrom pa ds.length).zip ds), unseen := s.unseen.filter fun u => !within pa ds.length u.loc } := by
  obtain ⟨un, hu, hl⟩ := State.putBytes_hbm (by_ := windowAccess) ((rangeFrom pa ds.length).zip ds) (fun p hp => by
    have := mem_rangeFrom.mp (List.of_mem_zip hp).1
    omega) s
  have hnone : un.filter (fun u => !within pa ds.length u.loc) = [] := by
    refine List.filter_eq_nil_iff.mpr fun u hm => ?_
    obtain ⟨p, hp, he⟩ := List.mem_map.mp (hl u hm)
    have := (List.of_mem_zip hp).1
    rw [← contains_rangeFrom, ← he]
    simpa using this
  rw [hu, State.shown]
  simp only [contains_rangeFrom, List.filter_append, hnone, List.append_nil]

theorem toBytes_ofBytes (l : List Byte) : toBytes l.length (ofBytes l) = l := by
  induction l with
  | nil => rfl
  | cons b r ih =>
    have hd : (b.toNat + 256 * ofBytes r) / 256 = ofBytes r := by have := b.isLt; omega
    have hm : BitVec.ofNat 8 (b.toNat + 256 * ofBytes r) = b := by
      apply BitVec.eq_of_toNat_eq
      have := b.isLt
      rw [BitVec.toNat_ofNat]
      omega
    rw [List.length_cons, toBytes, ofBytes, hd, hm, ih]

/-- The word that a peer's atomic leaves is that of R216. -/
theorem atomicNew_eq (aop n : Nat) (ops : List Byte) (old : Nat) :
    atomicNew aop n ops old = Sys2Proof.Spec.Answered.hbmAtomic aop n ops old := by
  unfold atomicNew Sys2Proof.Spec.Answered.hbmAtomic
  simp only [pickWord]
  split <;> simp

/-- What an atomic of R216 asks of a peer's request. -/
def PeerSound (op : PeerOp) (pa : Nat) : Prop :=
  ∀ aop m a b, op = .atomic aop m a b → (m = 4 ∨ m = 8) ∧ pa % m = 0 ∧ aop.toNat ≤ 6

theorem peerSound_atomic (aop : BitVec 4) (n a b pa : Nat) :
    PeerSound (.atomic aop n a b) pa ↔ (n = 4 ∨ n = 8) ∧ pa % n = 0 ∧ aop.toNat ≤ 6 := by
  refine ⟨fun h => h _ _ _ _ rfl, ?_⟩
  rintro h _ _ _ _ ⟨⟩
  exact h

theorem State.peerOk_iff (s : State) (r : PeerReq) :
    s.peerOk r = true ↔ 2 ≤ r.link ∧ r.link < 10 ∧ s.links.getLsbD r.link = true ∧ 0 < peerLen r
      ∧ r.off + peerLen r ≤ s.expsize.toNat * 2 ^ 28 ∧ s.expbase.toNat + r.off + peerLen r ≤ 0x9000000000
      ∧ PeerSound r.op (s.expbase.toNat + r.off) := by
  by_cases hin : s.expbase.toNat + r.off < 0x9000000000 ∧ s.expbase.toNat + r.off + peerLen r - 1 < 0x9000000000
  · simp only [State.peerOk, placeOf_of_lt hin.1, placeOf_of_lt hin.2, Bool.and_eq_true, decide_eq_true_eq, and_assoc, true_and]
    have hend : s.expbase.toNat + r.off + peerLen r ≤ 0x9000000000 := by omega
    simp only [hend, true_and]
    obtain ⟨link, peer, off, op⟩ := r
    cases op
    case atomic aop n a b => simp only [peerSound_atomic, Bool.and_eq_true, Bool.or_eq_true, beq_iff_eq, decide_eq_true_eq, and_assoc]
    all_goals simp [PeerSound]
  · refine ⟨fun h => absurd ?_ hin, fun h => absurd ⟨?_, ?_⟩ hin⟩
    · simp only [State.peerOk, Bool.and_eq_true] at h
      obtain ⟨⟨⟨-, hfirst⟩, hlast⟩, -⟩ := h
      constructor
      · split at hfirst
        · next d hd => exact placeOf_eq_hbm hd
        · cases hfirst
      · split at hlast
        · next d hd => exact placeOf_eq_hbm hd
        · cases hlast
    · omega
    · omega

section Requests

variable {s : State} {r : PeerReq}

/-- A request that is not served leaves a record on some die. -/
theorem exec_ualinkRequest_refused (h : s.peerOk r = false) :
    ∃ t d, exec (.ualinkRequest r) s = .next t ∧ d < 4 ∧ Sys2Proof.Spec.OneRasRecord s t d ∧ t.boxes = s.boxes ∧ t.answer = none := by
  have hd : s.draw.1 % 4 < 4 := Nat.mod_lt _ (by decide)
  have he : exec (.ualinkRequest r) s =
      event { s.draw.2.ras (s.draw.1 % 4) 0xD8 0xFFFF unitFront r.off with answer := none } := by
    simp only [exec, execUalinkRequest, h, Bool.not_false, ↓reduceIte]
  exact ⟨_, _, he, hd, oneRasRecord_ras s.draw.2 hd _ _ _ _, rfl, rfl⟩

theorem exec_ualinkRequest_read (h : s.peerOk r = true) {n : Nat} (ho : r.op = .read n) :
    exec (.ualinkRequest r) s = event { s with answer := some ((rangeFrom (s.expbase.toNat + r.off) n).map s.peerByte) } := by
  simp only [exec, execUalinkRequest, h, ho, Bool.not_true, Bool.false_eq_true, ↓reduceIte]

/-- The state after a peer has written bytes from a physical address on and got an answer. -/
def State.peerWrite (s : State) (pa : Nat) (ds : List Byte) (answer : List Byte) : State :=
  { s with
    mem := s.mem.writes ((rangeFrom pa ds.length).zip ds)
    unseen := s.unseen.filter fun u => !within pa ds.length u.loc
    answer := some answer, last := .event }

theorem exec_ualinkRequest_write (h : s.peerOk r = true) {ds : List Byte} (ho : r.op = .write ds)
    (hin : s.expbase.toNat + r.off + ds.length ≤ 0x9000000000) :
    exec (.ualinkRequest r) s = .next (s.peerWrite (s.expbase.toNat + r.off) ds []) := by
  simp only [exec, execUalinkRequest, h, ho, Bool.not_true, Bool.false_eq_true, ↓reduceIte, s.putBytes_shown ds hin]
  rfl

/-- The bytes that a peer's atomic of `m` bytes leaves where `old` stood (R216). -/
def peerAtomic (op m a b : Nat) (old : List Byte) : List Byte :=
  toBytes m (Sys2Proof.Spec.Answered.hbmAtomic op m (toBytes m a ++ toBytes m b) (ofBytes old))

theorem exec_ualinkRequest_atomic (h : s.peerOk r = true) {op : BitVec 4} {m a b : Nat} (ho : r.op = .atomic op m a b)
    (hin : s.expbase.toNat + r.off + m ≤ 0x9000000000) :
    let old := (rangeFrom (s.expbase.toNat + r.off) m).map (s.mem.read ·)
    exec (.ualinkRequest r) s = .next (s.peerWrite (s.expbase.toNat + r.off) (peerAtomic op.toNat m a b old) old) := by
  intro old
  have hold : s.getBytes (rangeFrom (s.expbase.toNat + r.off) m) = old := s.getBytes_hbm hin
  have hlen : (peerAtomic op.toNat m a b old).length = m := length_toBytes _ _
  have hans : toBytes m (ofBytes old) = old := by
    have hm : old.length = m := by rw [List.length_map, length_rangeFrom]
    exact hm ▸ toBytes_ofBytes old
  have hput := s.putBytes_shown (peerAtomic op.toNat m a b old) (pa := s.expbase.toNat + r.off) (by rw [hlen]; exact hin)
  rw [hlen] at hput
  unfold peerAtomic at hput
  simp only [exec, execUalinkRequest, h, ho, Bool.not_true, Bool.false_eq_true, ↓reduceIte, hold, hans, atomicNew_eq, hput]
  rw [State.peerWrite, hlen]
  rfl

theorem State.peerWrite_spec (pa : Nat) (ds : List Byte) (answer : List Byte) (hw : s.mem.wf = true) :
    let t := s.peerWrite pa ds answer
    t = { s with mem := t.mem, unseen := t.unseen, answer := some answer, last := .event }
      ∧ t.unseen = s.unseen.filter (fun u => !(decide (pa ≤ u.loc) && decide (u.loc < pa + ds.length)))
      ∧ ∀ a, t.mem.read a = if pa ≤ a ∧ a < pa + ds.length then (ds[a - pa]?).getD 0 else s.mem.read a :=
  ⟨rfl, rfl, fun a => Mem.read_writes_run ds s.mem pa a hw⟩

end Requests

theorem linksAndLoader_hold : Sys2Proof.Spec.LinksAndLoader := by
  refine ⟨?_, ?_, ?_⟩
  · intro s b used rest fits
    have hu : s.blockUsed b.handle = true ↔ used := s.blockUsed_iff b.handle
    have hf : wordsOk b = true ↔ fits := wordsOk_iff b
    refine ⟨fun hw h => ?_, fun hw h => ?_, fun hw h => ?_, fun hw h => ?_⟩
    · rw [exec_register hw, if_pos (hf.mpr h)]
      rfl
    · rw [exec_register hw, if_neg (mt hf.mp h)]
    · rw [exec_withdraw hw, if_pos (hu.mpr h)]
    · rw [exec_withdraw hw, if_neg (mt hu.mp h)]
      rfl
  · intro s k a hk
    refine ⟨⟨_, exec_linkDown hk s, rfl, fun j hj => ?_⟩, fun h => exec_linkTraining_cxl h a s,
      fun h => ⟨_, exec_linkTraining h hk a s, rfl, fun j hj => ?_⟩⟩
    · refine (getLsbD_setBit s.links k false hj).trans ?_
      by_cases h : j = k <;> simp [h]
    · refine (getLsbD_setBit s.links k true hj).trans ?_
      by_cases h : j = k <;> simp [h]
  · intro s r hinv n pa ok
    have hok : s.peerOk r = true ↔ ok := s.peerOk_iff r
    obtain ⟨hwf, -, -⟩ := hinv
    refine ⟨fun h => exec_ualinkRequest_refused (Bool.eq_false_iff.mpr (mt hok.mp h)), fun h => ?_⟩
    have hr := hok.mpr h
    obtain ⟨-, -, -, -, -, hin, -⟩ := h
    refine ⟨fun m ho => exec_ualinkRequest_read hr ho, fun ds ho => ?_, fun op m a b ho _ _ => ?_⟩
    · have hn : n = ds.length := by simp only [n, ho]
      refine ⟨_, exec_ualinkRequest_write hr ho (hn ▸ hin), ?_⟩
      rw [hn]
      exact State.peerWrite_spec pa ds [] hwf
    · have hn : n = m := by simp only [n, ho]
      refine ⟨_, exec_ualinkRequest_atomic hr ho (hn ▸ hin), ?_⟩
      have hlen : (peerAtomic op.toNat m a b ((rangeFrom pa m).map (s.mem.read ·))).length = m := length_toBytes _ _
      have hspec := State.peerWrite_spec pa (peerAtomic op.toNat m a b ((rangeFrom pa m).map (s.mem.read ·)))
        ((rangeFrom pa m).map (s.mem.read ·)) hwf
      rw [hlen] at hspec
      exact hspec

end Sys2Proof.Machine

namespace Sys2Proof.Proofs

open Sys2Proof.Machine Sys2Proof.Spec

/-- Settles O53, from its four parts. -/
theorem hostWrites : Obligations.HostWrites :=
  ⟨doorbells_hold, controlPageWrites_hold, controlPageReads_hold, linksAndLoader_hold⟩

end Sys2Proof.Proofs
end
